-- ==== Sys2Proof/Word.lean ====
section
/-! DEFINITION. The words of the Zherak: bytes, 32-bit lane values, 64-bit addresses and lane masks, and the street
vector of 64 lanes (R2, R52, R57). -/

namespace Sys2Proof

/-- One byte of memory. -/
abbrev Byte := BitVec 8

/-- A lane's 32-bit register value, and an instruction word (R19, R52). -/
abbrev Word := BitVec 32

/-- A 64-bit virtual address, program counter or special value (R57, R153). -/
abbrev Addr := BitVec 64

/-- A lane mask: bit L stands for lane L (R57). -/
abbrev Mask := BitVec 64

/-- A lane number, 0 to 63 (R4). -/
abbrev Lane := Fin 64

/-- A register number, channel number or other six-bit operand index (R19 to R22). -/
abbrev RegNo := BitVec 6

/-- A street vector: one 32-bit value for each of the 64 lanes (R13, R52). -/
abbrev SVec := Vector Word 64

/-- All ones, the true predicate (R92). -/
def ones : Word := 0xFFFFFFFF

/-- The predicate convention of R95: ones where the relation holds, 0 where it does not. -/
def predWord (b : Bool) : Word := if b then ones else 0

/-- The street vector whose lane L holds `f L`. -/
def SVec.gen (f : Lane → Word) : SVec := Vector.ofFn f

/-- The street vector that holds one value in every lane. -/
def SVec.splat (w : Word) : SVec := SVec.gen fun _ => w

/-- The street vector of zeros. -/
def SVec.zero : SVec := SVec.splat 0

/-- The lane of a street vector. -/
def SVec.lane (v : SVec) (l : Lane) : Word := v.get l

/-- The 64 lane numbers in ascending order. -/
def allLanes : List Lane := List.finRange 64

/-- Whether a lane belongs to a mask. -/
def Mask.has (m : Mask) (l : Lane) : Bool := m.getLsbD l.val

/-- The lanes of a mask in ascending order. -/
def Mask.lanes (m : Mask) : List Lane := allLanes.filter m.has

/-- The mask of the lanes that satisfy a test. -/
def Mask.ofPred (p : Lane → Bool) : Mask :=
  BitVec.ofNat 64 (allLanes.foldl (fun acc l => if p l then acc + 2 ^ l.val else acc) 0)

/-- The lowest-numbered lane of a mask (R14). -/
def Mask.lowest (m : Mask) : Option Lane := allLanes.find? m.has

/-- The mask of all 64 lanes. -/
def Mask.all : Mask := 0xFFFFFFFFFFFFFFFF

/-- `v` in the lanes of `m`, `old` in the others (R7). -/
def SVec.blend (m : Mask) (v old : SVec) : SVec :=
  SVec.gen fun l => if m.has l then v.lane l else old.lane l

/-- The 64-bit value of a register pair: low word in the even register (R4, R10). -/
def pairVal (lo hi : Word) : Addr := hi ++ lo

/-- The low word of a 64-bit value. -/
def loWord (a : Addr) : Word := a.extractLsb' 0 32

/-- The high word of a 64-bit value. -/
def hiWord (a : Addr) : Word := a.extractLsb' 32 32

/-- Bits [lo + w - 1 : lo] of a number (R2). -/
def bits (x lo w : Nat) : Nat := (x >>> lo) % 2 ^ w

/-- Bit `i` of a number. -/
def bit (x i : Nat) : Bool := x.testBit i

/-- A boolean as the number 0 or 1. -/
def b2n (b : Bool) : Nat := if b then 1 else 0

end Sys2Proof
end

