-- ==== Sys2Proof/Syntax.lean ====
section
/-! DEFINITION. The instructions of Ezwin and the events of the part's other agents: one constructor of `Instr` for each
row of the opcode table. Operand structures hold the fields of the formats of R19, reserved values included, so that the
checks of R40 have something to refuse. -/

namespace Sys2Proof

/-- Destination field d of formats A, B and L, and data of format M (R20): a register, or a channel with `chan`. -/
structure Dst where
  chan : Bool
  idx  : RegNo
deriving DecidableEq, Repr

/-- Source field a (R21): register through permutation slot p, or a channel (p = 2 pops, p = 0 peeks). -/
structure SrcA where
  chan : Bool
  idx  : RegNo
  p    : BitVec 2
deriving DecidableEq, Repr

/-- Source field b (R22): register (p applies slot 1), or a channel (p pops). -/
structure SrcB where
  chan : Bool
  idx  : RegNo
  p    : Bool
deriving DecidableEq, Repr

/-- A register source with its permutation slot: field a of the moment instructions (R23, R132). -/
structure RegP where
  idx : RegNo
  p   : BitVec 2
deriving DecidableEq, Repr

/-- A register source b of MADD, MSUB and MMUL: slot 1 or none (R132). -/
structure RegB where
  idx : RegNo
  p   : Bool
deriving DecidableEq, Repr

/-- The size field of format M (R35). -/
inductive MSize where
  | b8 | b16 | b32 | b64 | b128 | raw | keepexp | reserved7
deriving DecidableEq, Repr

/-- The ord field of formats M and MA (R35). -/
inductive MOrd where
  | plain | acq | rel | ar
deriving DecidableEq, Repr

/-- The aop field of format MA and the red field of SCAT (R36). -/
inductive Aop where
  | add | smin | smax | nmin | nmax | and | or | xor | xchg | cas | fadd
  | reserved11 | reserved12 | reserved13 | reserved14 | reserved15
deriving DecidableEq, Repr

/-- The remap field of format X (R36, R328). -/
inductive Remap where
  | none | mod | hash | tab
deriving DecidableEq, Repr

/-- SLIDE's fill field (R34, R104). -/
inductive Fill where
  | zero | edge | old | wrap
deriving DecidableEq, Repr

/-- Format A. -/
structure FA where
  u : Bool
  d : Dst
  a : SrcA
  b : SrcB
deriving DecidableEq, Repr

/-- Format A of an instruction that also reads d, which names a register (R23). -/
structure FA3 where
  u : Bool
  d : RegNo
  a : SrcA
  b : SrcB
deriving DecidableEq, Repr

/-- Format B with a destination and one source (R100, R117). -/
structure FB where
  u : Bool
  d : Dst
  a : SrcA
deriving DecidableEq, Repr

/-- SLIDE (R104). -/
structure FSlide where
  u    : Bool
  d    : Dst
  a    : SrcA
  up   : Bool
  fill : Fill
  k    : BitVec 5
deriving DecidableEq, Repr

/-- Format I: LI (R105). -/
structure FI where
  u   : Bool
  d   : RegNo
  h   : Bool
  imm : BitVec 17
deriving DecidableEq, Repr

/-- Format K (R106). -/
structure FK where
  u   : Bool
  d   : RegNo
  a   : RegNo
  imm : BitVec 12
deriving DecidableEq, Repr

/-- CVT: format B with the target type in sub[7:4] (R117, R121). -/
structure FCvt where
  u : Bool
  d : Dst
  a : SrcA
  t : BitVec 4
deriving DecidableEq, Repr

/-- Format L of the XCEND group (R123). -/
structure FL where
  u  : Bool
  d  : Dst
  a  : SrcA
  la : BitVec 4
deriving DecidableEq, Repr

/-- Format L of the MOMNL group (R136). -/
structure FML where
  u  : Bool
  d  : RegNo
  a  : RegP
  la : BitVec 4
deriving DecidableEq, Repr

/-- MADD, MSUB, MMUL (R132). -/
structure FM2 where
  u : Bool
  d : RegNo
  a : RegP
  b : RegB
deriving DecidableEq, Repr

/-- MSCL (R132). -/
structure FMScl where
  u : Bool
  d : RegNo
  a : RegP
  b : SrcB
deriving DecidableEq, Repr

/-- MCOLL.MEAN, STD and VAR (R138). -/
structure FMColl where
  u : Bool
  d : RegNo
  a : RegP
deriving DecidableEq, Repr

/-- MCOLL.UCB (R138). -/
structure FMUcb where
  u : Bool
  d : RegNo
  a : RegP
  k : RegNo
deriving DecidableEq, Repr

/-- Format M of LD and ST, and of LDS and STS with nc = 0 (R196, R197). -/
structure FM where
  u    : Bool
  data : Dst
  addr : RegNo
  la   : BitVec 4
  size : MSize
  ord  : MOrd
  str  : Bool
  nc   : Bool
deriving DecidableEq, Repr

/-- Format M of LDS and STS, whose nc is 0 (R197). -/
structure FMS where
  u    : Bool
  data : Dst
  addr : RegNo
  la   : BitVec 4
  size : MSize
  ord  : MOrd
  str  : Bool
deriving DecidableEq, Repr

/-- Format MA of ATOM and MATOM (R198, R325). -/
structure FMA where
  u    : Bool
  data : RegNo
  addr : RegNo
  la   : BitVec 4
  aop  : Aop
  w    : Bool
  ord  : MOrd
deriving DecidableEq, Repr

/-- Format MA of MRED, whose LA is 0 (R326). -/
structure FMRed where
  u    : Bool
  data : RegNo
  addr : RegNo
  aop  : Aop
  w    : Bool
  ord  : MOrd
deriving DecidableEq, Repr

/-- Format X of LDX (R329). -/
structure FX where
  u     : Bool
  d     : RegNo
  base  : RegNo
  idx   : RegNo
  la    : BitVec 4
  remap : Remap
deriving DecidableEq, Repr

/-- Format X of SCAT (R330). -/
structure FScat where
  u     : Bool
  data  : RegNo
  base  : RegNo
  idx   : RegNo
  red   : Aop
  remap : Remap
deriving DecidableEq, Repr

/-- WAITA (R200). -/
structure FWait where
  u    : Bool
  addr : RegNo
  la   : BitVec 4
deriving DecidableEq, Repr

/-- PREF (R204). -/
structure FPref where
  u    : Bool
  addr : RegNo
  la   : BitVec 4
  nc   : Bool
deriving DecidableEq, Repr

/-- FENCE: scope code f and kind (R37, R202). -/
structure FFence where
  u    : Bool
  f    : BitVec 4
  kind : BitVec 2
deriving DecidableEq, Repr

/-- An instruction whose one operand is the pair a: CACHE, CLRNOTE, CLRCLEAN, BRX, CALLX (R23). -/
structure FPair where
  u : Bool
  a : RegNo
deriving DecidableEq, Repr

/-- CHMAP: channel c and register i; CHSTAT: register i and channel c (R206). -/
structure FChan where
  u : Bool
  c : RegNo
  i : RegNo
deriving DecidableEq, Repr

/-- CLRQ (R224). -/
structure FClrq where
  u : Bool
  d : RegNo
  a : RegNo
deriving DecidableEq, Repr

/-- CLRWAIT (R225). -/
structure FClrw where
  u  : Bool
  d  : RegNo
  a  : RegNo
  la : BitVec 4
deriving DecidableEq, Repr

/-- BRA and CALL (R143, R146). -/
structure FC where
  u   : Bool
  off : BitVec 24
deriving DecidableEq, Repr

/-- BRP (R143). -/
structure FBrp where
  u   : Bool
  p   : RegNo
  pol : Bool
  off : BitVec 17
deriving DecidableEq, Repr

/-- TRAP, BKPT, TRMARK: a 20-bit val (R37, R154). -/
structure FVal where
  u   : Bool
  val : BitVec 20
deriving DecidableEq, Repr

/-- MODE (R38, R150). -/
structure FMode where
  f   : BitVec 4
  val : BitVec 20
deriving DecidableEq, Repr

/-- SREAD (R151). -/
structure FSread where
  u : Bool
  d : RegNo
  n : BitVec 8
deriving DecidableEq, Repr

/-- SWRITE (R151). -/
structure FSwrite where
  u : Bool
  a : SrcA
  n : BitVec 8
deriving DecidableEq, Repr

/-- Format E with LA and q (R274). -/
structure FE where
  u  : Bool
  la : BitVec 4
  x  : RegNo
  q  : RegNo
deriving DecidableEq, Repr

/-- Format E with LA, q and NB: TPOST and LAUNCH (R290). -/
structure FEN where
  u  : Bool
  la : BitVec 4
  x  : RegNo
  q  : RegNo
  nb : Bool
deriving DecidableEq, Repr

/-- Format E with LA and q = 0 (R274). -/
structure FEL where
  u  : Bool
  la : BitVec 4
  x  : RegNo
deriving DecidableEq, Repr

/-- Format E with q and LA = 0: TLWAIT and BAR (R276). -/
structure FEQ where
  u : Bool
  x : RegNo
  q : RegNo
deriving DecidableEq, Repr

/-- Format E with LA = 0 and q = 0: TRAVW (R338). -/
structure FE0 where
  u : Bool
  x : RegNo
deriving DecidableEq, Repr

/-- A street by its STREETID (R153). -/
abbrev StreetId := Word

/-- The master on whose path a window write arrives (R350): 1 PCIe host, 2 management network, 3 resident OS. -/
inductive Master where
  | pcieHost | mgmtNetwork | residentOs
deriving DecidableEq, Repr

/-- A claim of ownership, with the masters whose claims arrive in the same fabric cycle (R351). -/
structure Claim where
  master : Master
  rivals : List Master := []
deriving DecidableEq, Repr

/-- A heartbeat: the member that sends it, and the SEQs of the collectives it has joined since the last (R381). -/
structure Beat where
  dev   : Nat
  joins : List Nat := []
deriving DecidableEq, Repr

/-- A place that a soft error can flip (R362, R364, R365). Numbers count words of the named store. -/
inductive ErrLoc where
  | hbm (sector : Nat)
  | unit (u : Nat)
  | l2 (sector : Nat)
  | spad (core word : Nat)
  | parity (core group row word : Nat)
  | reg (street : StreetId) (reg lane : Nat)
  | pan (block word : Nat)
  | queue (block queue : Nat)
deriving DecidableEq, Repr

/-- An agent that waits for a serviced fault (R161, R245, R261, R335). -/
inductive Waiter where
  | street (sid : StreetId)
  | mxop (id : Nat)
  | copy (id : Nat)
  | walk (id : Nat)
  /-- the scheduler of a die -/
  | scheduler (die : Nat)
deriving DecidableEq, Repr

/-- What a barrier instruction, or a copy's completion, asks of a barrier of another device (R263, R378): an arrival, which a BAR waits
after; BARINIT with SCOPE, QSZ and EXPECTED; BARINV. -/
inductive BarReq where
  | arrive (wait : Bool)
  | init (scope qsz expected : Nat)
  | inv
deriving DecidableEq, Repr

/-- What an access arriving over Polcy Link asks for (R378). -/
inductive RemoteOp where
  | load (n : Nat)
  | store (data : List Byte)
  | atomic (aop : Aop) (w : Bool) (x y : Addr)
  | reduce (aop : Aop) (w : Bool) (x : Addr)
  | bar (req : BarReq)
deriving DecidableEq, Repr

/-- The answer a home device sends for a remote access (R388). -/
inductive RemoteReply where
  | data (v : List Byte)
  | done
  | unreachable
  /-- poison or uncorrectable data at the home: a read meets it, and the reductions of these lanes have not been performed (R327) -/
  | poisoned (lanes : List Nat)
deriving DecidableEq, Repr

/-- How the other members of a collective stand when it completes (R382, R384, R386): the contribution of each rank as
bytes, or a disagreement. -/
inductive CollOutcome where
  | complete (contrib : List (List Byte))
  | mismatch
deriving DecidableEq, Repr

/-- How a boot fetch goes on (R347): it begins, it fails, it delivers the image with its signature, or the image delivered
has been checked. -/
inductive Fetched where
  | begun
  | failed
  | image (bytes : List Byte) (signature : List Byte)
  | verified
deriving DecidableEq, Repr

/-- What a halt request stops (R155, R243, R370): a street, a thread of a system core with its identity and PC, or a whole
context. -/
inductive HaltTarget where
  | street (sid : StreetId)
  | thread (die pid tid : Nat) (pc : Addr)
  | context (ctx : Nat)
deriving DecidableEq, Repr

/-- Ezwin instruction words and the events of the part's other agents, one constructor per row of the opcode table. -/
inductive Instr where
  /-- ILL (R40): Any word with major opcode 0x00, including the all-zero word, takes trap ILLEGAL. -/
  | ill (z : BitVec 25)
  /-- IADD (R93): Integer add, wrapping or saturating under MD.SAT. -/
  | iadd (w : FA)
  /-- ISUB (R93): Integer subtract, wrapping or saturating. -/
  | isub (w : FA)
  /-- IMUL (R93): Low 32 bits of the product, or saturated signed product. -/
  | imul (w : FA)
  /-- IMULH (R93): High word of the signed product. -/
  | imulh (w : FA)
  /-- NMULH (R93): High word of the unsigned product. -/
  | nmulh (w : FA)
  /-- IMAD (R93): Multiply-add into d, with one clamp under SAT. -/
  | imad (w : FA3)
  /-- IMIN (R93): Signed minimum. -/
  | imin (w : FA)
  /-- IMAX (R93): Signed maximum. -/
  | imax (w : FA)
  /-- NMIN (R93): Unsigned minimum. -/
  | nmin (w : FA)
  /-- NMAX (R93): Unsigned maximum. -/
  | nmax (w : FA)
  /-- AND (R93): Bitwise AND. -/
  | and (w : FA)
  /-- OR (R93): Bitwise OR. -/
  | or (w : FA)
  /-- XOR (R93): Bitwise XOR. -/
  | xor (w : FA)
  /-- ANDN (R93): a AND NOT b. -/
  | andn (w : FA)
  /-- SHL (R94): Shift left by n(b); 0 for counts of 32 or more. -/
  | shl (w : FA)
  /-- SHR (R94): Logical shift right by n(b). -/
  | shr (w : FA)
  /-- SAR (R94): Arithmetic shift right by n(b). -/
  | sar (w : FA)
  /-- ROTL (R94): Rotate left by n(b) mod 32. -/
  | rotl (w : FA)
  /-- SEL (R96): Per-lane select on bit 0 of d. -/
  | sel (w : FA3)
  /-- ISEQ (R95): Compare equal, writing ones or zero. -/
  | iseq (w : FA)
  /-- ISNE (R95): Compare not equal. -/
  | isne (w : FA)
  /-- ISLT (R95): Signed less-than. -/
  | islt (w : FA)
  /-- ISLE (R95): Signed less-or-equal. -/
  | isle (w : FA)
  /-- NSLT (R95): Unsigned less-than. -/
  | nslt (w : FA)
  /-- NSLE (R95): Unsigned less-or-equal. -/
  | nsle (w : FA)
  /-- BFX (R97): Extracts a zero-extended bit field. -/
  | bfx (w : FA)
  /-- BFI (R97): Inserts a bit field into d. -/
  | bfi (w : FA3)
  /-- PERM (R98): Full lane permutation selected by b. -/
  | perm (w : FA)
  /-- MOV (R100): Copies a, optionally permuted, into d. -/
  | mov (w : FB)
  /-- NOT (R100): Bitwise NOT. -/
  | not (w : FB)
  /-- INEG (R100): Integer negate, saturating under SAT. -/
  | ineg (w : FB)
  /-- IABS (R100): Integer absolute value, saturating under SAT. -/
  | iabs (w : FB)
  /-- POPC (R100): Population count. -/
  | popc (w : FB)
  /-- CLZ (R100): Count of leading zeros. -/
  | clz (w : FB)
  /-- BREV (R100): Bit reverse. -/
  | brev (w : FB)
  /-- VOTEANY (R101): Ones in active lanes if any active lane has bit 0 set. -/
  | voteany (w : FB)
  /-- VOTEALL (R101): Ones if every active lane has bit 0 set. -/
  | voteall (w : FB)
  /-- BALLOT (R101): Writes the 64-bit mask of active lanes with bit 0 set into a pair. -/
  | ballot (w : FB)
  /-- NNZ (R102): Counts nonzero elements of a under MD.TYPE. -/
  | nnz (w : FB)
  /-- SLIDE (R104): Shifts the street vector by k elements with the chosen fill. -/
  | slide (w : FSlide)
  /-- LI (R105): Loads a sign-extended 17-bit immediate, or its high part with h. -/
  | li (w : FI)
  /-- IADDI (R106): Adds a sign-extended 12-bit immediate. -/
  | iaddi (w : FK)
  /-- ANDI (R106): AND with immediate. -/
  | andi (w : FK)
  /-- ORI (R106): OR with immediate. -/
  | ori (w : FK)
  /-- XORI (R106): XOR with immediate. -/
  | xori (w : FK)
  /-- SHLI (R106): Shift left by immediate 0-31. -/
  | shli (w : FK)
  /-- SHRI (R106): Logical shift right by immediate. -/
  | shri (w : FK)
  /-- SARI (R106): Arithmetic shift right by immediate. -/
  | sari (w : FK)
  /-- ISLTI (R106): Signed less-than against an immediate. -/
  | islti (w : FK)
  /-- ADD (R112): Typed add under MD.TYPE. -/
  | add (w : FA)
  /-- SUB (R112): Typed subtract. -/
  | sub (w : FA)
  /-- MUL (R112): Typed multiply. -/
  | mul (w : FA)
  /-- FMA (R112): Fused a×b+d with one rounding. -/
  | fma (w : FA3)
  /-- FMS (R112): Fused a×b−d. -/
  | fms (w : FA3)
  /-- FNMA (R112): Fused −(a×b)+d. -/
  | fnma (w : FA3)
  /-- MIN (R113): Typed minimum with NaN rules. -/
  | min (w : FA)
  /-- MAX (R113): Typed maximum with NaN rules. -/
  | max (w : FA)
  /-- CEQ (R114): Typed compare equal. -/
  | ceq (w : FA)
  /-- CNE (R114): Typed compare not equal. -/
  | cne (w : FA)
  /-- CLT (R114): Typed compare less-than. -/
  | clt (w : FA)
  /-- CLE (R114): Typed compare less-or-equal. -/
  | cle (w : FA)
  /-- CUN (R114): True where either source is NaN. -/
  | cun (w : FA)
  /-- DOT2 (R115): Two-element dot product accumulated into d. -/
  | dot2 (w : FA3)
  /-- DOT4 (R115): Four-element dot product accumulated into d. -/
  | dot4 (w : FA3)
  /-- RSHR (R116): Rounding right shift that saturates and packs. -/
  | rshr (w : FA)
  /-- ABS (R118): Typed absolute value. -/
  | abs (w : FB)
  /-- NEG (R118): Typed negation. -/
  | neg (w : FB)
  /-- FRACT (R119): Fractional part. -/
  | fract (w : FB)
  /-- RNDI (R119): Rounds to an integral value in MD.RND. -/
  | rndi (w : FB)
  /-- SATP (R120): Clamps to [0, 1], or to non-negative for signed integers. -/
  | satp (w : FB)
  /-- CVT (R121): Converts each element from MD.TYPE to the target type. -/
  | cvt (w : FCvt)
  /-- RCP (R123): Reciprocal, long-latency. -/
  | rcp (w : FL)
  /-- RSQ (R123): Reciprocal square root. -/
  | rsq (w : FL)
  /-- SQRT (R123): Correctly rounded square root. -/
  | sqrt (w : FL)
  /-- EXP2 (R123): Base-2 exponential. -/
  | exp2 (w : FL)
  /-- LOG2 (R123): Base-2 logarithm. -/
  | log2 (w : FL)
  /-- SIN (R123): Sine. -/
  | sin (w : FL)
  /-- COS (R123): Cosine. -/
  | cos (w : FL)
  /-- TANH (R123): Hyperbolic tangent. -/
  | tanh (w : FL)
  /-- NCDF (R123): Standard normal distribution function. -/
  | ncdf (w : FL)
  /-- NPDF (R123): Standard normal density. -/
  | npdf (w : FL)
  /-- MRELU (R137): Moments of a rectified normal. -/
  | mrelu (w : FML)
  /-- MSIG (R137): Moments of the probit-approximated sigmoid. -/
  | msig (w : FML)
  /-- MEXP (R137): Lognormal moments. -/
  | mexp (w : FML)
  /-- MGELU (R137): Moments of GELU. -/
  | mgelu (w : FML)
  /-- MSQR (R137): Moments of a squared normal. -/
  | msqr (w : FML)
  /-- MADD (R133): Moment add under the correlation of MD.MCOV. -/
  | madd (w : FM2)
  /-- MSUB (R133): Moment subtract. -/
  | msub (w : FM2)
  /-- MMUL (R134): Moments of a product of two jointly normal values. -/
  | mmul (w : FM2)
  /-- MSCL (R135): Scales a moment by a plain f32. -/
  | mscl (w : FMScl)
  /-- MCOLL_MEAN (R138): Collapses a moment to its mean. -/
  | mcollMean (w : FMColl)
  /-- MCOLL_STD (R138): Collapses a moment to its standard deviation. -/
  | mcollStd (w : FMColl)
  /-- MCOLL_VAR (R138): Collapses a moment to its variance. -/
  | mcollVar (w : FMColl)
  /-- MCOLL_UCB (R138): Collapses a moment to mean plus k standard deviations. -/
  | mcollUcb (w : FMUcb)
  /-- LD (R196): Loads from global memory, acquiring colours. -/
  | ld (w : FM)
  /-- ST (R196): Stores to global memory, acquiring colours. -/
  | st (w : FM)
  /-- LDS (R197): Loads from scratchpad space, locally or through a window. -/
  | lds (w : FMS)
  /-- STS (R197): Stores to scratchpad space. -/
  | sts (w : FMS)
  /-- ATOM (R199): Atomic read-modify-write at the home slice, returning the old value. -/
  | atom (w : FMA)
  /-- MATOM (R325): Atomic performed at the memory-side unit on memory-side pages. -/
  | matom (w : FMA)
  /-- MRED (R326): Sends a reduction without a return value. -/
  | mred (w : FMRed)
  /-- LDX (R329): Indexed load with optional index remapping. -/
  | ldx (w : FX)
  /-- SCAT (R330): Indexed scatter reduction, combining lanes of equal address in the street. -/
  | scat (w : FScat)
  /-- WAITA (R201): Waits on an address monitor of the line. -/
  | waita (w : FWait)
  /-- FENCE (R202): Orders the street's earlier accesses before later ones at a scope. -/
  | fence (w : FFence)
  /-- CACHE_WB (R203): Writes dirty L2 lines of a region back to HBM. -/
  | cacheWb (w : FPair)
  /-- CACHE_INV (R203): Invalidates the region in the issuing core's L1. -/
  | cacheInv (w : FPair)
  /-- CACHE_WBINV (R203): Writes back, then invalidates L2 and L1 copies. -/
  | cacheWbinv (w : FPair)
  /-- PREF (R204): Prefetches a line into L2 and optionally L1. -/
  | pref (w : FPref)
  /-- CHMAP (R207): Binds or unbinds a channel to a hardware queue. -/
  | chmap (w : FChan)
  /-- CHSTAT (R208): Reads a channel's binding and count. -/
  | chstat (w : FChan)
  /-- CLRSYNC (R223): Checks the colour region table and invalidates every lookaside. -/
  | clrsync (u : Bool)
  /-- CLRQ_HELD (R224): Reports whether the lane holds the colour. -/
  | clrqHeld (w : FClrq)
  /-- CLRQ_OWNER (R224): Reports the colour's owner and state. -/
  | clrqOwner (w : FClrq)
  /-- CLRQ_DEPTH (R224): Reports the depth at which the lane holds the colour. -/
  | clrqDepth (w : FClrq)
  /-- CLRWAIT (R225): Releases a held colour and sleeps until noted and handed back. -/
  | clrwait (w : FClrw)
  /-- CLRNOTE_ONE (R226): Moves the earliest sleeper of a colour to its FIFO. -/
  | clrnoteOne (w : FPair)
  /-- CLRNOTE_ALL (R226): Moves every sleeper of a colour to its FIFO. -/
  | clrnoteAll (w : FPair)
  /-- CLRCLEAN (R227): Clears POISON of a colour. -/
  | clrclean (w : FPair)
  /-- BRA (R143): Unconditional relative branch. -/
  | bra (w : FC)
  /-- BRP (R143): Predicated branch, splitting the path when lanes disagree. -/
  | brp (w : FBrp)
  /-- CALL (R146): Pushes return addresses to the frame stack and raises DEPTH. -/
  | call (w : FC)
  /-- BRX (R144): Branch to a register target, splitting by target. -/
  | brx (w : FPair)
  /-- CALLX (R146): Call to a register target. -/
  | callx (w : FPair)
  /-- RET (R147): Releases the frame's colours after its waits and returns. -/
  | ret (u : Bool)
  /-- EXIT (R148): Ends the path's lanes, releasing all their colours. -/
  | exit (u : Bool)
  /-- YIELD (R149): Hands issue to other paths and makes the street ineligible for 8 cycles. -/
  | yield (u : Bool)
  /-- NOP (R149): Does nothing. -/
  | nop (u : Bool)
  /-- TRAP (R154): Raises SWTRAP with a code. -/
  | trap (w : FVal)
  /-- TRET (R159): Ends the trap handler and resumes the saved path. -/
  | tret (u : Bool) (retry : Bool)
  /-- BKPT (R154): Raises BKPT, or stops for an attached debugger. -/
  | bkpt (w : FVal)
  /-- TRMARK (R18): Writes a MARK trace packet. -/
  | trmark (w : FVal)
  /-- HALT (R155): Privileged halt of the street. -/
  | halt (u : Bool) (force : Bool)
  /-- MODE (R150): Writes one field of MD. -/
  | mode (w : FMode)
  /-- SREAD (R151): Reads a special register. -/
  | sread (w : FSread)
  /-- SWRITE (R151): Writes a special register. -/
  | swrite (w : FSwrite)
  /-- MMT (R280): Queues a matrix product into a pan. -/
  | mmt (w : FE)
  /-- MMTS (R280): Queues a sparse matrix product. -/
  | mmts (w : FE)
  /-- MMM (R280): Queues a moment matrix product into a pan pair. -/
  | mmm (w : FE)
  /-- PANZ (R281): Queues zeroing of a pan. -/
  | panz (w : FE)
  /-- PANLD (R281): Queues a load of a pan from memory. -/
  | panld (w : FE)
  /-- PANST (R281): Queues a store of a pan to memory. -/
  | panst (w : FE)
  /-- PANRD (R283): Reads one pan row into registers through the pan port. -/
  | panrd (w : FEL)
  /-- PANWR (R283): Writes one pan row from registers. -/
  | panwr (w : FEL)
  /-- PANSTAT (R284): Reads and clears a pan's exception summary and state. -/
  | panstat (w : FEL)
  /-- TPOST (R290): Posts a tile-task record to the pending-launch queue. -/
  | tpost (w : FEN)
  /-- LAUNCH (R290): Posts a LAUNCH record. -/
  | launch (w : FEN)
  /-- TQSTAT (R291): Reads pending-queue and ready-pool occupancy. -/
  | tqstat (w : FEL)
  /-- CPY (R294): Issues a tensor-box copy to a copy engine. -/
  | cpy (w : FE)
  /-- CPYRED (R294): Issues a copy that combines into its destination. -/
  | cpyred (w : FE)
  /-- CPYSTAT (R295): Reads outstanding copies and clears sticky copy errors. -/
  | cpystat (w : FEL)
  /-- TLWAIT (R296): Waits until a timeline reaches a value, then acquires. -/
  | tlwait (w : FEQ)
  /-- TLREAD (R296): Reads a timeline's VALUE. -/
  | tlread (w : FE)
  /-- TLADV (R296): Advances a timeline after a package-scope release. -/
  | tladv (w : FE)
  /-- BAR (R297): Arrives on a barrier and waits for its phase. -/
  | bar (w : FEQ)
  /-- BARA (R297): Arrives on a barrier without waiting. -/
  | bara (w : FE)
  /-- BARINIT (R298): Initialises a barrier. -/
  | barinit (w : FE)
  /-- BARINV (R298): Invalidates a barrier and releases its waiters. -/
  | barinv (w : FE)
  /-- TRAV (R337): Starts one pointer walk per active lane. -/
  | trav (w : FE)
  /-- TRAVW (R338): Waits for the lanes' walks and returns their status. -/
  | travw (w : FE0)
  /-- COLL (R386): Joins a collective through the die's collective engine. -/
  | coll (w : FE)
  /-- COLLSTAT (R386): Reports the status of the street's latest collective. -/
  | collstat (w : FEL)
  /-- SALN (R300): Prunes weights by saliency on a copy engine. -/
  | saln (w : FE)
  /-- SMETA (R301): Compresses dense rows into kept elements and metadata. -/
  | smeta (w : FE)
  /-- FAULT_POINT (R29): A long-latency instruction reaches its fault point, writes its result and lets its window commit. -/
  | faultPoint (street : StreetId) (index : Nat)
  /-- SERVICED_FAULT_REPLAY (R161): After the resident OS services a fault, the waiting instruction replays. -/
  | servicedFaultReplay (who : Waiter) (fix : List Host.Cell)
  /-- MONITOR_FIRE (R186): A write or L2 invalidation of a monitored line makes its waiting entries runnable. -/
  | monitorFire (line : Nat)
  /-- PREEMPTION_REQUEST (R171): The resident OS asks to pre-empt a block; its paths stop at safe points. -/
  | preemptionRequest (block image : Nat)
  /-- BLOCK_SAVE (R173): Once every street is ready the block image is written. -/
  | blockSave (block : Nat)
  /-- FORCED_SAVE (R172): After 65,536 cycles unready, the block is stopped and saved with KIND 3. -/
  | forcedSave (block : Nat)
  /-- SWAP_CANDIDATE (R175): After 4,096 cycles of waits the core reports the block as a swap candidate. -/
  | swapCandidate (block : Nat)
  /-- SWAP_OUT (R175): The resident OS orders a KIND 2 save that frees slots, granules and scratchpad. -/
  | swapOut (block image : Nat)
  /-- RESTORE (R174): The die scheduler reloads a saved block once its wait is met and resources are free. -/
  | restore (block : Nat)
  /-- DIRECT_POST (R254): A host or resident-OS record enters the ready pool after checks, waiting for room. -/
  | directPost (die ctx addr tid : Nat) (record : List Byte)
  /-- INGESTION (R255): Every 64 cycles the die scheduler ingests one pending record and checks it. -/
  | ingestion (die : Nat)
  /-- DISPATCH (R257): The scheduler dispatches a READY record to an engine or places a LAUNCH. -/
  | dispatch (die : Nat)
  /-- LAUNCH_RESERVATION (R257): A LAUNCH passed over 64 times reserves its district. -/
  | launchReservation (die : Nat)
  /-- TIMELINE_ADVANCE (R250): A completed operation advances its timeline, meeting record waits. -/
  | timelineAdvance (block tl : Nat)
  /-- ENGINE_CHOOSE (R242): When an operation leaves the sequencer the engine chooses the next candidate. -/
  | engineChoose (cluster : Nat)
  /-- PRIORITY_AGEING (R242): A candidate passed over 16 times is taken as high priority. -/
  | priorityAgeing (cluster : Nat)
  /-- MERGE (R244): A fetched K-step merges into the pan and KPROG rises. -/
  | merge (cluster : Nat)
  /-- ENGINE_FETCH_FAULT (R245): A translation fault in operand fetch discards the step and makes the operation FAULTED. -/
  | engineFetchFault (cluster : Nat)
  /-- ENGINE_FAULT_SERVICED (R245): The serviced operation returns to QUEUED at its queue's head. -/
  | engineFaultServiced (op : Nat) (fix : List Host.Cell)
  /-- COPY_COMPLETE (R260): A copy's payload is performed; stamp, barrier arrival and advance follow. -/
  | copyComplete (copy : Nat)
  /-- WALK_STEP (R333): A walk's record load returns and one rule is evaluated. -/
  | walkStep (walk : Nat)
  /-- MRED_PERFORM (R327): A sent reduction is performed at its unit or home slice. -/
  | mredPerform (red : Nat)
  /-- REMOTE_ACCESS (R378): An access arriving over Polcy Link is performed at the home device. -/
  | remoteAccess (pa : Nat) (op : RemoteOp)
  /-- REMOTE_ACK (R388): A home device acknowledges a remote store, atomic or reduction as performed. -/
  | remoteAck (req : Nat) (reply : RemoteReply)
  /-- COLLECTIVE_COMPLETE (R386): A collective writes DST, then its stamp, then its advance. -/
  | collectiveComplete (coll : Nat) (outcome : CollOutcome)
  /-- HEARTBEAT_SEND (R381): Every 10 µs a member sends a heartbeat to every other member. -/
  | heartbeatSend (job : Nat)
  /-- HEARTBEAT_RECEIVE (R381): A heartbeat from a member resets its failure timer. -/
  | heartbeatReceive (job : Nat) (beat : Beat)
  /-- HEARTBEAT_TIMEOUT (R381): No heartbeat for FTO declares a member failed. -/
  | heartbeatTimeout (job dev : Nat)
  /-- PROGRESS_TIMEOUT (R381): A live member not joining within PTO is declared failed. -/
  | progressTimeout (job dev : Nat)
  /-- HOLD (R383): A HOLD broadcast marks a member held and suspends progress timers. -/
  | hold (job dev : Nat)
  /-- RELEASE (R383): A RELEASE broadcast returns the member to live and restarts progress timers. -/
  | release (job dev : Nat)
  /-- ABORT (R384): An ABORT under a SEQ completes that collective with MISMATCH. -/
  | abort (job seq : Nat)
  /-- FLIT_REPLAY (R376): A flit failing its CRC is replayed from the retry buffer. -/
  | flitReplay (port : Nat)
  /-- LANE_LOSS (R376): A port losing lanes runs degraded on the lanes left. -/
  | laneLoss (port lanes : Nat)
  /-- CONTEXT_END (R390): The resident OS ends a context, stopping all its streets and operations. -/
  | contextEnd (ctx : Nat)
  /-- HALT_REQUEST (R155): A resident-OS or zdb halt request stops a street, deferred at trap level 1. -/
  | haltRequest (target : HaltTarget) (force : Bool)
  /-- BLOCK_HALT (R371): A zdb request halts every street of a block. -/
  | blockHalt (block : Nat)
  /-- CONTINUE (R371): Continuing a block resumes every stopped street. -/
  | continueRun (block : Nat) (street : Option StreetId) (pc : Option Addr)
  /-- CLAIM (R351): A write of CLAIM to ELECT takes ownership when none exists. -/
  | claim (c : Claim) (value : Nat)
  /-- HANDTO (R351): The owner passes ownership to another master. -/
  | handto (m : Master) (target : Nat)
  /-- TLBI_PAGE (R318): TLBICTL GO with KIND 0 invalidates the page at TLBIVA in a context. -/
  | tlbiPage (m : Master) (die ctx : Nat) (pcflush : Bool)
  /-- TLBI_CONTEXT (R318): TLBICTL GO with KIND 1 invalidates a whole context. -/
  | tlbiContext (m : Master) (die ctx : Nat) (pcflush : Bool)
  /-- TLBI_ALL (R318): TLBICTL GO with KIND 2 invalidates every context. -/
  | tlbiAll (m : Master) (die ctx : Nat) (pcflush : Bool)
  /-- TLBI_COMPLETE (R318): BUSY clears once every agent has dropped the entries and finished their accesses. -/
  | tlbiComplete (die : Nat)
  /-- HCTL_CLEAR (R170): Writing CLEAR zeroes every stall counter of both schedulers. -/
  | hctlClear (m : Master) (core : Nat)
  /-- SPCTL_CLR (R180): Writing CLR zeroes the scratchpad error counts. -/
  | spctlClr (m : Master) (core : Nat)
  /-- BANK_RETIRE (R180): Writing a RETn field retires a scratchpad data bank, degrading its group. -/
  | bankRetire (m : Master) (core group bank : Nat)
  /-- SNAP (R358): WCTL SNAP copies a context's weigh counters to the snapshot area. -/
  | snap (m : Master) (ctx : Nat)
  /-- CLOSE (R358): WCTL CLOSE signs a context record and deletes its weigh area. -/
  | close (m : Master) (ctx : Nat)
  /-- PLIM_WRITE (R352): A write to PLIM sets the power limit if in range. -/
  | plimWrite (m : Master) (value : Nat)
  /-- RANGE_MONITOR_CLEAR (R369): CFG.CLR zeroes a range monitor. -/
  | rangeMonitorClear (m : Master) (die mon : Nat)
  /-- RANGE_MONITOR_SAMPLE (R369): A sample of the selected source updates MIN, MAX and a bin. -/
  | rangeMonitorSample (die source value : Nat)
  /-- REGISTER_WRITE (R350): A window write to a register with no row of its own, ignored without ownership. -/
  | registerWrite (m : Master) (pa : Nat) (value : Addr)
  /-- RESET (R347): At reset the security core's mask ROM starts the network boot. -/
  | reset
  /-- BOOT_RETRY (R347): After both ports fail, the boot waits 1 s and starts again. -/
  | bootRetry
  /-- MEAS_EXTEND (R349): A measurement register is extended with a digest. -/
  | measExtend (k : Nat) (digest : List Byte)
  /-- CLOCK_STEP (R352): Each millisecond the arithmetic clock steps down or up against PLIM and temperature. -/
  | clockStep (power : Nat) (temps : List Nat)
  /-- THERMAL_SHUTDOWN (R352): At 115 °C held for 1 ms the package removes its power. -/
  | thermalShutdown
  /-- WEIGH_DELTA_FLUSH (R357): A per-context delta is added saturating into the weigh area. -/
  | weighDeltaFlush (agent ctx : Nat)
  /-- PAGE_COUNTER_FLUSH (R320): TLB per-page counter deltas are flushed into the counter record. -/
  | pageCounterFlush (agent ctx page : Nat)
  /-- TRACE_SYNC (R374): Every 4,096 cycles or 256 packets the core writes a SYNC packet. -/
  | traceSync (core : Nat)
  /-- YIELD_EXPIRY (R149): The 8 cycles after a YIELD end and the street is eligible again. -/
  | yieldExpiry (street : StreetId)
  /-- PARITY_UPDATE (R179): A scratchpad parity row update completes at cycle c+2 and its stale bit clears. -/
  | parityUpdate (core : Nat)
  /-- COMPARE_POINT (R368): Paired twins meet at a compare point and commit or roll back. -/
  | comparePoint (street : StreetId)
  /-- COMPARE_TIMEOUT (R368): A twin waiting over 2^20 cycles rolls both blocks back. -/
  | compareTimeout (street : StreetId)
  /-- CORRECTED_ERROR_THRESHOLD (R365): 1,024 corrected errors in a bank or stack produce a KIND 4 machine-check record. -/
  | correctedErrorThreshold (die place : Nat)
  /-- ILLEGAL_WORD (R40): A word whose major opcode is unallocated, or whose sub-op or f field holds an unlisted value, takes trap ILLEGAL. -/
  | illegalWord (word : Word)
  /-- ARITHMETIC_CYCLE (R169): Each arithmetic cycle the scheduler's stall bins and reason counters rise, and weigh counter 22 counts each resident street. -/
  | arithmeticCycle
  /-- L1_EVICTION (R185): The L1 drops a line at any moment, ending the visibility of a stale copy to weak loads. -/
  | l1Eviction (core line : Nat)
  /-- SOFT_ERROR (R365): A bit in SRAM or HBM flips, to be corrected by SECDED or later found uncorrectable. -/
  | softError (loc : ErrLoc) (flips : Nat)
  /-- POWER_LOSS (R360): Power is lost, abandoning the unused signature indices of the current reserved block and all volatile state. -/
  | powerLoss
  /-- LINK_UP (R377): A Polcy Link port finishes training with its peer and its STATE becomes up, with PEER and PEERPORT set. -/
  | linkUp (port peer peerport lanes : Nat)
  /-- IMAGE_FETCH_COMPLETE (R347): A DHCP/TFTP fetch of a boot image on a port ends, leading to verification, measurement and running, or to the next port on failure. -/
  | imageFetchComplete (port : Nat) (got : Fetched)
  /-- WCTL_REQUEST_COMPLETE (R358): A WCTL SNAP or CLOSE request ends, writing its STATUS, its snapshot or signed record, and clearing BUSY. -/
  | wctlRequestComplete
deriving DecidableEq, Repr

end Sys2Proof
end

