-- ==== Sys2Proof/Config.lean ====
section
/-! DEFINITION. What an implementation fixes, and the free values: constants without a body, so that nothing can evaluate
them and every theorem holds whatever they are (log entries 5, 15, 16, 19 and 25). -/

namespace Sys2Proof.Config

/-- A free choice between two outcomes, fresh for each count of `State.freeTick` and each index (R28, R212, R270, R318). -/
opaque freeBit (tick i : Nat) : Bool

/-- A free number, fresh for each count of `State.freeTick` and each index (R185, R212, R257, R259). -/
opaque freeNat (tick i : Nat) : Nat

/-- A free word, fresh for each count of `State.freeTick` and each index (R145, R183, R382). -/
opaque freeWord (tick i : Nat) : Word

/-- The transcendental approximations of R124 at f32, where MD.RND is ignored: function number, FTZ and operand encoding. The
model clamps the value to an enclosure of the exact result (R72). -/
opaque xcendValue (fn : Nat) (ftz : Bool) (x : Word) : Word

/-- Whether a context is a user context (R39): the spec names no bit that says so (log entry 19). -/
opaque userContext (ctxid : Nat) : Bool

/-- TSAVE and FSTK as the resident OS sets them for a street at its placement (R153, R353, log entry 25). -/
opaque placedTsave (sid : BitVec 32) : BitVec 64
@[inherit_doc placedTsave] opaque placedFstk (sid : BitVec 32) : BitVec 64

/-- SERIAL, the chip serial (R345, R360). -/
opaque serial : BitVec 128

/-- DEVKEY, the LMS public key of the device identity (R345, R360). -/
opaque devkey : BitVec 448

/-- The fused minimum VERSION of each image KIND (R348). -/
opaque minVersion (kind : Nat) : Nat

/-- Whether an HSS signature verifies against the fused Aedad image key (R348). -/
opaque imageKeyAccepts (message signature : List Byte) : Bool

/-- The device identity's HSS signature of 3,604 bytes under a leaf index (R359, R360). -/
opaque hssSign (index : Nat) (message : List Byte) : BitVec 28832

/-- The signature that another member of a job, known by its serial, sends for a membership message (R361). -/
opaque peerSign (serial : Nat) (message : List Byte) : BitVec 28832

end Sys2Proof.Config
end

