-- ==== Sys2Proof/Machine/State.lean ====
section
/-! DEFINITION. The state of a ZK480 package as plain data (R52 to R64, R163 to R186, R221 to R268, R314 to R390), the
reasons a step can stop, and the state right after reset. Physical and virtual addresses are Nat; register contents are bit
vectors. A street and a block stand in focus (`State.st`, `State.blk`); the others stand in the lists. -/

namespace Sys2Proof.Machine

/-- Bytes by address: addresses strictly rising, no entry equal to what an unlisted address reads as (log entry 2). -/
abbrev Memory := List Host.Cell

/-- What an unlisted byte reads as (DESIGN CHOICE 0x00, log entry 2, unsafe). -/
def unlistedByte : Byte := 0

/-- REASON of a path entry, with `free` for an unused entry (R57, R64). -/
inductive Reason where
  | free | branch | colourPark | wait
deriving DecidableEq, Repr

/-- Where a barrier object lies (R263): a physical address, or an offset in a block's scratchpad; a BAR on an object of another device
waits for the answer to its request (R378). -/
inductive BarPlace where
  | global (pa : Nat)
  | spad (block off : Nat)
  | far (req pa : Nat)
deriving DecidableEq, Repr

/-- What a waiting entry waits for, with the values captured at issue (R61). `wm` is the mask of the lanes that the
result is written to. -/
inductive Wait where
  /-- nothing -/
  | none
  /-- the colour of this address: parked lanes (R215), or lanes asleep or queued in CLRWAIT (R225) -/
  | colour (va : Nat)
  /-- TLWAIT until VALUE of timeline k is n or more (R296) -/
  | tl (k n : Nat) (x : RegNo) (wm : Mask)
  /-- BAR for a phase of a barrier; `done` once the phase is over (R264) -/
  | bar (at_ : BarPlace) (phase : Nat) (x : RegNo) (wm : Mask) (done : Option (Nat × Word))
  /-- WAITA on these lines; `fired` once it is over (R201) -/
  | waita (lines : List Nat) (fired : Bool)
  /-- TRAVW for the walks in the slots of these lanes (R338) -/
  | trav (x : RegNo) (slots wm : Mask) (u : Bool)
deriving DecidableEq, Repr

/-- A path-table entry (R57). -/
structure PathEntry where
  pc     : Addr
  mask   : Mask
  depth  : Nat
  reason : Reason
  age    : Nat
  grant  : Nat
  wait   : Wait
deriving DecidableEq, Repr

/-- An unused path-table entry. -/
def PathEntry.free : PathEntry :=
  { pc := 0, mask := 0, depth := 0, reason := .free, age := 0, grant := 0, wait := .none }

/-- What trap entry records beside the save area (R158, R159): PIDX, its saved DEPTH and MASK, the cause and FADDR, and the other
entries, which are held. -/
structure TrapFrame where
  pidx  : Nat
  depth : Nat
  mask  : Mask
  cause : Nat
  faddr : Nat
  held  : List Nat
deriving DecidableEq, Repr

/-- One record of a street's hold table (R220). -/
structure Hold where
  colour : Nat
  lane   : Nat
  depth  : Nat
deriving DecidableEq, Repr

/-- The kinds of engine operation a street can have in flight (R147, R294, R337, R386). -/
inductive OpKind where
  | mx | copy | sal | trav | coll
deriving DecidableEq, Repr

/-- An engine operation in flight of a street, with the frame it was issued in (R147). -/
structure OpRef where
  id    : Nat
  kind  : OpKind
  depth : Nat
  lanes : Mask
deriving DecidableEq, Repr

/-- An old register value that a read inside a window may still return, in the lanes of `m` (R28). -/
structure OldReg where
  r : Nat
  m : Mask
  v : SVec
deriving DecidableEq, Repr

/-- A 32-byte sector in an L1, with its physical sector address (R185). -/
structure L1Sector where
  pa   : Nat
  data : List Byte
deriving DecidableEq, Repr

/-- A sector of memory or of a scratchpad as it stood before a cycle: before an instruction of a street whose lanes stored to it, before
a store of no street, or in an L1 until an acquire dropped it, with its line's write count then. A load that nothing orders behind the
change may have been performed before it (R31, R67). -/
structure PastSector where
  at_   : Nat
  by_   : Option StreetId
  lanes : Mask
  tick  : Nat
  ver   : Nat
  data  : L1Sector
deriving DecidableEq, Repr

/-- A PANRD or PANWR that waits inside its window (R283): the pan and row, the block, and for each register its lanes, with the
values that a PANWR writes. -/
structure PanWait where
  write : Bool
  block : Nat
  pan   : Nat
  row   : Nat
  /-- the number that the next operation would take when it was issued: it waits for older ones -/
  before : Nat
  regs  : List OldReg
deriving DecidableEq, Repr

/-- An open lookahead window (R27): instructions left, old values, the flags its opener set, which a read in the window
may not see yet (R151), the cycle from which on a weak load in an acquire's window may have been performed (R31), and the access
to a pan that its opener waits to make (R283). -/
structure Window where
  left  : Nat
  olds  : List OldReg
  flags : Word
  since : Option Nat
  pan   : Option PanWait
deriving DecidableEq, Repr

/-- A translation fault as its record names it (R317). -/
structure XFault where
  va     : Nat
  ctx    : Nat
  agent  : Nat
  kind   : Nat
  access : Nat
  level  : Nat
  pte    : Nat
deriving DecidableEq, Repr

/-- A lane's most recent strong load from a line, with the line's write count then (R201). -/
structure Seen where
  lane : Nat
  line : Nat
  ver  : Nat
deriving DecidableEq, Repr

/-- Why a street did not issue, for the stall histogram (R169). -/
inductive Stall where
  | mem | range | chanEmpty | chanFull | panq | tlwait | fetch | pair | trap
deriving DecidableEq, Repr

/-- How a street stands (R154, R155, R160, R173). -/
inductive Life where
  /-- no street -/
  | absent
  | running
  /-- stopped for the debugger by BKPT or WATCH (R154, R372) -/
  | debugStop
  /-- stopped by HALT or a halt request (R155) -/
  | halted
  /-- halted by containment (R363) -/
  | contained
  /-- every lane has exited (R148) -/
  | exited
  /-- in a block image (R173) -/
  | saved
deriving DecidableEq, Repr

/-- A store waiting in a pair buffer (R367): global bytes by physical and virtual address with the bits of each that are written
(R86), whether under `.nc`, and what tells the stores of one instruction; or bytes of a block's scratchpad; each with its lane. -/
inductive HeldStore where
  | global (pa va : Nat) (data mask : List Byte) (lane : Nat) (nc : Bool) (tick : Nat)
  | spad (block off : Nat) (data : List Byte) (lane : Nat)
  /-- a reduction, with the lane that issued it and its virtual address -/
  | red (pa : Nat) (aop : Aop) (w : Bool) (x : Addr) (lane va : Nat)
deriving DecidableEq, Repr

/-- A street's checkpoint at its last compare point (R368): the path table goes with the trap that holds its entries. -/
structure Checkpoint where
  regs  : Vector SVec 64
  md    : Addr
  sr    : Word
  paths : Vector PathEntry 8
  hscr  : Vector SVec 4
  tlevel : Bool
  trap  : Option TrapFrame
deriving DecidableEq, Repr

/-- State of one street of a paired block (R367, R368). -/
structure Pair where
  primary : Bool
  twin    : StreetId
  crc     : Addr
  count   : Nat
  stores  : List HeldStore
  /-- the compare point at which the street waits, and since when -/
  waiting : Option (Nat × Nat)
  /-- the comparison has matched: the causing instruction may proceed -/
  go      : Bool
  /-- the twin has folded the records of the causing access and waits for what the primary's access returns -/
  folded  : Bool
  check   : Option Checkpoint
  /-- a mismatch has rolled the pair back and not matched since -/
  retried : Bool
  /-- the lanes handed a colour whose record is still to be folded, with the colour -/
  granted : List (Nat × Nat)
deriving DecidableEq, Repr

/-- The state of one street (R52, R57, R153). -/
structure Street where
  life       : Life
  sid        : StreetId
  block      : Nat
  core       : Nat
  slot       : Nat
  sindex     : Nat
  placed     : Nat
  regs       : Vector SVec 64
  md         : Addr
  sr         : Word
  paths      : Vector PathEntry 8
  sel        : Fin 8
  lastSel    : Option (Fin 8)
  chans      : Vector (Option Nat) 64
  tlevel     : Bool
  trap       : Option TrapFrame
  hscr       : Vector SVec 4
  thand      : Addr
  tsave      : Addr
  fstk       : Addr
  ctxflags   : Word
  clkhi      : Word
  windows    : List Window
  yieldUntil : Nat
  passOver   : Option (Fin 8)
  stall      : Option Stall
  svc        : Option XFault
  haltReq    : Bool
  /-- the instruction at which WATCH has stopped the street for the debugger, with the lanes that it lets pass now (R372) -/
  watchSkip  : Option (Addr × Mask)
  seen       : List Seen
  holds      : List Hold
  /-- lanes whose CLRWAIT is over: handed the colour (false) or woken by poison (true) -/
  clrw       : List (Nat × Bool)
  ops        : List OpRef
  walkSlots  : Vector (Option Nat) 64
  copyErr    : Nat
  coll       : Option Nat
  pair       : Option Pair
  ready      : Nat
  lastIssue  : Option Nat
  /-- the cycle of the street's last turn, whether an instruction issued in it or was held back -/
  tried      : Option Nat
  /-- the cycle of its last fence, acquire or completed wait, which its later accesses follow (R67) -/
  heard      : Nat
  /-- the PC and DEPTH of each path whose load waits and has reserved an entry of a queue, with that queue (R194) -/
  reserves   : List ((Addr × Nat) × Nat)
  /-- a forced halt at trap level 1 that waits for a compare (R155, R375) -/
  haltForce  : Bool
deriving DecidableEq, Repr

/-- The fields of a context descriptor that hardware reads, with its physical address (R353). -/
structure CtxDesc where
  desc       : Nat
  ctxid      : Nat
  flags      : Nat
  pid        : Nat
  ptroot     : Nat
  ptpool     : Nat
  ptpoollen  : Nat
  ctrbase    : Nat
  scalebase  : Nat
  crtbase    : Nat
  crtcount   : Nat
  cstate     : Nat
  wpool      : Nat
  wpoolcount : Nat
  thand      : Nat
  errq       : Nat
  errlog2    : Nat
  jobdigest  : List Byte
  watch      : List (Nat × Nat)
  /-- whether the context is a user context (R39, log entry 19) -/
  user       : Bool
deriving DecidableEq, Repr

/-- The kernel header fields a placed block keeps (R49). -/
structure KHeader where
  entry     : Nat
  regs      : Nat
  streets   : Nat
  spad      : Nat
  pans      : Nat
  chans     : Nat
  colours   : Bool
  winreg    : Bool
  safefirst : Nat
  safecount : Nat
deriving DecidableEq, Repr

/-- A hardware queue: entries from the head (R13, R205). -/
structure HwQueue where
  entries : List SVec
deriving DecidableEq, Repr

/-- What completes when an operation is over (R250, R260): the timeline of its block and its number there, stamp address, barrier,
whether an engine of another core performed it, that engine, the COPY task that it ends, and whether its stamp is written. A number
of 0 on a timeline is an unordered advance that waits. -/
structure Completion where
  block   : Nat
  ctx     : CtxDesc
  tl      : Option Nat
  num     : Nat
  stamp   : Option Nat
  barrier : Option (Nat × Bool)
  op      : Nat
  sid     : StreetId
  far     : Bool
  agent   : Nat
  task    : Option Nat
  stamped : Bool
deriving DecidableEq, Repr

/-- A completion that waits: for the service of a fault its stamp or its barrier met, or for another device to perform its stamp
(R260, R317, R378). -/
structure Late where
  c     : Completion
  fault : Option XFault
  req   : Option Nat
deriving DecidableEq, Repr

/-- A timeline (R250): VALUE, ISSUED, the ordered advances made, completed operations waiting for their turn, and the
smallest value an engine's advance has produced. -/
structure Timeline where
  value  : Nat
  issued : Nat
  made   : Nat
  pend   : List Completion
  far    : Option Nat
deriving DecidableEq, Repr

/-- The operations of the matrix engine (R279). -/
inductive MxKind where
  | mmt | mmts | mmm | panz | panld | panst
deriving DecidableEq, Repr

/-- States of an engine operation (R246). -/
inductive OpState where
  | queued | running | faulted
deriving DecidableEq, Repr

/-- A tile operand record as read at acceptance (R278); PANLD and PANST use `abase` and `astride`. -/
structure TileRec where
  abase     : Nat
  astride   : Nat
  bbase     : Nat
  bstride   : Nat
  aux1      : Nat
  aux2      : Nat
  auxstride : Nat
  steps     : Nat
  pattern   : Nat
  mrows     : Nat
  ncols     : Nat
deriving DecidableEq, Repr

/-- Destination C of a matrix task (R288). -/
structure TaskC where
  cbase   : Nat
  cstride : Nat
  cvbase  : Nat
  cload   : Bool
deriving DecidableEq, Repr

/-- An operation of the matrix engine (R240 to R249). `task` names the tile task it runs, whose pans stand in `acc`. -/
structure MxOp where
  id      : Nat
  kind    : MxKind
  tile    : TileRec
  recAddr : Nat
  pan     : Nat
  state   : OpState
  kprog   : Nat
  /-- for a task: 0 before C is loaded, 1 in the K-steps, 2 before C is written -/
  phase   : Nat
  summary : Nat
  tl      : Option (Nat × Nat)
  sid     : StreetId
  passed  : Nat
  aged    : Bool
  fault   : Option XFault
  task    : Option Nat
  cluster : Nat
  c       : TaskC
  acc     : Memory
deriving DecidableEq, Repr

/-- States of a tile-task record after its post (R256). -/
inductive TaskState where
  | pending | waiting | ready | running
deriving DecidableEq, Repr

/-- A region entry of a record (R287). -/
structure Region where
  base : Nat
  len  : Nat
deriving DecidableEq, Repr

/-- A tile-task record held by the part (R286), with the copies taken at ingestion (R255). -/
structure TaskRec where
  id       : Nat
  die      : Nat
  addr     : Nat
  sid      : StreetId
  ctx      : CtxDesc
  tid      : Nat
  kind     : Nat
  high     : Bool
  cload    : Bool
  paired   : Bool
  adv      : Option (Nat × Nat)
  waits    : List (Nat × Nat × Nat)
  inputs   : List Region
  outputs  : List Region
  opnd     : Nat
  desc     : List Byte
  hdr      : List Byte
  state    : TaskState
  seq      : Nat
  passed   : Nat
  reserved : Bool
  /-- LAUNCH: the blocks not yet ended; TRAVBATCH: the next input and the walks in flight -/
  blocks   : List Nat
  next     : Nat
  inflight : Nat
deriving DecidableEq, Repr

/-- An entry of a pending-launch queue (R304): the street that reserved it, PC and DEPTH of the post there, and the record once it has
entered. -/
structure PlqEntry where
  sid  : StreetId
  at_  : Addr × Nat
  rec_ : Option TaskRec
deriving DecidableEq, Repr

/-- A save request of a block (R171, R175): KIND, image address, cycle of the request. -/
structure SaveReq where
  kind  : Nat
  image : Nat
  since : Nat
deriving DecidableEq, Repr

/-- How a block stands (R164, R173, R268). -/
inductive BlockLife where
  | absent | placed | saved | draining
deriving DecidableEq, Repr

/-- A block (R163, R234, R250, R288). -/
structure Block where
  life      : BlockLife
  id        : Nat
  ctx       : CtxDesc
  core      : Nat
  hdr       : KHeader
  task      : Nat
  x0        : Nat
  y0        : Nat
  width     : Nat
  height    : Nat
  high      : Bool
  tid       : Nat
  text      : Nat
  safetab   : Nat
  livetab   : Nat
  sids      : List StreetId
  queues    : Vector HwQueue 16
  spadBase  : Nat
  spad      : Memory
  panBase   : Nat
  pans      : Memory
  panSum    : List (Nat × Nat)
  panFreed  : List Nat
  mxq       : List MxOp
  tls       : Vector Timeline 32
  plq       : List PlqEntry
  save      : Option SaveReq
  image     : Nat
  imageKind : Nat
  waitSince : Option Nat
  candidate : Bool
  twin      : Option Nat
  primary   : Bool
deriving DecidableEq, Repr

/-- An address monitor of a core or of a base-die unit (R186, R324). -/
structure Monitor where
  line  : Nat
  slots : List Nat
deriving DecidableEq, Repr

/-- A colour lookaside entry (R212). -/
structure RegionEntry where
  ctx    : Nat
  base   : Nat
  len    : Nat
  colour : Nat
deriving DecidableEq, Repr

/-- A recorded range of the range scoreboard (R184), in core scratchpad bytes. -/
structure SpadRange where
  copy : Nat
  lo   : Nat
  hi   : Nat
deriving DecidableEq, Repr

/-- TRCTL and the trace buffer (R373, R374). -/
structure Trace where
  en       : Bool
  branches : Bool
  marks    : Bool
  paths    : Bool
  wrptr    : Nat
  rdptr    : Nat
  buf      : Memory
  time     : Nat
  since    : Nat
  lost     : Nat
deriving DecidableEq, Repr

/-- The state of one core beside its streets (R163 to R186, R212, R373). -/
structure Core where
  idx       : Nat
  gens      : List Nat
  l1        : List L1Sector
  /-- what loads that nothing orders behind a change may have read (R31, R67) -/
  past      : List PastSector
  monitors  : List Monitor
  lookaside : List RegionEntry
  ranges    : List SpadRange
  stale     : List (Nat × Nat × Nat)
  cecnt     : Nat
  uecnt     : Nat
  /-- V and the data bank of RET0 to RET3 (R180) -/
  ret       : List (Bool × Nat)
  /-- slots of the streets that have issued in this cycle and are gone with their block (R148, R169) -/
  left      : List Nat
  bins      : List Nat
  reasons   : List Nat
  freeze    : Bool
  tr        : Trace
deriving DecidableEq, Repr

/-- The control block of a die queue, with the records that wait for room (R346). -/
structure Ring where
  base    : Nat
  log2    : Nat
  drop    : Nat
  head    : Nat
  tail    : Nat
  waiting : List (List Byte)
deriving DecidableEq, Repr

/-- A range monitor (R369). -/
structure RangeMon where
  en     : Bool
  shift  : Nat
  source : Nat
  base   : Nat
  min    : Nat
  max    : Nat
  bins   : List Nat
deriving DecidableEq, Repr

/-- TLBICTL and TLBIVA of a die (R318). -/
structure Tlbi where
  busy    : Bool
  pcflush : Bool
  kind    : Nat
  ctx     : Nat
  va      : Nat
deriving DecidableEq, Repr

/-- The state of one die beside its cores (R255, R346, R369). -/
structure Die where
  idx        : Nat
  tlbi       : Tlbi
  faults     : Ring
  mchecks    : Ring
  stops      : Ring
  mons       : List RangeMon
  pool       : List TaskRec
  directq    : List TaskRec
  rr         : Nat
  lastIngest : Option Nat
  /-- the fault that the scheduler has met as it took the copies of a record, until it is serviced (R255, R317) -/
  held       : Option XFault
  unitMons   : List Monitor
  /-- the die is at 105 °C or above, cycles it owes, cycles it has not counted, and whether it stands still in this one (R352) -/
  hot        : Bool
  owed       : Nat
  lost       : Nat
  still      : Bool
deriving DecidableEq, Repr

/-- The sequencer of a cluster's matrix engine (R242). -/
structure Engine where
  idx    : Nat
  run    : Option Nat
  served : Nat
  ops    : List MxOp
deriving DecidableEq, Repr

/-- The kinds of copy-engine operation (R259, R299). -/
inductive CopyKind where
  | cpy | cpyred | saln | smeta
deriving DecidableEq, Repr

/-- A copy-engine operation in flight (R259, R292, R299). -/
structure CopyOp where
  id     : Nat
  kind   : CopyKind
  sid    : StreetId
  block  : Nat
  ctx    : CtxDesc
  core   : Nat
  desc   : List Byte
  addr   : Nat
  coords : List Int
  tl     : Option (Nat × Nat)
  task   : Option Nat
  fault  : Option XFault
  /-- the copy engine that performs it -/
  agent  : Nat
deriving DecidableEq, Repr

/-- Where a walk writes its record (R337, R340). -/
inductive WalkDest where
  | spad (block off : Nat)
  | batch (task index : Nat)
deriving DecidableEq, Repr

/-- A walk (R331 to R338) on an engine of a stack; `due` is the status with which a batch's walk ends once its output is written, and
`ended` its status word once it has ended. -/
structure Walk where
  id      : Nat
  op      : Nat
  sid     : StreetId
  lane    : Nat
  block   : Nat
  ctx     : CtxDesc
  eng     : Nat
  header  : Nat
  rules   : List Nat
  key     : Nat
  p       : Nat
  rule    : Nat
  last    : Nat
  steps   : Nat
  record  : Option (List Byte)
  skipped : Bool
  dest    : WalkDest
  fault   : Option XFault
  due     : Option Nat
  ended   : Option Word
  trapped : Bool
deriving DecidableEq, Repr

/-- A TRAV in flight: its timeline number and the walks that have not ended (R337). -/
structure TravOp where
  id    : Nat
  sid   : StreetId
  block : Nat
  tl    : Option (Nat × Nat)
  left  : List Nat
deriving DecidableEq, Repr

/-- A reduction sent and not yet performed (R326, R330). -/
structure Mred where
  id   : Nat
  pa   : Nat
  aop  : Aop
  w    : Bool
  x    : Addr
  sid  : StreetId
  lane : Nat
  ctx  : CtxDesc
  va   : Nat
  ms   : Bool
deriving DecidableEq, Repr

/-- A waiting lane of a colour: its waiter record (R222). -/
structure Waiting where
  idx   : Nat
  sid   : StreetId
  lane  : Nat
  depth : Nat
  kind  : Bool
deriving DecidableEq, Repr

/-- The state of one colour of one context (R221, R222): FIFO from its head, sleepers earliest first. -/
structure Colour where
  ctx    : Nat
  colour : Nat
  owner  : Option (StreetId × Nat × Nat)
  poison : Bool
  fifo   : List Waiting
  sleep  : List Waiting
deriving DecidableEq, Repr

/-- A barrier in service (R263 to R266): its members' blocks and the core that holds it when it lies in a scratchpad. -/
structure Barrier where
  place    : BarPlace
  valid    : Bool
  aband    : Bool
  scope    : Nat
  qsz      : Nat
  phase    : Nat
  expected : Nat
  arrived  : Nat
  members  : List Nat
  /-- an agent other than the members' streets has arrived in this phase -/
  off      : Bool
  /-- a BAR of another device waits for this phase (R378) -/
  far      : Bool
deriving DecidableEq, Repr

/-- A TLB entry of an agent with its per-page counter deltas (R318, R320). -/
structure TlbEntry where
  agent  : Nat
  ctx    : Nat
  base   : Nat
  size   : Nat
  pte    : Nat
  eaddr  : Nat
  /-- the words of the scale-base entry that the leaf names, as they stood when the entry was filled (R83) -/
  scale  : Option (Nat × Nat)
  reads  : Nat
  writes : Nat
  remote : Nat
deriving DecidableEq, Repr

/-- A line present in L2 with its dirty sectors and last writer (R322, R356). -/
structure L2Line where
  line  : Nat
  dirty : List Nat
  ctx   : Nat
deriving DecidableEq, Repr

/-- A weigh area in the security core's memory (R355 to R358). -/
structure WeighArea where
  ctx      : Nat
  counters : List Nat
  mask     : Nat
  start    : Nat
  pid      : Nat
  desc     : Nat
deriving DecidableEq, Repr

/-- An outstanding weigh delta of an agent (R357). -/
structure WDelta where
  agent : Nat
  ctx   : Nat
  idx   : Nat
  n     : Nat
deriving DecidableEq, Repr

/-- A remote access sent and not yet consumed (R378, R388); strong ones of a street reach one home in program order. -/
structure RemoteReq where
  id    : Nat
  sid   : StreetId
  lane  : Nat
  pa    : Nat
  va    : Nat
  ctx   : CtxDesc
  op    : RemoteOp
  strong : Bool
  reply : Option RemoteReply
deriving DecidableEq, Repr

/-- Status of a collective (R386). -/
inductive CollStatus where
  | running | done | shrunk | mismatch | held | rootlost | refused
deriving DecidableEq, Repr

/-- A collective the device has joined (R384 to R387). -/
structure Coll where
  id       : Nat
  sid      : StreetId
  block    : Nat
  ctx      : CtxDesc
  slot     : Nat
  desc     : List Byte
  addr     : Nat
  seq      : Nat
  rank     : Nat
  n        : Nat
  members  : List Nat
  shrunk   : Bool
  joinedAt : Nat
  status   : CollStatus
  tl       : Option (Nat × Nat)
deriving DecidableEq, Repr

/-- What the device knows of a job beside its table (R380 to R383). -/
structure Job where
  slot     : Nat
  /-- when the table was registered (R380) -/
  since    : Nat
  beats    : List (Nat × Nat)
  nextBeat : Nat
  /-- when the progress timers last started from zero (R383) -/
  progress : Nat
  /-- since when some member is held, which suspends the progress timers (R381) -/
  heldAt   : Option Nat
  joined   : List Nat
  /-- SEQs that are over here, and those that another member has aborted before this device joined them (R381, R384) -/
  past     : List Nat
  aborted  : List Nat
  /-- SEQ, device and time of the joins of collectives that are not over (R381) -/
  joins    : List (Nat × Nat × Nat)
  sentHold : Bool
  /-- the attestation record of the table as it stands (R361) -/
  attest   : List Byte
deriving DecidableEq, Repr

/-- A Polcy Link port (R377). -/
structure Port where
  retries  : Nat
  peer     : Nat
  peerport : Nat
  lanes    : Nat
  state    : Nat
deriving DecidableEq, Repr

/-- The package's own registers and the security core (R345 to R361). -/
structure Package where
  denied     : Nat
  changes    : Nat
  owner      : Nat
  plim       : Nat
  power      : Nat
  mhz        : Nat
  temp       : Nat
  hotMs      : Nat
  powered    : Bool
  phase      : Nat
  port       : Nat
  image      : Nat
  /-- the image fetched and its signature, while it is checked (R347) -/
  fetched    : Option (List Byte × List Byte)
  /-- ENTRY of the images that have been run, KIND 1 first (R348) -/
  entries    : List Nat
  meas       : List (List Byte)
  wbusy      : Bool
  wstatus    : Nat
  wctx       : Nat
  wreq       : Nat
  wrec       : Nat
  snapCnt    : List Nat
  snapMask   : Nat
  nextIndex  : Nat
  reserve    : Nat
  bootno     : Nat
  fabid      : Nat
  jtab       : List Nat
  ports      : List Port
deriving DecidableEq, Repr

/-- What moves next (log entry 1): a street issues, or another agent's event comes about. -/
inductive Turn where
  | issue (sid : StreetId)
  | event (i : Instr)
deriving DecidableEq, Repr

/-- The whole machine. -/
structure State where
  st       : Street
  blk      : Block
  streets  : List Street
  blocks   : List Block
  mem      : Memory
  cores    : List Core
  dies     : List Die
  engines  : List Engine
  pkg      : Package
  clock    : Nat
  timeNs   : Nat
  timeAcc  : Nat
  tlbs     : List TlbEntry
  l2       : List L2Line
  lineVer  : List (Nat × Nat)
  colours  : List Colour
  bars     : List Barrier
  poison   : List Nat
  upsets   : List (ErrLoc × Nat)
  corrected : List (Nat × Nat × Nat)
  copies   : List CopyOp
  walks    : List Walk
  travs    : List TravOp
  late     : List Late
  mreds    : List Mred
  colls    : List Coll
  jobs     : List Job
  remote   : List RemoteReq
  ctxs     : List WeighArea
  wdeltas  : List WDelta
  nextId   : Nat
  /-- 512-byte units of HBM that are stored compressed (R323) -/
  packed   : List Nat
  /-- colour state words, by context and colour, that the queue-lock units cache (R322) -/
  qlock    : List (Nat × Nat)
  /-- contexts that the resident OS has stopped (R243) -/
  stopped  : List Nat
  agenda   : List Turn
  bgDone   : Bool
  freeTick : Nat
deriving DecidableEq, Repr

/-- Why the machine stops. -/
inductive Fault where
  /-- an access at a physical address that holds no memory (R321); raised by every access; safe, log entry 13 -/
  | noMemory (pa : Nat)
  /-- an instruction word executed while no running street is in focus; raised by `exec`; safe, log entry 1 -/
  | noStreet
deriving DecidableEq, Repr

/-- Why an instruction has no meaning here. -/
inductive Refusal where
  /-- the instruction is not modelled; raised by an arm of `exec` only; safe -/
  | notModelled (mnemonic : String)
deriving DecidableEq, Repr

/-- MD at placement (R54): SCOPE 5, every other field 0. -/
def mdReset : Addr := 0x0000050000000000

/-- No street: every field at its value at reset. -/
def Street.absent : Street :=
  { life := .absent, sid := 0, block := 0, core := 0, slot := 0, sindex := 0, placed := 0
    regs := Vector.replicate 64 SVec.zero, md := mdReset, sr := 0, paths := Vector.replicate 8 PathEntry.free
    sel := 0, lastSel := none, chans := Vector.replicate 64 none, tlevel := false, trap := none
    hscr := Vector.replicate 4 SVec.zero, thand := 0, tsave := 0, fstk := 0, ctxflags := 0, clkhi := 0
    windows := [], yieldUntil := 0, passOver := none, stall := none, svc := none, haltReq := false, watchSkip := none
    seen := [], holds := [], clrw := [], ops := [], walkSlots := Vector.replicate 64 none, copyErr := 0, coll := none, pair := none
    ready := 0, lastIssue := none, tried := none, heard := 0, reserves := [], haltForce := false }

/-- An empty context descriptor. -/
def CtxDesc.zero : CtxDesc :=
  { desc := 0, ctxid := 0, flags := 0, pid := 0, ptroot := 0, ptpool := 0, ptpoollen := 0, ctrbase := 0, scalebase := 0
    crtbase := 0, crtcount := 0, cstate := 0, wpool := 0, wpoolcount := 0, thand := 0, errq := 0, errlog2 := 0
    jobdigest := List.replicate 32 0, watch := [(0, 0), (0, 0), (0, 0), (0, 0)], user := true }

/-- A kernel header of zeros. -/
def KHeader.zero : KHeader :=
  { entry := 0, regs := 0, streets := 0, spad := 0, pans := 0, chans := 0, colours := false, winreg := false
    safefirst := 0, safecount := 0 }

/-- A timeline at placement (R250). -/
def Timeline.zero : Timeline := { value := 0, issued := 0, made := 0, pend := [], far := none }

/-- No block. -/
def Block.absent : Block :=
  { life := .absent, id := 0, ctx := CtxDesc.zero, core := 0, hdr := KHeader.zero, task := 0, x0 := 0, y0 := 0, width := 1
    height := 1, high := false, tid := 0, text := 0, safetab := 0, livetab := 0, sids := []
    queues := Vector.replicate 16 { entries := [] }, spadBase := 0, spad := [], panBase := 0, pans := []
    panSum := [], panFreed := [], mxq := [], tls := Vector.replicate 32 Timeline.zero, plq := [], save := none, image := 0
    imageKind := 0, waitSince := none, candidate := false, twin := none, primary := true }

/-- The trace state at reset (R373). -/
def Trace.zero : Trace :=
  { en := false, branches := false, marks := false, paths := false, wrptr := 0, rdptr := 0, buf := [], time := 0, since := 0
    lost := 0 }

/-- A core at reset. -/
def Core.zero (idx : Nat) : Core :=
  { idx := idx, gens := List.replicate 16 0, l1 := [], past := [], monitors := [], lookaside := [], ranges := [], stale := []
    cecnt := 0, uecnt := 0, ret := List.replicate 4 (false, 0), left := [], bins := List.replicate 18 0, reasons := List.replicate 30 0
    freeze := false, tr := Trace.zero }

/-- A die queue at reset (R346; log entry 12). -/
def Ring.zero : Ring := { base := 0, log2 := 6, drop := 0, head := 0, tail := 0, waiting := [] }

/-- A range monitor at reset (R369; log entry 12). -/
def RangeMon.zero : RangeMon :=
  { en := false, shift := 0, source := 0, base := 0, min := 2 ^ 64 - 1, max := 0, bins := List.replicate 16 0 }

/-- A die at reset. -/
def Die.zero (idx : Nat) : Die :=
  { idx := idx, tlbi := { busy := false, pcflush := false, kind := 0, ctx := 0, va := 0 }, faults := Ring.zero
    mchecks := Ring.zero, stops := Ring.zero, mons := List.replicate 32 RangeMon.zero, pool := [], directq := [], rr := 0
    lastIngest := none, held := none, unitMons := [], hot := false, owed := 0, lost := 0, still := false }

/-- A port at reset: down (R377). -/
def Port.zero : Port := { retries := 0, peer := 0, peerport := 0, lanes := 0, state := 0 }

/-- The package's registers at reset (R345 to R361, R377). -/
def Package.zero : Package :=
  { denied := 0, changes := 0, owner := 0, plim := 2800, power := 0, mhz := 4000, temp := 0, hotMs := 0, powered := true
    phase := 0, port := 0, image := 1, fetched := none, entries := [], meas := List.replicate 8 (List.replicate 32 0), wbusy := false, wstatus := 0
    wctx := 0, wreq := 0, wrec := 0, snapCnt := List.replicate 32 0, snapMask := 0, nextIndex := 0, reserve := 0
    bootno := 0, fabid := 0x7FF, jtab := List.replicate 16 0, ports := List.replicate 48 Port.zero }

/-- The machine right after reset: no block is placed, the boot stands at the mask ROM (R347), memory lists nothing. -/
def State.reset : State :=
  { st := Street.absent, blk := Block.absent, streets := [], blocks := [], mem := [], cores := [], dies := [], engines := []
    pkg := Package.zero, clock := 0, timeNs := 0, timeAcc := 0, tlbs := [], l2 := [], lineVer := [], colours := []
    bars := [], poison := [], upsets := [], corrected := [], copies := [], walks := [], travs := [], late := [], mreds := [], colls := []
    jobs := [], remote := [], ctxs := [], wdeltas := [], nextId := 1, packed := [], qlock := [], stopped := [], agenda := [], bgDone := false, freeTick := 0 }

end Sys2Proof.Machine
end

