-- ==== Sys2Proof/Machine/Mem.lean ====
section
/-! DEFINITION. Bytes of a memory in canonical form, little-endian words over them (R2), and which physical addresses hold
memory (R321). Every store of bytes in the model, HBM, scratchpad, pans and trace buffers, uses these operations. -/

namespace Sys2Proof.Machine

/-- The byte at an address. -/
def Memory.read : Memory → Nat → Byte
  | [], _ => unlistedByte
  | (b, v) :: rest, a => if a = b then v else Memory.read rest a

/-- Put one byte, keeping the canonical form. -/
def Memory.write : Memory → Nat → Byte → Memory
  | [], a, v => if v = unlistedByte then [] else [(a, v)]
  | (b, x) :: rest, a, v =>
    if a < b then (if v = unlistedByte then (b, x) :: rest else (a, v) :: (b, x) :: rest)
    else if a = b then (if v = unlistedByte then rest else (a, v) :: rest)
    else (b, x) :: Memory.write rest a v

/-- The canonical form: addresses strictly rising from `lo`, no entry equal to what an unlisted address reads as. -/
def Memory.wfFrom : Nat → Memory → Bool
  | _, [] => true
  | lo, (b, v) :: rest => decide (lo ≤ b) && decide (v ≠ unlistedByte) && Memory.wfFrom (b + 1) rest

/-- The canonical form of a memory (log entry 2). -/
def Memory.wf (m : Memory) : Bool := Memory.wfFrom 0 m

/-- `n` bytes from an address upward. -/
def Memory.readN (m : Memory) (a : Nat) : Nat → List Byte
  | 0 => []
  | n + 1 => m.read a :: m.readN (a + 1) n

/-- Put bytes from an address upward. -/
def Memory.writeN (m : Memory) (a : Nat) : List Byte → Memory
  | [] => m
  | v :: vs => Memory.writeN (m.write a v) (a + 1) vs

/-- Little-endian value of bytes (R2). -/
def leNat : List Byte → Nat
  | [] => 0
  | b :: bs => b.toNat + 256 * leNat bs

/-- The `n` little-endian bytes of a number (R2). -/
def leBytes (n x : Nat) : List Byte :=
  match n with
  | 0 => []
  | k + 1 => BitVec.ofNat 8 x :: leBytes k (x / 256)

/-- The little-endian number in `n` bytes at an address. -/
def Memory.nat (m : Memory) (a n : Nat) : Nat := leNat (m.readN a n)

/-- Put a number as `n` little-endian bytes. -/
def Memory.putNat (m : Memory) (a n x : Nat) : Memory := m.writeN a (leBytes n x)

/-- Clear the bytes of a range, as placement does (R164). -/
def Memory.clear (m : Memory) (lo hi : Nat) : Memory := m.filter fun c => !(decide (lo ≤ c.1) && decide (c.1 < hi))

/-- The cells that bytes from an address upward make. -/
def Memory.ofBytes (a : Nat) : List Byte → Memory
  | [] => []
  | v :: vs => if v = unlistedByte then Memory.ofBytes (a + 1) vs else (a, v) :: Memory.ofBytes (a + 1) vs

/-- Replace the bytes of a range. -/
def Memory.splice (m : Memory) (a : Nat) (bs : List Byte) : Memory :=
  (m.filter fun c => decide (c.1 < a)) ++ Memory.ofBytes a bs ++ m.filter fun c => decide (a + bs.length ≤ c.1)

/-- The cells of a range. -/
def Memory.window (m : Memory) (a n : Nat) : Memory := m.filter fun c => decide (a ≤ c.1) && decide (c.1 < a + n)

/-- The little-endian number in bytes [off, off + n) of a record. -/
def recNat (r : List Byte) (off n : Nat) : Nat := leNat ((r.drop off).take n)

/-- Bytes in one HBM stack (R321). -/
def stackBytes : Nat := 48000000000

/-- The HBM stack of a physical address (R321). -/
def stackOf (pa : Nat) : Nat := pa / 2 ^ 36

/-- Whether a physical address holds memory (R321). -/
def hbmHas (pa : Nat) : Bool := decide (stackOf pa < 8) && decide (pa % 2 ^ 36 < stackBytes)

/-- The die above whose base dies a physical address lies (R321). -/
def dieOfPa (pa : Nat) : Nat := stackOf pa / 2

/-- Home slice of a physical address (R321). -/
def homeSlice (pa : Nat) : Nat :=
  (bits pa 7 7) ^^^ (bits pa 14 7) ^^^ (bits pa 21 7) ^^^ (bits pa 28 7) ^^^ (bits pa 35 7) ^^^ (bits pa 42 7) ^^^ (bits pa 49 3)

/-- Home slice of a colour (R321). -/
def colourSlice (ctx c : Nat) : Nat := bits ctx 0 7 ^^^ bits ctx 7 7 ^^^ bits c 0 7 ^^^ bits c 7 5

/-- The 128-byte line of an address (R185). -/
def lineOf (pa : Nat) : Nat := pa / 128

/-- The 32-byte sector of an address (R185, R364). -/
def sectorOf (pa : Nat) : Nat := pa / 32

/-- The sectors that [a, a + n) meets. -/
def sectorsOf (a n : Nat) : List Nat := if n = 0 then [] else List.range' (a / 32) ((a + n - 1) / 32 - a / 32 + 1)

/-- The lines that [a, a + n) meets. -/
def linesOf (a n : Nat) : List Nat := if n = 0 then [] else List.range' (a / 128) ((a + n - 1) / 128 - a / 128 + 1)

/-- Saturating addition at 2^w - 1. -/
def satAdd (w a b : Nat) : Nat := Nat.min (a + b) (2 ^ w - 1)

/-- Element `i` of a list of numbers, 0 past its end. -/
def nth (l : List Nat) (i : Nat) : Nat := l.getD i 0

/-- Add to element `i` of a list of counters that wrap at 64 bits (R170). -/
def bumpAt (l : List Nat) (i n : Nat) : List Nat := l.modify i fun x => (x + n) % 2 ^ 64

/-- Add a number to a list kept without repeats. -/
def addNew (l : List Nat) (x : Nat) : List Nat := if l.contains x then l else l ++ [x]

end Sys2Proof.Machine
end

