-- ==== Sys2Proof/Machine/Parts.lean ====
section
/-! DEFINITION. Finding and changing the parts of the state: streets, blocks, cores, dies and engines, whether in focus or
not, and the numbers that place them (R8, R153, R234). -/

namespace Sys2Proof.Machine

/-- STREETID (R153): generation, die, core and slot, with the core numbered in the package. -/
def mkSid (gen core slot : Nat) : StreetId :=
  BitVec.ofNat 32 ((gen % 65536) * 65536 + (core / 384) * 8192 + (core % 384) * 16 + slot)

/-- Die of a core (R1, R234). -/
def coreDie (core : Nat) : Nat := core / 384

/-- x of a core in package mesh coordinates (R234). -/
def coreX (core : Nat) : Nat := (coreDie core % 2) * 24 + core % 384 % 24

/-- y of a core in package mesh coordinates (R234). -/
def coreY (core : Nat) : Nat := (coreDie core / 2) * 16 + core % 384 / 24

/-- Core of a package mesh coordinate (R234). -/
def coreAt (x y : Nat) : Nat :=
  let die := (if 24 ≤ x then 1 else 0) + (if 16 ≤ y then 2 else 0)
  die * 384 + 24 * (y % 16) + x % 24

/-- Cluster in the package of a core (R234). -/
def coreCluster (core : Nat) : Nat :=
  4 * coreDie core + (if 12 ≤ core % 384 % 24 then 1 else 0) + (if 8 ≤ core % 384 / 24 then 2 else 0)

/-- Die of a cluster. -/
def clusterDie (c : Nat) : Nat := c / 4

/-- Agent number of a cluster's matrix engine, of copy engine `e` of 2 of a cluster, of traversal engine `e`, stack e / 4, and of
a die's collective engine (R1), and the port of a die's links (R320); agents below 1,536 are cores (log entry 9). -/
def agentMx (cluster : Nat) : Nat := 2048 + cluster
@[inherit_doc agentMx] def agentCopy (cluster e : Nat) : Nat := 2064 + 2 * cluster + e
@[inherit_doc agentMx] def agentTrav (e : Nat) : Nat := 2096 + e
@[inherit_doc agentMx] def agentColl (die : Nat) : Nat := 2128 + die
@[inherit_doc agentMx] def agentLink (die : Nat) : Nat := 2132 + die

/-- Die of an agent. -/
def agentDie (a : Nat) : Nat :=
  if a < 1536 then coreDie a else if a < 2064 then (a - 2048) / 4 else if a < 2096 then (a - 2064) / 8
  else if a < 2128 then (a - 2096) / 8 else (a - 2128) % 4

/-- AGENT of a fault record for an engine: [31] = 1 and the engine's number within the die (R317, log entry 9). -/
def agentWord (a : Nat) : Nat :=
  2 ^ 31 + (if a < 2064 then (a - 2048) % 4 else if a < 2096 then 4 + (a - 2064) % 8 else if a < 2128 then 12 + (a - 2096) % 8
    else 20)

/-- Whether a street is there at all. -/
def Street.there (t : Street) : Bool := t.life != .absent

/-- Every street, the one in focus first. -/
def State.allStreets (s : State) : List Street := (s.st :: s.streets).filter Street.there

/-- Change every street. -/
def State.mapStreets (s : State) (f : Street → Street) : State :=
  { s with st := f s.st, streets := s.streets.map f }

/-- Change the street with this STREETID. -/
def State.onStreet (s : State) (sid : StreetId) (f : Street → Street) : State :=
  s.mapStreets fun t => if t.there && t.sid == sid then f t else t

/-- The street with this STREETID. -/
def State.street? (s : State) (sid : StreetId) : Option Street := s.allStreets.find? fun t => t.sid == sid

/-- Whether a block is there at all. -/
def Block.there (b : Block) : Bool := b.life != .absent

/-- Every block, the one in focus first. -/
def State.allBlocks (s : State) : List Block := (s.blk :: s.blocks).filter Block.there

/-- Change every block. -/
def State.mapBlocks (s : State) (f : Block → Block) : State := { s with blk := f s.blk, blocks := s.blocks.map f }

/-- Change one block. -/
def State.onBlock (s : State) (id : Nat) (f : Block → Block) : State :=
  s.mapBlocks fun b => if b.there && b.id == id then f b else b

/-- One block. -/
def State.block? (s : State) (id : Nat) : Option Block := s.allBlocks.find? fun b => b.id == id

/-- The block a handle's STREET names (R252): the block of any street with that STREETID, placed, saved or draining. -/
def State.blockOfSid? (s : State) (sid : StreetId) : Option Block := s.allBlocks.find? fun b => b.sids.contains sid

/-- Bring a street and its block into focus. -/
def State.focus (s : State) (sid : StreetId) : State :=
  if s.st.there && s.st.sid == sid then s
  else
    match s.streets.find? fun t => t.there && t.sid == sid with
    | none => s
    | some t =>
      let s := { s with st := t, streets := s.st :: s.streets.filter fun u => !(u.there && u.sid == sid) }
      if s.blk.there && s.blk.id == t.block then s
      else
        match s.blocks.find? fun b => b.there && b.id == t.block with
        | none => s
        | some b => { s with blk := b, blocks := s.blk :: s.blocks.filter fun c => !(c.there && c.id == t.block) }

/-- A core that nothing has touched: since reset it has counted cycles with no street resident (R169). -/
def Core.idle (idx clock : Nat) : Core :=
  let n := clock % 2 ^ 64
  { Core.zero idx with bins := ((List.replicate 18 0).set 0 n).set 9 n, reasons := ((List.replicate 30 0).set 14 n).set 29 n }

/-- The record of a die. -/
def State.die (s : State) (idx : Nat) : Die := (s.dies.find? fun c => c.idx == idx).getD (Die.zero idx)

/-- The record of a core. -/
def State.core (s : State) (idx : Nat) : Core :=
  (s.cores.find? fun c => c.idx == idx).getD (Core.idle idx (s.clock - (s.die (coreDie idx)).lost))

/-- Put the record of a core. -/
def putCore (c : Core) : List Core → List Core
  | [] => [c]
  | d :: ds => if d.idx = c.idx then c :: ds else d :: putCore c ds

/-- Change the record of a core. -/
def State.onCore (s : State) (idx : Nat) (f : Core → Core) : State := { s with cores := putCore (f (s.core idx)) s.cores }

/-- Change every core's record. -/
def State.mapCores (s : State) (f : Core → Core) : State := { s with cores := s.cores.map f }

/-- Put the record of a die. -/
def putDie (c : Die) : List Die → List Die
  | [] => [c]
  | d :: ds => if d.idx = c.idx then c :: ds else d :: putDie c ds

/-- Change the record of a die. -/
def State.onDie (s : State) (idx : Nat) (f : Die → Die) : State := { s with dies := putDie (f (s.die idx)) s.dies }

/-- An idle engine. -/
def Engine.idle (idx : Nat) : Engine := { idx := idx, run := none, served := 0, ops := [] }

/-- The record of a cluster's matrix engine. -/
def State.engine (s : State) (idx : Nat) : Engine := (s.engines.find? fun c => c.idx == idx).getD (Engine.idle idx)

/-- Put the record of an engine. -/
def putEngine (c : Engine) : List Engine → List Engine
  | [] => [c]
  | d :: ds => if d.idx = c.idx then c :: ds else d :: putEngine c ds

/-- Change the record of an engine. -/
def State.onEngine (s : State) (idx : Nat) (f : Engine → Engine) : State :=
  { s with engines := putEngine (f (s.engine idx)) s.engines }

/-- Take a fresh identity for an operation, record or block. -/
def State.fresh (s : State) : Nat × State := (s.nextId, { s with nextId := s.nextId + 1 })

/-- Change the street in focus. -/
def State.onSt (s : State) (f : Street → Street) : State := { s with st := f s.st }

/-- The issuing path entry of a street (R58). -/
def Street.path (t : Street) : PathEntry := t.paths.get t.sel

/-- Change a path entry. -/
def Street.onPath (t : Street) (i : Fin 8) (f : PathEntry → PathEntry) : Street :=
  { t with paths := t.paths.set i (f (t.paths.get i)) }

/-- The eight entry numbers. -/
def entryIdx : List (Fin 8) := List.finRange 8

/-- Entries with their numbers. -/
def Street.entries (t : Street) : List (Fin 8 × PathEntry) := entryIdx.map fun i => (i, t.paths.get i)

/-- The non-free entries. -/
def Street.liveEntries (t : Street) : List (Fin 8 × PathEntry) := t.entries.filter fun e => e.2.reason != .free

/-- Whether entry `i` is held by a trap (R64). -/
def Street.isHeld (t : Street) (i : Fin 8) : Bool :=
  match t.trap with
  | none => false
  | some f => f.held.contains i.val

/-- The entry that holds a lane. -/
def Street.entryOf (t : Street) (lane : Nat) : Option (Fin 8) :=
  (t.liveEntries.find? fun e => e.2.mask.getLsbD lane).map (·.1)

/-- The lowest free entries (R61). -/
def Street.freeEntries (t : Street) : List (Fin 8) := (t.entries.filter fun e => e.2.reason == .free).map (·.1)

/-- Whether a street has come to the end of a window whose instruction has not passed its fault point (R27, R29). -/
def Street.windowEnd (t : Street) : Bool := t.windows.any fun w => w.left == 0

/-- Whether an access to a pan still waits inside a window (R283). -/
def Street.panWaits (t : Street) : Bool := t.windows.any fun w => w.pan.isSome

/-- Die of a street. -/
def Street.die (t : Street) : Nat := coreDie t.core

/-- Cluster of a block's core. -/
def Block.cluster (b : Block) : Nat := coreCluster b.core

/-- x and y offset of a block's core in its district (R235). -/
def Block.dx (b : Block) : Nat := coreX b.core - b.x0
@[inherit_doc Block.dx] def Block.dy (b : Block) : Nat := coreY b.core - b.y0

/-- A timeline of a block (R250). -/
def Block.tl (b : Block) (k : Nat) : Timeline := b.tls.toArray.getD k Timeline.zero

/-- Change a timeline of a block. -/
def Block.onTl (b : Block) (k : Nat) (f : Timeline → Timeline) : Block := { b with tls := b.tls.setIfInBounds k (f (b.tl k)) }

/-- The record at the head of a block's pending-launch queue, once it has entered (R304). -/
def Block.posted? (b : Block) : Option TaskRec := b.plq.head?.bind (·.rec_)

/-- PC and DEPTH of the path in use, which name what its instruction has reserved: paths that come to share both merge (R60). -/
def Street.here (t : Street) : Addr × Nat := (t.path.pc, t.path.depth)

/-- The path in use holds no reservation of a queue's entry any more (R194). -/
def Street.unreserve (t : Street) : Street := { t with reserves := t.reserves.filter fun r => r.1 != t.here }

/-- Whether an entry of a pending-launch queue is the one that the path in use has reserved and not filled (R304). -/
def PlqEntry.held (t : Street) (e : PlqEntry) : Bool := e.rec_.isNone && e.sid == t.sid && e.at_ == t.here

/-- The path in use frees the entry of the pending-launch queue that its post has reserved and not filled (R304). -/
def State.freePost (s : State) : State := { s with blk := { s.blk with plq := s.blk.plq.filter fun e => !e.held s.st } }

/-- The street in focus frees every such entry of its paths (R304). -/
def State.freePosts (s : State) : State :=
  { s with blk := { s.blk with plq := s.blk.plq.filter fun e => e.rec_.isSome || e.sid != s.st.sid } }

/-- The blocks of a block's district: those that the same LAUNCH placed, on the same side of a pair (R235, R366). -/
def State.district (s : State) (b : Block) : List Block :=
  s.allBlocks.filter fun c => c.task == b.task && c.primary == b.primary && c.life != .draining

/-- The block of a block's district at an offset (R182). -/
def State.districtAt? (s : State) (b : Block) (dx dy : Nat) : Option Block :=
  (s.district b).find? fun c => c.dx == dx && c.dy == dy

/-- Whether an address lies in a street's frame stack or in its hold table (R145, R220); an FSTK of 0 names none (log entry 10). -/
def Street.inFrames (t : Street) (va : Nat) : Bool :=
  t.fstk != 0 && decide ((va + 2 ^ 64 + 32768 - t.fstk.toNat) % 2 ^ 64 < 32768 + 512 * 65535)

/-- Whether a context may still act. -/
def State.ctxOf (s : State) : CtxDesc := s.blk.ctx

end Sys2Proof.Machine
end

