-- ==== Sys2Proof/Machine/Flags.lean ====
section
/-! DEFINITION. The status register's flags (R55, R73) and how instructions set them: a flag is set when any active lane
meets its condition and stays set until SWRITE clears it. -/

namespace Sys2Proof.Machine

/-- SR.SAT: an integer result saturated (R55). -/
def flSAT : Word := 1
/-- SR.IV: invalid operation. -/
def flIV : Word := 2
/-- SR.OF: overflow. -/
def flOF : Word := 4
/-- SR.UF: underflow. -/
def flUF : Word := 8
/-- SR.NX: inexact. -/
def flNX : Word := 16
/-- SR.MCL: a moment input was clamped. -/
def flMCL : Word := 32
/-- SR.BFPOV: a block-float mantissa saturated on encoding. -/
def flBFPOV : Word := 64

/-- The bits of SR that exist (R55). -/
def srMask : Word := 0x7F

/-- A flag when a condition holds. -/
def flIf (c : Bool) (f : Word) : Word := if c then f else 0

/-- Set flags in SR; flags stay set (R55). A read inside two open windows that both raise a flag may no longer find what stood before the
first (R28, R151; DESIGN CHOICE, log entry 81). -/
def Street.setFlags (t : Street) (f : Word) : Street :=
  { t with sr := t.sr ||| (f &&& srMask), windows := t.windows.map fun w => { w with flags := w.flags &&& ~~~f } }

/-- The OR of the flags of the lanes of a mask, or of lane 0 alone under U = 1 (R55, R63). -/
def orFlags (lanes : List Lane) (f : Lane → Word) : Word := lanes.foldl (fun acc l => acc ||| f l) 0

end Sys2Proof.Machine
end

