-- ==== Sys2Proof/Machine/Float.lean ====
section
/-! DEFINITION. Floating-point values as exact dyadic numbers, and the one rounding of each operation (R71 to R75). A result
is a pair of the encoding and the SR flags it sets. -/

namespace Sys2Proof.Machine

/-- A floating-point format (R71): exponent bits and fraction bits. -/
structure Fmt where
  ebits : Nat
  fbits : Nat
deriving DecidableEq, Repr

/-- binary32. -/
def f32 : Fmt := ⟨8, 23⟩
/-- binary16. -/
def f16 : Fmt := ⟨5, 10⟩
/-- bf16. -/
def bf16 : Fmt := ⟨8, 7⟩

/-- Bias of the exponent. -/
def Fmt.bias (f : Fmt) : Nat := 2 ^ (f.ebits - 1) - 1
/-- Width in bits. -/
def Fmt.width (f : Fmt) : Nat := 1 + f.ebits + f.fbits
/-- Largest exponent field. -/
def Fmt.emask (f : Fmt) : Nat := 2 ^ f.ebits - 1
/-- Exponent of the quantum of the smallest normal numbers. -/
def Fmt.qmin (f : Fmt) : Int := 1 - (f.bias : Int) - f.fbits
/-- Encoding of infinity. -/
def Fmt.inf (f : Fmt) (s : Bool) : Nat := b2n s * 2 ^ (f.width - 1) + f.emask * 2 ^ f.fbits
/-- Encoding of the largest finite number. -/
def Fmt.maxFin (f : Fmt) (s : Bool) : Nat := f.inf s - 1
/-- The default quiet NaN (R71). -/
def Fmt.qnan (f : Fmt) : Nat := f.emask * 2 ^ f.fbits + 2 ^ (f.fbits - 1)
/-- Encoding of zero. -/
def Fmt.zero (f : Fmt) (s : Bool) : Nat := b2n s * 2 ^ (f.width - 1)
/-- Encoding of 1. -/
def Fmt.one (f : Fmt) : Nat := f.bias * 2 ^ f.fbits

/-- A result: encoding and flags. -/
abbrev FRes := Nat × Word

/-- A value that is not a NaN: infinite, or a sign, a magnitude m and an exponent e standing for m × 2^e. -/
inductive Num where
  | inf (s : Bool)
  | fin (s : Bool) (m : Nat) (e : Int)
deriving DecidableEq, Repr

/-- Sign bit of an encoding. -/
def Fmt.sign (f : Fmt) (x : Nat) : Bool := x.testBit (f.width - 1)
/-- Exponent field. -/
def Fmt.expo (f : Fmt) (x : Nat) : Nat := bits x f.fbits f.ebits
/-- Fraction field. -/
def Fmt.frac (f : Fmt) (x : Nat) : Nat := x % 2 ^ f.fbits
/-- A NaN. -/
def Fmt.isNan (f : Fmt) (x : Nat) : Bool := f.expo x == f.emask && f.frac x != 0
/-- A signalling NaN (R71). -/
def Fmt.isSnan (f : Fmt) (x : Nat) : Bool := f.isNan x && !x.testBit (f.fbits - 1)
/-- Zero of either sign. -/
def Fmt.isZero (f : Fmt) (x : Nat) : Bool := f.expo x == 0 && f.frac x == 0
/-- A subnormal. -/
def Fmt.isSub (f : Fmt) (x : Nat) : Bool := f.expo x == 0 && f.frac x != 0
/-- An infinity. -/
def Fmt.isInf (f : Fmt) (x : Nat) : Bool := f.expo x == f.emask && f.frac x == 0
/-- A NaN with its quiet bit set (R75). -/
def Fmt.quiet (f : Fmt) (x : Nat) : Nat := x ||| 2 ^ (f.fbits - 1)

/-- The value of an encoding that is no NaN. -/
def Fmt.num (f : Fmt) (x : Nat) : Num :=
  if f.expo x = f.emask then .inf (f.sign x)
  else if f.expo x = 0 then .fin (f.sign x) (f.frac x) f.qmin
  else .fin (f.sign x) (2 ^ f.fbits + f.frac x) ((f.expo x : Int) - f.bias - f.fbits)

/-- R74: a subnormal source read as zero under FTZ. -/
def Fmt.flush (f : Fmt) (ftz : Bool) (x : Nat) : Nat := if ftz && f.isSub x then f.zero (f.sign x) else x

/-- Rounding modes of MD.RND (R72). -/
abbrev Rnd := Nat

/-- Whether a magnitude with quotient q, remainder r of a divisor d rounds away (R72). -/
def roundUp (rnd : Rnd) (s : Bool) (q r d : Nat) : Bool :=
  if r = 0 then false
  else if rnd = 0 then decide (d < 2 * r) || (decide (2 * r = d) && q % 2 == 1)
  else if rnd = 1 then false
  else if rnd = 2 then !s
  else s

/-- m × 2^e as a multiple of 2^q, rounded; and whether it was inexact. -/
def quantize (rnd : Rnd) (s : Bool) (m : Nat) (e q : Int) : Nat × Bool :=
  if q ≤ e then (m * 2 ^ (e - q).toNat, false)
  else
    let d := 2 ^ (q - e).toNat
    let r := m % d
    (m / d + b2n (roundUp rnd s (m / d) r d), r != 0)

/-- Number of bits of a magnitude. -/
def bitLen (m : Nat) : Nat := if m = 0 then 0 else Nat.log2 m + 1

/-- Round the exact value ±m × 2^e once into a format (R72, R73), delivering subnormal results as zero under FTZ (R74). -/
def Fmt.round (f : Fmt) (rnd : Rnd) (ftz : Bool) (s : Bool) (m : Nat) (e : Int) : FRes :=
  if m = 0 then (f.zero s, 0)
  else
    let top : Int := (bitLen m : Int) - 1 + e
    let qu := top - f.fbits
    let u := quantize rnd s m e qu
    let emax : Int := (f.bias : Int)
    let uTop : Int := (bitLen u.1 : Int) - 1 + qu
    if emax < uTop then
      let toInf := rnd == 0 || (rnd == 2 && !s) || (rnd == 3 && s)
      (if toInf then f.inf s else f.maxFin s, flOF ||| flNX)
    else
      let q := if f.qmin ≤ qu then qu else f.qmin
      let v := quantize rnd s m e q
      let tiny := decide (uTop < 1 - (f.bias : Int))
      let isSub := decide (v.1 < 2 ^ f.fbits) && v.1 != 0
      if ftz && isSub then (f.zero s, flUF ||| flNX)
      else
        let fl := flIf v.2 flNX ||| flIf (v.2 && tiny) flUF
        let enc := if v.1 < 2 ^ f.fbits then v.1
          else if v.1 < 2 ^ (f.fbits + 1) then (q - f.qmin + 1).toNat * 2 ^ f.fbits + (v.1 - 2 ^ f.fbits)
          else (q - f.qmin + 2).toNat * 2 ^ f.fbits
        (f.zero s + enc, fl)

/-- The first NaN of the sources, quieted, with IV for any signalling one (R73, R75). -/
def Fmt.nanOf (f : Fmt) (xs : List Nat) : Option FRes :=
  match xs.find? f.isNan with
  | none => none
  | some x => some (f.quiet x, flIf (xs.any f.isSnan) flIV)

/-- The invalid result: the default NaN and IV. -/
def Fmt.invalid (f : Fmt) : FRes := (f.qnan, flIV)

/-- Signed magnitude at a common exponent. -/
def Num.at_ (n : Num) (e0 : Int) : Int :=
  match n with
  | .inf _ => 0
  | .fin s m e => if s then -((m * 2 ^ (e - e0).toNat : Nat) : Int) else ((m * 2 ^ (e - e0).toNat : Nat) : Int)

/-- Exponent of a finite value. -/
def Num.exp : Num → Int
  | .inf _ => 0
  | .fin _ _ e => e

/-- Sign of a value. -/
def Num.neg : Num → Bool
  | .inf s => s
  | .fin s _ _ => s

/-- Whether a value is infinite. -/
def Num.isInf : Num → Bool
  | .inf _ => true
  | .fin _ _ _ => false

/-- Whether a value is zero. -/
def Num.isZero : Num → Bool
  | .inf _ => false
  | .fin _ m _ => m == 0

/-- Change the sign where asked. -/
def Num.flip (n : Num) (c : Bool) : Num :=
  match n with
  | .inf s => .inf (s != c)
  | .fin s m e => .fin (s != c) m e

/-- Exact product; none for 0 × ∞ (R112). -/
def Num.mul (a b : Num) : Option Num :=
  match a, b with
  | .fin s m e, .fin t n k => some (.fin (s != t) (m * n) (e + k))
  | a, b => if a.isZero || b.isZero then none else some (.inf (a.neg != b.neg))

/-- Smallest exponent of finite values. -/
def minExp : List Num → Int
  | [] => 0
  | [a] => a.exp
  | a :: as => let r := minExp as; if a.isInf then r else if as.all (·.isInf) then a.exp else if a.exp ≤ r then a.exp else r

/-- The exact sum of terms rounded once; ∞ of opposite signs is invalid, and an exact zero sum takes the common sign of its
terms, else +0, or -0 when rounding down: R112's rule, taken for the sums of R115 and R140 too (DESIGN CHOICE, log entry 79). -/
def Fmt.sum (f : Fmt) (rnd : Rnd) (ftz : Bool) (ts : List Num) : FRes :=
  let infs := ts.filter (·.isInf)
  if infs.any (·.neg) && infs.any (fun t => !t.neg) then f.invalid
  else
    match infs with
    | t :: _ => (f.inf t.neg, 0)
    | [] =>
      let e0 := minExp ts
      let v : Int := ts.foldl (fun acc t => acc + t.at_ e0) 0
      if v = 0 then
        let s := if ts.all (·.neg) then true else if ts.all (fun t => !t.neg) then false else rnd == 3
        (f.zero s, 0)
      else f.round rnd ftz (decide (v < 0)) v.natAbs e0

/-- a + b, and with `sub` a − b (R112). -/
def Fmt.add (f : Fmt) (rnd : Rnd) (ftz sub : Bool) (a b : Nat) : FRes :=
  let a := f.flush ftz a
  let b := f.flush ftz b
  match f.nanOf [a, b] with
  | some r => r
  | none => f.sum rnd ftz [f.num a, (f.num b).flip sub]

/-- a × b (R112). -/
def Fmt.mul (f : Fmt) (rnd : Rnd) (ftz : Bool) (a b : Nat) : FRes :=
  let a := f.flush ftz a
  let b := f.flush ftz b
  match f.nanOf [a, b] with
  | some r => r
  | none =>
    match (f.num a).mul (f.num b) with
    | none => f.invalid
    | some (.inf s) => (f.inf s, 0)
    | some (.fin s m e) => f.round rnd ftz s m e

/-- ±(a × b) ± d with one rounding (R112). The NaN rule comes first (log entry 17). -/
def Fmt.fma (f : Fmt) (rnd : Rnd) (ftz negP negD : Bool) (a b d : Nat) : FRes :=
  let a := f.flush ftz a
  let b := f.flush ftz b
  let d := f.flush ftz d
  match f.nanOf [a, b, d] with
  | some r => r
  | none =>
    match (f.num a).mul (f.num b) with
    | none => f.invalid
    | some p => f.sum rnd ftz [p.flip negP, (f.num d).flip negD]

/-- Integer square root by digits: `fuel` bits from the top. -/
def isqrtGo (n : Nat) : Nat → Nat → Nat
  | 0, r => r
  | k + 1, r =>
    let c := r + 2 ^ k
    isqrtGo n k (if c * c ≤ n then c else r)

/-- Integer square root. -/
def isqrt (n : Nat) : Nat := isqrtGo n (bitLen n / 2 + 1) 0

/-- The square root of m × 2^e as a dyadic with a sticky bit: at least `p` bits. -/
def sqrtDy (p m : Nat) (e : Int) : Nat × Int :=
  let m := if e % 2 = 0 then m else 2 * m
  let e := if e % 2 = 0 then e else e - 1
  let k := p + 2
  let n := m * 2 ^ (2 * k)
  let r := isqrt n
  (2 * r + b2n (r * r != n), e / 2 - k - 1)

/-- √x, correctly rounded (R72, R124). -/
def Fmt.sqrt (f : Fmt) (rnd : Rnd) (ftz : Bool) (x : Nat) : FRes :=
  let x := f.flush ftz x
  match f.nanOf [x] with
  | some r => r
  | none =>
    match f.num x with
    | .inf s => if s then f.invalid else (f.inf false, 0)
    | .fin s m e =>
      if m = 0 then (f.zero s, 0) else if s then f.invalid
      else
        let r := sqrtDy (f.fbits + 2) m e
        f.round rnd ftz false r.1 r.2

/-- A quotient of magnitudes as a dyadic with a sticky bit. -/
def divDy (p m n : Nat) : Nat × Int :=
  let k := p + bitLen n + 2
  let a := m * 2 ^ k
  (2 * (a / n) + b2n (a % n != 0), -(k : Int) - 1)

/-- a ÷ b, correctly rounded (R137, R385). -/
def Fmt.div (f : Fmt) (rnd : Rnd) (ftz : Bool) (a b : Nat) : FRes :=
  let a := f.flush ftz a
  let b := f.flush ftz b
  match f.nanOf [a, b] with
  | some r => r
  | none =>
    match f.num a, f.num b with
    | .inf _, .inf _ => f.invalid
    | .inf s, .fin t _ _ => (f.inf (s != t), 0)
    | .fin s _ _, .inf t => (f.zero (s != t), 0)
    | .fin s m e, .fin t n k =>
      if n = 0 then (if m = 0 then f.invalid else (f.inf (s != t), 0))
      else if m = 0 then (f.zero (s != t), 0)
      else
        let q := divDy (f.fbits + 2) m n
        f.round rnd ftz (s != t) q.1 (q.2 + e - k)

/-- Convert between formats (R72, R75). -/
def Fmt.convert (g f : Fmt) (rnd : Rnd) (ftz : Bool) (x : Nat) : FRes :=
  let x := g.flush ftz x
  if g.isNan x then
    let frac := if f.fbits ≤ g.fbits then g.frac x / 2 ^ (g.fbits - f.fbits) else g.frac x * 2 ^ (f.fbits - g.fbits)
    (f.zero (g.sign x) + f.emask * 2 ^ f.fbits + (frac ||| 2 ^ (f.fbits - 1)), flIf (g.isSnan x) flIV)
  else
    match g.num x with
    | .inf s => (f.inf s, 0)
    | .fin s m e => f.round rnd ftz s m e

/-- An exact integer in a format (R122). -/
def Fmt.ofInt (f : Fmt) (rnd : Rnd) (ftz : Bool) (x : Int) : FRes := f.round rnd ftz (decide (x < 0)) x.natAbs 0

/-- A finite value rounded to an integer, and whether it was inexact (R119, R122). -/
def toIntRound (rnd : Rnd) (s : Bool) (m : Nat) (e : Int) : Int × Bool :=
  let q := quantize rnd s m e 0
  (if s then -(q.1 : Int) else q.1, q.2)

/-- Order of two values that are no NaN: −1, 0 or 1, with the zeros equal (R114). -/
def Num.cmp (a b : Num) : Int :=
  match a, b with
  | .inf s, .inf t => if s = t then 0 else if s then -1 else 1
  | .inf s, .fin _ _ _ => if s then -1 else 1
  | .fin _ _ _, .inf t => if t then 1 else -1
  | a, b =>
    let e0 := if a.exp ≤ b.exp then a.exp else b.exp
    let d := a.at_ e0 - b.at_ e0
    if d < 0 then -1 else if d = 0 then 0 else 1

/-- MIN, and MAX with `max` (R113). -/
def Fmt.minMax (f : Fmt) (ftz max : Bool) (a b : Nat) : FRes :=
  let a := f.flush ftz a
  let b := f.flush ftz b
  let fl := flIf (f.isSnan a || f.isSnan b) flIV
  if f.isNan a && f.isNan b then (f.quiet a, fl)
  else if f.isNan a then (b, fl)
  else if f.isNan b then (a, fl)
  else
    let c := (f.num a).cmp (f.num b)
    let less := if c = 0 then f.sign a && !f.sign b else decide (c < 0)
    (if less != max then a else b, fl)

/-- x rounded to an integral value in its format (R119). -/
def Fmt.rndi (f : Fmt) (rnd : Rnd) (ftz : Bool) (x : Nat) : FRes :=
  let x := f.flush ftz x
  match f.nanOf [x] with
  | some r => r
  | none =>
    match f.num x with
    | .inf _ => (x, 0)
    | .fin s m e =>
      let i := toIntRound rnd s m e
      ((f.round rnd false s i.1.natAbs 0).1, 0)

/-- x − floor(x), below 1 (R119). The exact zero of an integral x is +0 in every mode (DESIGN CHOICE, log entry 59). -/
def Fmt.fract (f : Fmt) (rnd : Rnd) (ftz : Bool) (x : Nat) : FRes :=
  let x := f.flush ftz x
  match f.nanOf [x] with
  | some r => r
  | none =>
    match f.num x with
    | .inf _ => f.invalid
    | .fin s m e =>
      if m = 0 then (f.zero false, 0)
      else
        let fl := (toIntRound 3 s m e).1
        let e0 := if e ≤ 0 then e else 0
        let v := (Num.fin s m e).at_ e0 - fl * 2 ^ (-e0).toNat
        let r := f.round rnd ftz false v.natAbs e0
        if r.1 = f.one then (f.one - 1, r.2 ||| flNX) else r

/-- R199: FADD, to nearest-even with subnormals kept, the first NaN of m, x quieted, no flag. -/
def faddNe (m x : Word) : Word := BitVec.ofNat 32 (f32.add 0 false false m.toNat x.toNat).1

end Sys2Proof.Machine
end

