-- ==== Sys2Proof/Machine/Wake.lean ====
section
/-! DEFINITION. Writing registers, and completing the waits of path entries (R61, R186, R264, R296, R338). An entry held by a
trap, or of a street that does not run, completes when it is released or runs again (R64, R174). -/

namespace Sys2Proof.Machine

/-- Drop lanes of a register from a window: a later write in program order has replaced what the window would leave (R28,
log entry 3). -/
def Window.drop (w : Window) (r : Nat) (m : Mask) : Window :=
  let cut (o : OldReg) : OldReg := if o.r = r then { o with m := o.m &&& ~~~m } else o
  { w with olds := w.olds.map cut, pan := w.pan.map fun p => if p.write then p else { p with regs := p.regs.map cut } }

/-- An acquire of the street is complete: what it performs from now on, the loads in windows that still stand among it, comes after
it (R67, R193). -/
def Street.forget (t : Street) (clock : Nat) : Street := { t with heard := clock, windows := t.windows.map fun w => { w with since := none } }

/-- Write lanes `m` of a register (R7). -/
def Street.setReg (t : Street) (r : RegNo) (m : Mask) (v : SVec) : Street :=
  { t with regs := t.regs.set r.toNat (SVec.blend m v (t.regs.get r.toFin)), windows := t.windows.map (·.drop r.toNat m) }

/-- Register r + i. -/
def regPlus (r : RegNo) (i : Nat) : RegNo := r + BitVec.ofNat 6 i

/-- Whether a place of a soft error is a lane in `m` of one of `n` registers of a street from `r` on. -/
def errInRegs (l : ErrLoc) (sid : StreetId) (r n : Nat) (m : Mask) : Bool :=
  match l with
  | .reg q x k => q == sid && decide (r ≤ x) && decide (x < r + n) && m.getLsbD k
  | _ => false

/-- Registers of the street in focus are written: an uncorrectable word there is gone (R362, log entry 50). -/
def State.rewrote (s : State) (r : RegNo) (n : Nat) (m : Mask) : State :=
  { s with upsets := s.upsets.filter fun u => !errInRegs u.1 s.st.sid r.toNat n m }

/-- Byte of a core scratchpad at which a word of a group's data bank and row lies (R177). -/
def bankByte (g j k w : Nat) : Nat := (k * 32 + j * 4 + g) * 128 + w * 8

/-- Errors of the words that a block takes over, and of the parity of its scratchpad range, are gone once the words are written anew
(R164). -/
def State.freshWords (s : State) (b : Block) (base : Nat) (sids : List StreetId) : State :=
  { s with upsets := s.upsets.filter fun u => match u.1 with
      | .spad c w => !(c == b.core && decide (base ≤ w * 8) && decide (w * 8 < base + b.hdr.spad * 256))
      | .parity c g k w => !(c == b.core && (List.range 8).any fun j =>
          decide (base ≤ bankByte g j k w) && decide (bankByte g j k w < base + b.hdr.spad * 256))
      | .reg q _ _ => !sids.contains q
      | .pan k _ | .queue k _ => k != b.id
      | _ => true }

/-- Return an entry to reason branch at the instruction after its waiting one (R61). -/
def PathEntry.resume (e : PathEntry) : PathEntry := { e with reason := .branch, pc := e.pc + 4, wait := .none }

/-- Return an entry to reason branch at its waiting instruction, which it then re-executes (R215). -/
def PathEntry.reexec (e : PathEntry) : PathEntry := { e with reason := .branch, wait := .none }

/-- The walk in a lane's slot (R337). -/
def walkIn (walks : List Walk) (t : Street) (l : Lane) : Option Walk :=
  match t.walkSlots.get l with
  | none => none
  | some id => walks.find? fun w => w.id == id

/-- TRAVW's results: status word, zero, final pointer, each for a lane's slot (R338). -/
def travResult (walks : List Walk) (t : Street) (f : Lane → Lane) : SVec × SVec × SVec :=
  (SVec.gen fun l => match walkIn walks t (f l) with | some w => w.ended.getD 0 | none => 0,
   SVec.gen fun l => match walkIn walks t (f l) with | some w => BitVec.ofNat 32 w.p | none => 0,
   SVec.gen fun l => match walkIn walks t (f l) with | some w => BitVec.ofNat 32 (w.p / 2 ^ 32) | none => 0)

/-- Write TRAVW's results and set the slots it read to NONE (R338). -/
def Street.travDone (t : Street) (walks : List Walk) (x : RegNo) (slots wm : Mask) (u : Bool) : Street :=
  let r := travResult walks t (fun l => if u then 0 else l)
  let t := (((t.setReg x wm r.1).setReg (regPlus x 1) wm SVec.zero).setReg (regPlus x 2) wm r.2.1).setReg (regPlus x 3) wm r.2.2
  { t with walkSlots := Vector.ofFn fun l => if slots.has l then none else t.walkSlots.get l }

/-- Complete the wait of entry `i` when it is over; the flag says that an acquire beyond the core was made. -/
def Street.settleEntry (t : Street) (clock : Nat) (tls : Vector Timeline 32) (walks : List Walk) (far : Bool) (i : Fin 8) :
    Street × Bool :=
  let e := t.paths.get i
  if e.reason != .wait || t.isHeld i then (t, false)
  else
    match e.wait with
    | .tl k n x wm =>
      let tl := tls.toArray.getD k Timeline.zero
      if n ≤ tl.value then
        let t := (t.setReg x wm (SVec.splat (BitVec.ofNat 32 tl.value))).setReg (regPlus x 1) wm
          (SVec.splat (BitVec.ofNat 32 (tl.value / 2 ^ 32)))
        ((t.forget clock).onPath i PathEntry.resume, match tl.far with | some f => decide (f ≤ n) | none => false)
      else (t, false)
    | .bar _ _ x wm (some (status, phase)) =>
      let t := (t.setReg x wm (SVec.splat (BitVec.ofNat 32 status))).setReg (regPlus x 1) wm (SVec.splat phase)
      ((t.forget clock).onPath i PathEntry.resume, far && status == 0)
    | .waita _ true => (t.onPath i PathEntry.resume, false)
    | .trav x slots wm u =>
      let ws := slots.lanes.filterMap (walkIn walks t)
      if ws.all fun w => w.ended.isSome then
        if ws.any (·.trapped) then (t.onPath i PathEntry.reexec, false)
        else ((t.travDone walks x slots wm u).onPath i PathEntry.resume, false)
      else (t, false)
    | _ => (t, false)

/-- Complete every wait of a street that is over. -/
def Street.settle (t : Street) (clock : Nat) (tls : Vector Timeline 32) (walks : List Walk) (far : Bool) : Street × Bool :=
  if t.life != .running then (t, false)
  else entryIdx.foldl (fun (p : Street × Bool) i =>
    let q := p.1.settleEntry clock tls walks far i
    (q.1, p.2 || q.2)) (t, false)

/-- The registers that the end of waits has written, from a street before it and after it: first register, count and lanes. -/
def Street.waitWrote (t t' : Street) : List (Nat × Nat × Mask) :=
  entryIdx.filterMap fun i =>
    if (t'.paths.get i).pc = (t.paths.get i).pc then none
    else
      match (t.paths.get i).wait with
      | .tl _ _ x m => some (x.toNat, 2, m)
      | .bar _ _ x m _ => some (x.toNat, 2, m)
      | .trav x _ m _ => some (x.toNat, 4, m)
      | _ => none

/-- Complete the waits of every street of a block that are over; an acquire that reaches beyond the core invalidates its L1
(R185, R251, R264). -/
def State.settleBlock (s : State) (id : Nat) (far : Bool) : State :=
  match s.block? id with
  | none => s
  | some b =>
    let inv := s.allStreets.any fun t => t.block == id && (t.settle s.clock b.tls s.walks far).2
    let s := { s with upsets := s.upsets.filter fun u => !(s.allStreets.any fun t => t.there && t.block == id
      && ((t.waitWrote (t.settle s.clock b.tls s.walks far).1).any fun w => errInRegs u.1 t.sid w.1 w.2.1 w.2.2)) }
    let s := s.mapStreets fun t => if t.there && t.block == id then (t.settle s.clock b.tls s.walks far).1 else t
    if inv then s.onCore b.core fun c => { c with l1 := [] } else s

/-- Complete the waits of every street. -/
def State.settleAll (s : State) : State := s.allBlocks.foldl (fun s b => s.settleBlock b.id true) s

/-- Mark the WAITA entries that wait on a line as over. -/
def Street.fire (t : Street) (line : Nat) : Street :=
  entryIdx.foldl (fun t i =>
    match (t.paths.get i).wait with
    | .waita ls false => if ls.contains line then t.onPath i fun e => { e with wait := .waita ls true } else t
    | _ => t) t

/-- Whether a street has a WAITA on a line. -/
def Street.waitsOn (t : Street) (line : Nat) : Bool :=
  t.entries.any fun e => match e.2.wait with | .waita ls false => ls.contains line | _ => false

/-- A monitor of a core's L1 on a line fires: it is freed, and the L1 keeps no copy of the line, which the hardware keeps coherent (R185,
R186). -/
def Core.fire (c : Core) (line : Nat) : Core :=
  if c.monitors.any fun m => m.line == line then
    { c with monitors := c.monitors.filter fun m => m.line != line, l1 := c.l1.filter fun x => x.pa / 4 != line }
  else c

/-- Fire the monitors of a line: every entry that waits on it becomes runnable, and the monitors are freed (R186, R201). -/
def State.fireLine (s : State) (line : Nat) : State :=
  if (s.cores.any fun c => c.monitors.any fun m => m.line == line)
      || (s.dies.any fun d => d.unitMons.any fun m => m.line == line) then
    let s : State := { s with
      cores := s.cores.map (·.fire line)
      dies := s.dies.map fun d => { d with unitMons := d.unitMons.filter fun m => m.line != line } }
    (s.mapStreets (·.fire line)).settleAll
  else s

/-- The write count of a line (R201). -/
def State.ver (s : State) (line : Nat) : Nat := ((s.lineVer.find? fun p => p.1 == line).map (·.2)).getD 0

/-- Raise the write count of a line. -/
def bumpVer (line : Nat) : List (Nat × Nat) → List (Nat × Nat)
  | [] => [(line, 1)]
  | p :: ps => if p.1 = line then (line, p.2 + 1) :: ps else p :: bumpVer line ps

/-- Whether a physical byte lies in a barrier object in service (R263). -/
def State.inBarrier (s : State) (pa : Nat) : Bool :=
  s.bars.any fun b => b.valid && match b.place with | .global o => decide (o ≤ pa) && decide (pa < o + 16) | _ => false

/-- Put bytes, leaving out those of barrier objects in service. -/
def State.putBytes (s : State) (pa : Nat) : List Byte → State
  | [] => s
  | v :: vs => State.putBytes (if s.inBarrier pa then s else { s with mem := s.mem.write pa v }) (pa + 1) vs

/-- The lines of a range have been written: their write counts rise and their monitors fire (R186, R201). -/
def State.wrote (s : State) (pa n : Nat) : State :=
  let lines := linesOf pa n
  lines.foldl (fun s l => s.fireLine l) { s with lineVer := lines.foldl (fun v l => bumpVer l v) s.lineVer }

/-- Bytes of physical memory that hardware writes for itself: records, queues, tables and images (R186, R263). -/
def State.poke (s : State) (pa : Nat) (bs : List Byte) : State := (s.putBytes pa bs).wrote pa bs.length

/-- A number that hardware writes for itself as `n` little-endian bytes. -/
def State.pokeNat (s : State) (pa n x : Nat) : State := s.poke pa (leBytes n x)

/-- Bytes of a block's scratchpad allocation (R49). -/
def Block.spadBytes (b : Block) : Nat := b.hdr.spad * 256

/-- Registers of a mask in ascending index. -/
def maskRegs (m : Nat) : List Nat := (List.range 64).filter fun r => bit m r

/-- Next multiple of 256. -/
def up256 (n : Nat) : Nat := (n + 255) / 256 * 256

/-- Where the per-street areas of an image begin. -/
def imageStreets (streets : Nat) : Nat := 0x300 + 0x200 * streets

/-- Bytes of the area of a street that saves so many registers (R173). -/
def streetArea (mask : Nat) : Nat := 1024 + 256 * (maskRegs mask).length

/-- REGMASK of a street in an image. -/
def imageMask (m : Memory) (image i : Nat) : Nat := m.nat (image + 0x300 + 0x200 * i + 0x10) 8

/-- Offset of the area of street `i` in an image. -/
def imageStreetOff (m : Memory) (image streets i : Nat) : Nat :=
  (List.range i).foldl (fun o j => o + streetArea (imageMask m image j)) (imageStreets streets)

/-- Offset of the scratchpad in an image. -/
def imageSpadOff (m : Memory) (image : Nat) (h : KHeader) : Nat :=
  let q := imageStreetOff m image h.streets h.streets
  if h.chans = 0 then q else up256 (q + 128 + 32768)

/-- Where the image of a saved block holds a byte of its scratchpad (R173). -/
def State.imageSpad (s : State) (b : Block) (off : Nat) : Nat := b.image + imageSpadOff s.mem b.image b.hdr + off

/-- Where the image of a saved block holds a byte of the register-file window of a street (R173, R182); none for a register that
is not saved. -/
def State.imageReg (s : State) (b : Block) (off : Nat) : Option Nat :=
  let w := off / 4
  let i := w / 4096
  ((maskRegs (imageMask s.mem b.image i)).findIdx? (· == w / 64 % 64)).map fun j =>
    b.image + imageStreetOff s.mem b.image b.hdr.streets i + 1024 + 256 * j + 4 * (w % 64) + off % 4

/-- Bytes of a block's scratchpad; of a saved block they stand in its image (R173, R174). -/
def State.spadRead (s : State) (b : Block) (off n : Nat) : List Byte :=
  if b.life == .saved then s.mem.readN (s.imageSpad b off) n else b.spad.readN off n

/-- Put bytes into a block's scratchpad, into its image while it is saved (R173, R174). -/
def State.spadWrite (s : State) (block off : Nat) (bs : List Byte) : State :=
  match s.block? block with
  | none => s
  | some b =>
    if b.life == .saved then s.poke (s.imageSpad b off) bs else s.onBlock block fun k => { k with spad := k.spad.writeN off bs }

end Sys2Proof.Machine
end

