-- ==== Sys2Proof/Machine/Xlat.lean ====
section
/-! DEFINITION. Translation: page tables, their consistency and permissions (R314 to R317), translation caches (R318) and
per-page counters (R319, R320). -/

namespace Sys2Proof.Machine

/-- How an access is translated (R316, R317). -/
inductive Acc where
  | read | write | atomic | fetch
deriving DecidableEq, Repr

/-- ACCESS of a fault record (R317). -/
def Acc.code : Acc → Nat
  | .read => 0 | .write => 1 | .atomic => 2 | .fetch => 3

/-- Canonical form: bits [63:57] equal bit 56 (R190). -/
def canonical (va : Nat) : Bool := bits va 56 8 == 0 || bits va 56 8 == 255

/-- Fields of a leaf entry (R315). -/
def pteV (e : Nat) : Bool := bit e 63
@[inherit_doc pteV] def pteLeaf (e : Nat) : Bool := bit e 62
@[inherit_doc pteV] def pteR (e : Nat) : Bool := bit e 61
@[inherit_doc pteV] def pteW (e : Nat) : Bool := bit e 60
@[inherit_doc pteV] def pteX (e : Nat) : Bool := bit e 59
@[inherit_doc pteV] def pteMS (e : Nat) : Bool := bit e 58
@[inherit_doc pteV] def pteCMP (e : Nat) : Bool := bit e 57
@[inherit_doc pteV] def pteRH (e : Nat) : Bool := bit e 56
@[inherit_doc pteV] def pteFMT (e : Nat) : Nat := bits e 52 4
@[inherit_doc pteV] def pteBL (e : Nat) : Nat := bits e 49 3
@[inherit_doc pteV] def pteSIDX (e : Nat) : Nat := bits e 43 6
@[inherit_doc pteV] def ptePFN (e : Nat) : Nat := bits e 8 34

/-- R316, R378: whether an entry of a level with V = 1 is inconsistent. -/
def pteBad (level e : Nat) : Bool :=
  if pteLeaf e then
    level == 0 || bit e 42 || (level == 2 && ptePFN e % 128 != 0) || (level == 1 && ptePFN e % 16384 != 0)
      || decide (11 ≤ pteFMT e) || (decide (1 ≤ pteFMT e) && decide (pteFMT e ≤ 7) && decide (5 ≤ pteBL e))
      || ((pteMS e || pteRH e) && pteFMT e != 0) || (pteRH e && bits e 40 2 != 0)
  else level == 3 || bits e 52 10 != 0

/-- What a table walk finds. -/
inductive Walked where
  /-- a consistent leaf: the entry, its address, the page's first address and its size -/
  | leaf (pte eaddr base size level : Nat)
  /-- V = 0 (KIND 0) or an inconsistent entry (KIND 2) -/
  | bad (kind level pte : Nat)
  /-- a table entry where there is no memory -/
  | hole (pa : Nat)
deriving DecidableEq, Repr

/-- The index fields of the four levels: low bit and width (R314). -/
def ptLevels : List (Nat × Nat × Nat) := [(0, 45, 12), (1, 32, 13), (2, 25, 7), (3, 18, 7)]

/-- Walk from a table at `pa` (R314). -/
def walkTable (m : Memory) (va : Nat) : List (Nat × Nat × Nat) → Nat → Walked
  | [], pa => .hole pa
  | (level, lo, w) :: rest, pa =>
    let ea := pa + 8 * bits va lo w
    if !hbmHas ea then .hole ea
    else
      let e := m.nat ea 8
      if !pteV e then .bad 0 level e
      else if pteBad level e then .bad 2 level e
      else if pteLeaf e then .leaf e ea (va / 2 ^ lo * 2 ^ lo) (2 ^ lo) level
      else walkTable m va rest (bits e 10 42 * 1024)

/-- What a translation gives: a physical address and the leaf used, a fault, or an access where there is no memory. -/
inductive Xl where
  | ok (pa pte eaddr base size : Nat)
  | fault (f : XFault)
  | hole (pa : Nat)
deriving DecidableEq, Repr

/-- Permission of a leaf for an access (R316). -/
def pteAllows (e : Nat) : Acc → Bool
  | .read => pteR e
  | .write => pteW e
  | .atomic => pteR e && pteW e
  | .fetch => pteX e

/-- Whether a physical address of a leaf can be accessed here: in HBM, or on another device (R321, R378). -/
def leafHas (pte pa : Nat) : Bool := pteRH pte || hbmHas pa

/-- A leaf applied to an address and an access (R316, R317). -/
def useLeaf (ctx agent va : Nat) (acc : Acc) (pte eaddr base size level : Nat) : Xl :=
  if !pteAllows pte acc then .fault ⟨va, ctx, agent, 1, acc.code, level, pte⟩
  else
    let pa := ptePFN pte * 2 ^ 18 + (va - base)
    if leafHas pte pa then .ok pa pte eaddr base size else .hole pa

/-- Level of a page size. -/
def sizeLevel (size : Nat) : Nat := if size = 2 ^ 32 then 1 else if size = 2 ^ 25 then 2 else 3

/-- The agent word of a fault record: a street's STREETID or an engine (R317). -/
def faultAgent (s : State) (agent : Nat) : Nat := if agent < 1536 then s.st.sid.toNat else agentWord agent

/-- Translate by the tables as they stand (R314 to R317). -/
def walkNow (s : State) (agent : Nat) (ctx : CtxDesc) (va : Nat) (acc : Acc) : Xl :=
  match walkTable s.mem (va % 2 ^ 57) ptLevels ctx.ptroot with
  | .leaf pte ea base size level => useLeaf ctx.ctxid (faultAgent s agent) (va % 2 ^ 57) acc pte ea base size level
  | .bad kind level pte => .fault ⟨va, ctx.ctxid, faultAgent s agent, kind, acc.code, level, pte⟩
  | .hole pa => .hole pa

/-- The TLB entry an agent holds for an address (R318). -/
def State.tlb? (s : State) (agent ctx va : Nat) : Option TlbEntry :=
  s.tlbs.find? fun e => e.agent == agent && e.ctx == ctx && decide (e.base ≤ va) && decide (va < e.base + e.size)

/-- Put the full virtual address back into a fault. -/
def Xl.withVa (va : Nat) : Xl → Xl
  | .fault f => .fault { f with va := va }
  | x => x

/-- Translate for an agent (R317, R318): a non-canonical address faults first; an entry the agent has used may still be
used, a free choice where it differs from the tables. -/
def translate (s : State) (agent : Nat) (ctx : CtxDesc) (va : Nat) (acc : Acc) : Xl :=
  if !canonical va then .fault ⟨va, ctx.ctxid, faultAgent s agent, 3, acc.code, 0, 0⟩
  else
    let now := walkNow s agent ctx va acc
    match s.tlb? agent ctx.ctxid (va % 2 ^ 57) with
    | none => now.withVa va
    | some e =>
      let old := useLeaf ctx.ctxid (faultAgent s agent) (va % 2 ^ 57) acc e.pte e.eaddr e.base e.size (sizeLevel e.size)
      if old = now then now.withVa va
      else if Config.freeBit s.freeTick (va / 2 ^ 18) then old.withVa va else now.withVa va

/-- Physical address of the counter record of a leaf, when it is counted (R319). -/
def counterAddr (ctx : CtxDesc) (eaddr : Nat) : Option Nat :=
  if decide (ctx.ptpool ≤ eaddr) && decide (eaddr < ctx.ptpool + ctx.ptpoollen) then
    some (ctx.ctrbase + 2 * (eaddr - ctx.ptpool))
  else none

/-- Add the deltas of a TLB entry to its counter record (R320). -/
def State.flushEntry (s : State) (ctx : CtxDesc) (e : TlbEntry) : State :=
  match counterAddr ctx e.eaddr with
  | none => s
  | some ca =>
    if !hbmHas ca then s
    else s.poke ca (leBytes 4 (satAdd 32 (s.mem.nat ca 4) e.reads) ++ leBytes 4 (satAdd 32 (s.mem.nat (ca + 4) 4) e.writes)
      ++ leBytes 4 (satAdd 32 (s.mem.nat (ca + 8) 4) e.remote))

/-- A TLB entry without deltas. -/
def TlbEntry.flushed (e : TlbEntry) : TlbEntry := { e with reads := 0, writes := 0, remote := 0 }

/-- Whether some delta of a TLB entry has reached 4,096 (R320). -/
def TlbEntry.due (e : TlbEntry) : Bool := decide (4096 ≤ e.reads) || decide (4096 ≤ e.writes) || decide (4096 ≤ e.remote)

/-- Count an access in the deltas of a TLB entry (R320). -/
def TlbEntry.count (e : TlbEntry) (acc : Acc) (far : Bool) : TlbEntry :=
  let rd := match acc with | .read | .atomic | .fetch => 1 | .write => 0
  let wr := match acc with | .write | .atomic => 1 | _ => 0
  { e with reads := e.reads + rd, writes := e.writes + wr, remote := e.remote + b2n far }

/-- A physical address of this device that the hardware uses for a virtual one of a context, when it translates (log entry 7); what
stands on a page of another device is not here (R378). -/
def virtPa? (s : State) (ctx : CtxDesc) (va : Nat) : Option Nat :=
  match walkNow s 0 ctx va .read with
  | .ok pa pte _ _ _ => if pteRH pte then none else some pa
  | _ => none

/-- Whether a physical address lies in the frame stack or the hold table of a street of another context, whose page a context maps as
well (R145, R220): pages are 256 KiB and wider (R314). -/
def State.strange (s : State) (ctx pa : Nat) : Bool :=
  s.allStreets.any fun t =>
    match (s.block? t.block).filter fun b => b.ctx.ctxid != ctx with
    | none => false
    | some b => t.fstk != 0 && (List.range 130).any fun i =>
        let page := ((t.fstk.toNat + 2 ^ 64 - 32768) % 2 ^ 64 / 2 ^ 18 + i) * 2 ^ 18 % 2 ^ 64
        virtPa? s b.ctx page == some (pa / 2 ^ 18 * 2 ^ 18) && t.inFrames (page + pa % 2 ^ 18)

/-- Whether an address of a context, translated to a physical one, lies in the frame stack or the hold table of a street other than the
one that accesses it, where a street does, and other than that one's twin: unspecified values pass there, in either direction (R145,
R220, log entry 10). -/
def State.privateTo (s : State) (sid : Option StreetId) (ctx va pa : Nat) : Bool :=
  (s.allStreets.any fun t => t.inFrames va && ((s.block? t.block).any fun b => b.ctx.ctxid == ctx)
    && !(sid.any fun q => q == t.sid || t.pair.any fun p => p.twin == q)) || s.strange ctx pa

/-- Unspecified bytes, which nothing constrains (log entry 10). -/
def State.freeBytes (s : State) (va n : Nat) : List Byte :=
  (List.range n).map fun i => (Config.freeWord s.freeTick (2 ^ 64 + va + i)).extractLsb' 0 8

/-- Bytes that pass between an address of a context and an agent that is no street, or the street named (R145). -/
def State.passing (s : State) (sid : Option StreetId) (ctx va pa : Nat) (bs : List Byte) : List Byte :=
  if s.privateTo sid ctx va pa then s.freeBytes va bs.length else bs

/-- A word of a table that the hardware reads for itself at a translated place; on a page of another device what stands there is a free
value (R378, log entry 24). -/
def State.tableNat (s : State) (pa pte n : Nat) : Nat :=
  if pteRH pte then Config.freeNat s.freeTick pa % 2 ^ (8 * n) else s.mem.nat pa n

/-- The same at a virtual address of a context, when it translates (log entry 7). -/
def State.virtNat? (s : State) (ctx : CtxDesc) (va n : Nat) : Option Nat :=
  match walkNow s 0 ctx va .read with
  | .ok pa pte _ _ _ => some (s.tableNat pa pte n)
  | _ => none

/-- The words of the scale-base entry that a leaf names (R83, log entry 7). -/
def State.scaleWords (s : State) (ctx : CtxDesc) (pte : Nat) : Option (Nat × Nat) :=
  let at_ := ctx.scalebase + 16 * pteSIDX pte
  match s.virtNat? ctx at_ 8, s.virtNat? ctx (at_ + 8) 8 with
  | some a, some b => some (a, b)
  | _, _ => none

end Sys2Proof.Machine
end

