-- ==== Sys2Proof/Machine/Report.lean ====
section
/-! DEFINITION. What leaves the part as records: weigh counts (R355 to R357), asynchronous error records (R302, R354), die
queues (R346), machine-check records (R365), trace packets (R373, R374). -/

namespace Sys2Proof.Machine

/-- Add to a weigh area's counter, saturating and marking the mask (R357). -/
def WeighArea.add (a : WeighArea) (idx n : Nat) : WeighArea :=
  let v := nth a.counters idx + n
  if 2 ^ 64 ≤ v then { a with counters := a.counters.set idx (2 ^ 64 - 1), mask := a.mask ||| 2 ^ idx }
  else { a with counters := a.counters.set idx v }

/-- Add to the weigh area of a context, when it has one. -/
def State.weighArea (s : State) (ctx idx n : Nat) : State :=
  { s with ctxs := s.ctxs.map fun a => if a.ctx = ctx then a.add idx n else a }

/-- Add to an agent's outstanding delta (R357). -/
def putDelta (agent ctx idx n : Nat) : List WDelta → List WDelta
  | [] => [{ agent := agent, ctx := ctx, idx := idx, n := n }]
  | d :: ds => if d.agent = agent ∧ d.ctx = ctx ∧ d.idx = idx then { d with n := d.n + n } :: ds
               else d :: putDelta agent ctx idx n ds

/-- Move the deltas that a test picks into the weigh areas (R357). -/
def State.flushDeltas (s : State) (p : WDelta → Bool) : State :=
  let due := s.wdeltas.filter p
  due.foldl (fun s d => s.weighArea d.ctx d.idx d.n) { s with wdeltas := s.wdeltas.filter fun d => !p d }

/-- Count work of a context done by an agent (R355 to R357). -/
def State.weigh (s : State) (agent ctx idx n : Nat) : State :=
  if n = 0 then s
  else { s with wdeltas := putDelta agent ctx idx n s.wdeltas }.flushDeltas fun d => decide (2 ^ 31 ≤ d.n)

/-- Count work of the street in focus. -/
def State.weighSt (s : State) (idx n : Nat) : State := s.weigh s.st.core s.blk.ctx.ctxid idx n

/-- The arithmetic cycles of a die since reset: those of the package but the ones in which a hot die stood still (R352). -/
def State.dieClock (s : State) (die : Nat) : Nat := s.clock - (s.die die).lost

/-- The die of a STREETID (R153). -/
def sidDie (sid : StreetId) : Nat := bits sid.toNat 13 3

/-- Raise ERRDROP of a context descriptor (R354). -/
def State.errDrop (s : State) (ctx : CtxDesc) : State :=
  if hbmHas (ctx.desc + 0x74) then s.pokeNat (ctx.desc + 0x74) 4 (satAdd 32 (s.mem.nat (ctx.desc + 0x74) 4) 1) else s

/-- Deliver an asynchronous error record to a context's error queue; a record that finds no room, or no queue mapped, is
dropped and counted (R302, R354, log entry 7). -/
def State.asyncErr (s : State) (ctx : CtxDesc) (code reason : Nat) (sid : StreetId) (addr : Nat) : State :=
  match virtPa? s ctx ctx.errq with
  | none => s.errDrop ctx
  | some q =>
    let head := s.mem.nat q 8
    let tail := s.mem.nat (q + 8) 8
    if 2 ^ ctx.errlog2 ≤ (tail + 2 ^ 64 - head) % 2 ^ 64 then s.errDrop ctx
    else
      match virtPa? s ctx (ctx.errq + 32 + 32 * (tail % 2 ^ ctx.errlog2)) with
      | none => s.errDrop ctx
      | some a =>
        let r := leBytes 4 code ++ leBytes 4 reason ++ leBytes 4 sid.toNat ++ leBytes 4 0 ++ leBytes 8 addr
          ++ leBytes 8 (s.dieClock (sidDie sid))
        (s.poke a r).pokeNat (q + 8) 8 ((tail + 1) % 2 ^ 64)

/-- Whether a ring is full (R346). -/
def Ring.full (r : Ring) : Bool := decide (2 ^ r.log2 ≤ (r.tail + 2 ^ 64 - r.head) % 2 ^ 64)

/-- Write a record into a ring that has room (R346). -/
def State.ringWrite (s : State) (r : Ring) (bytes : List Byte) : State × Ring :=
  (s.poke (r.base + bytes.length * (r.tail % 2 ^ r.log2)) bytes, { r with tail := (r.tail + 1) % 2 ^ 64 })

/-- Deliver a fault or stop record, which waits when the queue is full (R346). -/
def State.ringPush (s : State) (r : Ring) (bytes : List Byte) : State × Ring :=
  if r.full || !r.waiting.isEmpty then (s, { r with waiting := r.waiting ++ [bytes] }) else s.ringWrite r bytes

/-- Write the waiting records a ring has room for (R346). -/
def State.ringDrain (s : State) (r : Ring) : List (List Byte) → State × Ring
  | [] => (s, { r with waiting := [] })
  | b :: bs =>
    if r.full then (s, { r with waiting := b :: bs })
    else
      let (s, r) := s.ringWrite r b
      s.ringDrain r bs

/-- Bytes of a fault record (R317). -/
def XFault.bytes (f : XFault) : List Byte :=
  leBytes 8 f.va ++ leBytes 4 f.ctx ++ leBytes 4 f.agent ++ leBytes 1 f.kind ++ leBytes 1 f.access ++ leBytes 1 f.level
    ++ leBytes 5 0 ++ leBytes 8 f.pte

/-- Post a fault record to a die's fault queue (R317, R346). -/
def State.faultRecord (s : State) (die : Nat) (f : XFault) : State :=
  let (s, r) := s.ringPush (s.die die).faults f.bytes
  s.onDie die fun d => { d with faults := r }

/-- Post a stop record to a die's stop queue (R346, R370). -/
def State.stopRecord (s : State) (die pid tid : Nat) (sid : StreetId) (cause tlevel : Nat) (pc mask : Addr)
    (code faddr : Nat) : State :=
  let rec_ := leBytes 4 pid ++ leBytes 4 tid ++ leBytes 4 sid.toNat ++ leBytes 1 cause ++ leBytes 1 tlevel ++ leBytes 2 0
    ++ leBytes 8 pc.toNat ++ leBytes 8 mask.toNat ++ leBytes 4 code ++ leBytes 4 0 ++ leBytes 8 faddr
    ++ leBytes 8 (s.dieClock die) ++ leBytes 8 0
  let (s, r) := s.ringPush (s.die die).stops rec_
  s.onDie die fun d => { d with stops := r }

/-- Post a machine-check record, dropped and counted when the queue is full (R346, R365). -/
def State.machineCheck (s : State) (die kind ctx pa sid twin : Nat) : State :=
  let rec_ := leBytes 4 kind ++ leBytes 4 ctx ++ leBytes 8 pa ++ leBytes 4 sid ++ leBytes 4 twin ++ leBytes 8 (s.dieClock die)
    ++ leBytes 32 0
  let d := s.die die
  if d.mchecks.full then s.onDie die fun d => { d with mchecks := { d.mchecks with drop := satAdd 32 d.mchecks.drop 1 } }
  else
    let (s, r) := s.ringWrite d.mchecks rec_
    s.onDie die fun d => { d with mchecks := r }

/-- Put bytes into the trace ring from WRPTR (R373). -/
def ringBytes (buf : Memory) (at_ : Nat) : List Byte → Memory
  | [] => buf
  | b :: bs => ringBytes (buf.write (at_ % 16384) b) (at_ + 1) bs

/-- Free bytes of the trace ring (R373). -/
def Trace.room (t : Trace) : Nat := (t.rdptr + 2 * 16384 - t.wrptr - 1) % 16384

/-- Put one packet that fits. -/
def Trace.put (t : Trace) (p : List Byte) : Trace :=
  { t with buf := ringBytes t.buf t.wrptr p, wrptr := (t.wrptr + p.length) % 16384 }

/-- The resident streets of a core in ascending slot order. -/
def State.resident (s : State) (core : Nat) : List Street :=
  (List.range 16).filterMap fun sl => s.allStreets.find? fun t =>
    t.core == core && t.slot == sl && (t.life == .running || t.life == .debugStop || t.life == .halted || t.life == .contained)
      && (s.block? t.block).any fun b => b.life == .placed

/-- The entry a street would select without ageing: the deepest runnable entry, then the lowest PC (R58 rule 3); of two equal
in both, the lower entry (DESIGN CHOICE, log entry 51). -/
def bestEntry : List (Fin 8 × PathEntry) → Option (Fin 8 × PathEntry)
  | [] => none
  | e :: es =>
    match bestEntry es with
    | none => some e
    | some f => if f.2.depth > e.2.depth ∨ (f.2.depth = e.2.depth ∧ f.2.pc.toNat < e.2.pc.toNat) then some f else some e

/-- The entry with the greatest AGE, then the deepest, then the lowest PC (R58 rule 2); of two equal in all three, the lower entry
(DESIGN CHOICE, log entry 51). -/
def oldestEntry : List (Fin 8 × PathEntry) → Option (Fin 8 × PathEntry)
  | [] => none
  | e :: es =>
    match oldestEntry es with
    | none => some e
    | some f =>
      if f.2.age > e.2.age ∨ (f.2.age = e.2.age ∧ (f.2.depth > e.2.depth ∨
        (f.2.depth = e.2.depth ∧ f.2.pc.toNat < e.2.pc.toNat))) then some f else some e

/-- The entries a street may select: runnable and not held (R58, R64). -/
def Street.runnable (t : Street) : List (Fin 8 × PathEntry) :=
  t.entries.filter fun e => e.2.reason == .branch && !t.isHeld e.1

/-- R58: the entry selected among some runnable ones, and whether rule 2 chose it. -/
def Street.selectFrom (t : Street) (all : List (Fin 8 × PathEntry)) : Option (Fin 8 × Bool) :=
  let all : List (Fin 8 × PathEntry) := match t.passOver with
    | none => all
    | some p => let r := all.filter fun e => e.1 != p; if r.isEmpty then all else r
  match all.find? fun e => decide (0 < e.2.grant) with
  | some e => some (e.1, false)
  | none =>
    match oldestEntry (all.filter fun e => decide (256 ≤ e.2.age)) with
    | some e => some (e.1, true)
    | none => (bestEntry all).map fun e => (e.1, false)

/-- R58 over every runnable entry. -/
def Street.select (t : Street) : Option (Fin 8 × Bool) := t.selectFrom t.runnable

/-- A SYNC packet of a core (R374). -/
def syncPacket (s : State) (core : Nat) : List Byte :=
  let rs := s.resident core
  let mask := rs.foldl (fun m t => m + 2 ^ t.slot) 0
  leBytes 1 0x10 ++ leBytes 6 (s.dieClock (coreDie core) % 2 ^ 48) ++ leBytes 2 mask
    ++ (rs.map fun t => leBytes 8 (match t.select with | some (i, _) => (t.paths.get i).pc.toNat | none => 0)).flatten

/-- The LOSS packet that comes before anything else after a loss (R373); none where nothing is lost. -/
def Trace.lossPacket (t : Trace) : List Byte := if t.lost = 0 then [] else leBytes 1 0x80 ++ leBytes 2 t.lost

/-- A packet meets a backed-up buffer: it is dropped and counted (R373). -/
def Trace.drop (t : Trace) : Trace := { t with lost := satAdd 16 t.lost 1 }

/-- Write a SYNC, which sets the current time (R374), after a LOSS where packets were lost (R373). -/
def State.traceSyncNow (s : State) (core : Nat) : State :=
  let t := (s.core core).tr
  let p := t.lossPacket ++ syncPacket s core
  s.onCore core fun c => { c with tr := if t.room < p.length then c.tr.drop
    else { c.tr.put p with time := s.dieClock (coreDie core), lost := 0, since := 0 } }

/-- The DELTA packet that moves the current time to the clock (R374). -/
def deltaPacket (d : Nat) : List Byte :=
  if d = 0 then [] else
    let n := if d < 2 ^ 8 then 1 else if d < 2 ^ 16 then 2 else if d < 2 ^ 24 then 3 else 4
    leBytes 1 (0x20 + n) ++ leBytes n d

/-- Write one packet with its DELTA, a LOSS and a SYNC before it after a loss, and a SYNC once 256 packets, the DELTAs counted,
stand after the last; a packet that meets a backed-up buffer is dropped and counted (R373, R374). A SYNC sets the current time as well
where no DELTA holds the difference (DEDUCED, log entry 82). -/
def State.tracePacket (s : State) (core : Nat) (body : List Byte) : State :=
  let t := (s.core core).tr
  let now := s.dieClock (coreDie core)
  let resync := t.lost != 0 || decide (2 ^ 32 ≤ now - t.time)
  let pre := if resync then t.lossPacket ++ syncPacket s core else []
  let delta := deltaPacket (now - (if resync then now else t.time))
  let p := pre ++ delta ++ body
  if t.room < p.length then s.onCore core fun c => { c with tr := c.tr.drop }
  else
    let since := (if resync then 0 else t.since) + 1 + b2n (!delta.isEmpty)
    let s := s.onCore core fun c => { c with tr := { c.tr.put p with time := now, lost := 0, since := since } }
    if 256 ≤ since then s.traceSyncNow core else s

/-- Write a packet of the street in focus when tracing and its kind are on (R373). -/
def State.traceIf (s : State) (on : Trace → Bool) (body : List Byte) : State :=
  let t := (s.core s.st.core).tr
  if t.en && on t then s.tracePacket s.st.core body else s

/-- A TARGET packet of the street in focus (R374). -/
def State.traceTarget (s : State) (entry : Nat) (pc : Addr) : State :=
  s.traceIf (·.paths) (leBytes 1 (0x70 + s.st.slot) ++ leBytes 1 entry ++ leBytes 8 pc.toNat)

/-- A context descriptor in memory (R353). -/
def readCtx (m : Memory) (d : Nat) : CtxDesc :=
  let n (off k : Nat) : Nat := m.nat (d + off) k
  { desc := d, ctxid := n 0 4, flags := n 4 4, pid := n 8 4, ptroot := n 0x10 8, ptpool := n 0x18 8, ptpoollen := n 0x20 8
    ctrbase := n 0x28 8, scalebase := n 0x30 8, crtbase := n 0x38 8, crtcount := n 0x40 4, cstate := n 0x48 8
    wpool := n 0x50 8, wpoolcount := n 0x58 4, thand := n 0x60 8, errq := n 0x68 8, errlog2 := n 0x70 1
    jobdigest := m.readN (d + 0x80) 32, watch := (List.range 4).map fun i => (n (0xA0 + 16 * i) 8, n (0xA8 + 16 * i) 8)
    user := Config.userContext (n 0 4) }

/-- The context of an identity, as some block or record holds it. -/
def State.ctxDesc? (s : State) (ctx : Nat) : Option CtxDesc :=
  match s.allBlocks.find? fun b => b.ctx.ctxid == ctx with
  | some b => some b.ctx
  | none =>
    match (List.range 4).findSome? fun d => (s.die d).pool.find? fun r => r.ctx.ctxid == ctx with
    | some r => some r.ctx
    | none => (s.ctxs.find? fun a => a.ctx == ctx).map fun a => readCtx s.mem a.desc

end Sys2Proof.Machine
end

