-- ==== Sys2Proof/Machine/Store.lean ====
section
/-! DEFINITION. Performing reads and writes of physical memory: L2 presence (R322, R356), poison and soft errors (R364, R365),
barrier objects in service (R263), monitors (R186), L1 copies (R185), and the arithmetic of atomics (R199). -/

namespace Sys2Proof.Machine

/-- Whether a TLB entry maps a physical address of this device. -/
def TlbEntry.maps (e : TlbEntry) (pa : Nat) : Bool :=
  !pteRH e.pte && decide (ptePFN e.pte * 2 ^ 18 ≤ pa) && decide (pa < ptePFN e.pte * 2 ^ 18 + e.size)

/-- Whether a soft error of two or more flips stands in a place (R365). -/
def State.broken (s : State) (l : ErrLoc) : Bool := s.upsets.any fun u => u.1 == l && u.2 != 1

/-- Remove the soft errors of a place. -/
def State.mend (s : State) (l : ErrLoc) : State := { s with upsets := s.upsets.filter fun u => u.1 != l }

/-- Slice capacity in lines: 3 MiB of 128-byte lines (R1). -/
def sliceLines : Nat := 24576

/-- Whether L2 holds the line of a sector. -/
def State.inL2 (s : State) (sec : Nat) : Bool := s.l2.any fun l => l.line == sec / 4

/-- A sector is read from HBM: one found uncorrectable is marked poison with a record of KIND 2, which names no context, as the
last writer of a line that L2 does not hold is not known (R364). -/
def State.readSector (s : State) (sec : Nat) : State :=
  if s.broken (.hbm sec) then
    let s := { (s.mend (.hbm sec)) with poison := addNew s.poison sec }
    s.machineCheck (dieOfPa (sec * 32)) 2 0 (sec * 32) 0xFFFFFFFF 0
  else s

/-- Several sectors are read from HBM. -/
def State.readSectors (s : State) (secs : List Nat) : State := secs.foldl (fun s x => s.readSector x) s

/-- The stored form of a compressed unit of 512 bytes is read: where it is uncorrectable, every line of the unit that L2 does
not hold becomes poisoned, with a record of KIND 2 for the sector that was wanted (R323, R364, log entry 50). -/
def State.readUnit (s : State) (sec : Nat) : State :=
  let u := sec / 16
  if s.broken (.unit u) then
    let secs := (List.range' (u * 16) 16).filter fun x => !s.inL2 x
    let s := { (s.mend (.unit u)) with poison := secs.foldl addNew s.poison }
    s.machineCheck (dieOfPa (sec * 32)) 2 0 (sec * 32) 0xFFFFFFFF 0
  else s

/-- A line of HBM is read (counter 20) or written (21) for a context (R355, R356). -/
def State.weighHbm (s : State) (ctx idx : Nat) : State := s.weigh (agentMx 0) ctx idx 128

/-- A line is written to HBM: its unit is stored compressed where a translation in use maps it with CMP = 1 and MS = 0, and plain where
one maps it otherwise; with none in use it stays as it was (R323, log entry 50). A unit that is stored compressed anew has been read. -/
def State.packUnit (s : State) (line : Nat) : State :=
  match s.tlbs.find? fun e => e.maps (line * 128) with
  | none => s
  | some e =>
    if pteCMP e.pte && !pteMS e.pte then
      if s.packed.contains (line / 4) then s
      else ({ s with packed := addNew s.packed (line / 4) } : State).readSectors (List.range' (line / 4 * 16) 16)
    else { s with packed := s.packed.filter fun u => u != line / 4 }

/-- Write the dirty sectors of a line back to HBM: a dirty sector found uncorrectable is poisoned with a machine-check record
of KIND 1 (R322, R364), the words of HBM are new, and the line counts as HBM bytes written of its last writer (R356). -/
def State.writeBack (s : State) (l : L2Line) : State :=
  if l.dirty.isEmpty then s
  else
    let s := s.readUnit (l.line * 4)
    let s := l.dirty.foldl (fun s sec =>
      let s := s.mend (.hbm sec)
      if s.broken (.l2 sec) then
        { s with poison := addNew s.poison sec }.machineCheck (homeSlice (sec * 32) / 32) 1 l.ctx (sec * 32) 0xFFFFFFFF 0
      else s) s
    (s.packUnit l.line).weighHbm l.ctx 21

/-- A line leaves L2: written back, its monitors fire (R186, R201), and errors of its SRAM words are gone with it. -/
def State.dropLine (s : State) (l : L2Line) : State :=
  let s := s.writeBack l
  let s := (List.range 4).foldl (fun s i => s.mend (.l2 (l.line * 4 + i))) s
  { s with l2 := s.l2.filter fun x => x.line != l.line }.fireLine l.line

/-- Read a line from HBM: the miss counts 128 bytes of the context (R356). -/
def State.hbmRead (s : State) (line ctx : Nat) : State :=
  let s := (s.weighHbm ctx 20).readUnit (line * 4)
  (List.range 4).foldl (fun s i => s.readSector (line * 4 + i)) s

/-- Bring a line into L2; when its slice is full a line of free choice leaves first (R322, log entry 8). -/
def State.l2Fill (s : State) (line ctx : Nat) : State :=
  if s.l2.any fun l => l.line == line then s
  else
    let slice := homeSlice (line * 128)
    let same := s.l2.filter fun l => homeSlice (l.line * 128) == slice
    let s :=
      if sliceLines ≤ same.length then
        match same[Config.freeNat s.freeTick line % same.length]? with
        | some l => s.dropLine l
        | none => s
      else s
    let s := s.hbmRead line ctx
    { s with l2 := { line := line, dirty := [], ctx := ctx } :: s.l2 }

/-- The lines of the table entries that a walk reads (R314). -/
def walkLines (m : Memory) (va : Nat) : List (Nat × Nat × Nat) → Nat → List Nat
  | [], _ => []
  | (_, lo, w) :: rest, pa =>
    let ea := pa + 8 * bits va lo w
    if !hbmHas ea then []
    else ea / 128 :: (if pteV (m.nat ea 8) && !pteLeaf (m.nat ea 8) then walkLines m va rest (bits (m.nat ea 8) 10 42 * 1024) else [])

/-- A walk reads its entries by strong loads, at their home slices, which count what they read from HBM (R314, R322, R355). -/
def State.walkFill (s : State) (ctx : CtxDesc) (va : Nat) : State :=
  (walkLines s.mem (va % 2 ^ 57) ptLevels ctx.ptroot).foldl (fun s l => s.l2Fill l ctx.ctxid) s

/-- A translation that is a fault has been found by a walk too, and its record goes to a die (R317). -/
def State.walkFault (s : State) (die : Nat) (f : XFault) : State :=
  (match s.ctxDesc? f.ctx with | some c => s.walkFill c f.va | none => s).faultRecord die f

/-- Keep the translation an access used, with the scale entry it names, and count the access (R83, R318, R320): an entry that
gives way to it is evicted, its deltas flushed. A translation that was not kept has been found by a walk. -/
def touch (s : State) (agent : Nat) (ctx : CtxDesc) (acc : Acc) (pa pte eaddr base size : Nat) : State :=
  let same (e : TlbEntry) : Bool := e.base == base && e.size == size && e.pte == pte
  let near := s.tlbs.filter fun e => e.agent == agent && e.ctx == ctx.ctxid && decide (e.base < base + size)
    && decide (base < e.base + e.size)
  let others := s.tlbs.filter fun e => !near.contains e
  let s := if near.any same then s else s.walkFill ctx base
  let s := (near.filter fun e => !same e).foldl (fun s e => s.flushEntry ctx e) s
  let e0 : TlbEntry := match near.find? same with
    | some e => e
    | none => { agent := agent, ctx := ctx.ctxid, base := base, size := size, pte := pte, eaddr := eaddr
                scale := if pteFMT pte = 0 then none else s.scaleWords ctx pte, reads := 0, writes := 0, remote := 0 }
  let e := e0.count acc (agentDie agent != dieOfPa pa || pteRH pte)
  if e.due then { s.flushEntry ctx e with tlbs := e.flushed :: others } else { s with tlbs := e :: others }

/-- Replace the bytes an L1 copy of a sector holds where a store covers them (R185). -/
def patchSector (sec : L1Sector) (pa : Nat) (bs : List Byte) : L1Sector :=
  { sec with data := (List.range 32).map fun i =>
      let a := sec.pa * 32 + i
      if pa ≤ a ∧ a < pa + bs.length then bs.getD (a - pa) 0 else sec.data.getD i 0 }

/-- The address past every physical one under which the bytes of a block's scratchpad are kept. -/
def spadKey (block off : Nat) : Nat := 2 ^ 61 + block * 2 ^ 18 + off

/-- The 32 bytes of a sector now, of memory or, past every physical sector, of a block's scratchpad. -/
def State.sectorBytes (s : State) (sec : Nat) : List Byte :=
  if sec < 2 ^ 56 then s.mem.readN (sec * 32) 32
  else
    match s.block? ((sec - 2 ^ 56) / 8192) with
    | some b => s.spadRead b ((sec - 2 ^ 56) % 8192 * 32) 32
    | none => leBytes 32 0

/-- Sectors are about to be written, by lanes of a street or by no street: a load that nothing orders behind it may read them as they
are now (R31, R67). What the lanes of one instruction store counts as one change. -/
def State.keepPast (s : State) (by_ : Option StreetId) (lanes : Mask) (secs : List Nat) : State :=
  let fresh : List PastSector := secs.map fun x =>
    { at_ := s.clock, by_ := by_, lanes := lanes, tick := s.freeTick, ver := s.ver (x / 4), data := { pa := x, data := s.sectorBytes x } }
  let same (p q : PastSector) : Bool := q.data.pa == p.data.pa && q.tick == p.tick && q.by_ == p.by_
  s.mapCores fun c => { c with
    past := (fresh.map fun p =>
        match if by_.isSome then c.past.find? (same p) else none with
        | some q => { q with lanes := q.lanes ||| lanes }
        | none => p)
      ++ c.past.filter fun p => !secs.contains p.data.pa }

/-- Core and physical byte of a scratchpad place; the scratchpad of a saved block lies in its image, in no core (R173). -/
def State.spadPhys (s : State) (block off : Nat) : Option (Nat × Nat) :=
  match s.block? block with
  | some b => if b.life == .saved then none else some (b.core, b.spadBase + off)
  | none => none

/-- Group, data bank, bank row and word in the row of a core scratchpad byte (R177). -/
def bankOf (x : Nat) : Nat × Nat × Nat × Nat := ((x / 128) % 4, (x / 128) / 4 % 8, (x / 128) / 32, x % 128 / 8)

/-- Words that [x, x + n) meets. -/
def wordsOf (x n : Nat) : List Nat := if n = 0 then [] else List.range' (x / 8) ((x + n - 1) / 8 - x / 8 + 1)

/-- After a store: words wholly overwritten are repaired, and the parity row is stale for two cycles more (R179). -/
def State.afterSpadStore (s : State) (core x n : Nat) : State :=
  let ws := wordsOf x n
  let s := if s.upsets.isEmpty then s else
    ws.foldl (fun s w => if x ≤ w * 8 ∧ w * 8 + 8 ≤ x + n then s.mend (.spad core w) else s) s
  let rows := ws.foldl (fun r w => let b := bankOf (w * 8); if r.contains (b.1, b.2.2.1) then r else (b.1, b.2.2.1) :: r) []
  s.onCore core fun c => { c with
    stale := (rows.map fun r => (r.1, r.2, s.clock + 3)) ++ c.stale.filter fun r => !rows.contains (r.1, r.2.1) }

/-- Sectors are written whole: their poison marks are gone, and the errors of the words that hold them, of L2 or of HBM (R364). -/
def State.heal (s : State) (secs : List Nat) (ms : Bool) : State :=
  { s with
    poison := s.poison.filter fun p => !secs.contains p
    upsets := s.upsets.filter fun u => match u.1 with
      | .l2 x => !(!ms && secs.contains x)
      | .hbm x => !(ms && secs.contains x)
      | _ => true }

/-- A store of bytes of a cacheable or memory-side line, by some lanes of a street or by no street, is performed: bytes outside barrier
objects are written, the lines become dirty in L2 unless memory-side, poison and errors of sectors wholly covered are gone, and
monitors fire (R192, R263, R364). -/
def State.storeBy (s : State) (by_ : Option StreetId) (lanes : Mask) (pa : Nat) (bs : List Byte) (ctx : Nat) (ms : Bool) : State :=
  if bs.isEmpty then s
  else
    let lines := linesOf pa bs.length
    let s := s.keepPast by_ lanes (sectorsOf pa bs.length)
    let s := lines.foldl (fun s l => if ms then s.weighHbm ctx 21 else s.l2Fill l ctx) s
    let s := s.putBytes pa bs
    let secs := sectorsOf pa bs.length
    let s := s.heal (secs.filter fun x => decide (pa ≤ x * 32) && decide (x * 32 + 32 ≤ pa + bs.length)) ms
    let s : State := { s with
      l2 := if ms then s.l2 else s.l2.map fun l =>
        if lines.contains l.line then
          { l with dirty := (secs.filter fun x => x / 4 == l.line).foldl addNew l.dirty, ctx := ctx } else l }
    s.wrote pa bs.length

/-- A store that every lane of its street sees at once, or one of no street. -/
def State.store (s : State) (by_ : Option StreetId) (pa : Nat) (bs : List Byte) (ctx : Nat) (ms : Bool) : State :=
  s.storeBy by_ Mask.all pa bs ctx ms

/-- The core's L1 copy is updated by a store of that core that has been performed (R185), or invalidated under `.nc` (R192). Bytes
that the store did not change, of a barrier in service, stay as the single copy has them (R263). -/
def State.l1Store (s : State) (core pa : Nat) (bs : List Byte) (nc : Bool) : State :=
  let secs := sectorsOf pa bs.length
  let bs := s.mem.readN pa bs.length
  let fix (l1 : List L1Sector) : List L1Sector :=
    if nc then l1.filter fun x => !secs.contains x.pa else l1.map fun x => if secs.contains x.pa then patchSector x pa bs else x
  if (s.core core).l1.any fun x => secs.contains x.pa then s.onCore core fun c => { c with l1 := fix c.l1 } else s

/-- Whether a read of a range meets poison or an error that SECDED cannot correct: the lowest such sector, and whether it is
poison (R362, R364). -/
def State.badSector (s : State) (pa n : Nat) (ms : Bool) : Option (Nat × Bool) :=
  let secs := sectorsOf pa n
  match secs.find? fun x => s.poison.contains x || (ms && s.broken (.hbm x))
      || (!ms && !s.inL2 x && (s.broken (.hbm x) || s.broken (.unit (x / 16)))) with
  | some x => some (x, true)
  | none => if ms then none else (secs.find? fun x => s.broken (.l2 x)).map fun x => (x, false)

/-- The single copy of a range is read (R192, R322): a memory-side line each time from HBM (R324, R355). -/
def State.loadCopy (s : State) (pa n ctx : Nat) (ms : Bool) : List Byte × State :=
  let s := if ms then
      (sectorsOf pa n).foldl (fun s x => s.readSector x) ((linesOf pa n).foldl (fun s _ => s.weighHbm ctx 20) s)
    else (linesOf pa n).foldl (fun s l => s.l2Fill l ctx) s
  (s.mem.readN pa n, s)

/-- What a reader leaves that meets a bad sector: it is read from HBM and marked poison with a record of KIND 2, or the
uncorrectable SRAM word of L2 makes a record of KIND 3 on its slice's die (R346, R364, R365). -/
def State.meetBad (s : State) (b : Nat × Bool) (ctx sid : Nat) (ms : Bool) : State :=
  if b.2 then (s.loadCopy (b.1 * 32) 32 ctx ms).2
  else s.machineCheck (homeSlice (b.1 * 32) / 32) 3 ctx (b.1 * 32) sid 0

/-- Drop the L1 of a core, as an acquire at cluster scope or wider does (R185). -/
def State.l1Flush (s : State) (core : Nat) : State := s.onCore core fun c => { c with l1 := [] }

/-- Room for a line in an L1 of 8 ways and 64 sets: a line of free choice leaves a full set (R185, log entry 69). -/
def l1Room (tick line : Nat) (l1 : List L1Sector) : List L1Sector :=
  let set := ((l1.map (·.pa / 4)).filter fun x => x % 64 == line % 64).foldl addNew []
  if set.contains line || decide (set.length < 8) then l1
  else
    let out := nth set (Config.freeNat tick line % set.length)
    l1.filter fun x => x.pa / 4 != out

/-- Allocate sectors in an L1, making room for the line of each (R185). -/
def l1Put (tick : Nat) : List L1Sector → List L1Sector → List L1Sector
  | [], l1 => l1
  | x :: xs, l1 => l1Put tick xs (x :: (l1Room tick (x.pa / 4) l1).filter fun y => y.pa != x.pa)

/-- Whether a load of a lane may have been performed before a sector changed: in the window of an acquire that was issued by then, where
the change was no store of the street or of its twin (R31, R65); or where lanes of its own street other than it stored, and neither a
fence, an acquire nor a wait of the street has followed outside the window that it stands in (R67). -/
def Street.sawPast (t : Street) (lane : Nat) (p : PastSector) : Bool :=
  let inside := t.windows.any fun w => w.since.any fun c => decide (c ≤ p.at_)
  if p.by_ == some t.sid then !p.lanes.getLsbD lane && (inside || decide (t.heard ≤ p.at_))
  else inside && !(p.by_.any fun q => t.pair.any fun x => x.twin == q)

/-- Sectors as a load of a lane of the street in focus may have found them before they changed (R31, R67): one of a strong load only
where the lane's last strong load from the line, at the write count given, has not seen the change (R65). -/
def State.pastCopies (s : State) (core lane floor : Nat) : List L1Sector :=
  ((s.core core).past.filter fun p => s.st.sawPast lane p && decide (floor ≤ p.ver)).map (·.data)

/-- A copy of a sector among some that differs from what stands there now. -/
def State.staleIn (s : State) (cs : List L1Sector) (sec : Nat) : Option L1Sector :=
  let cur := s.sectorBytes sec
  cs.find? fun x => x.pa == sec && x.data != cur

/-- Bytes of a load of a lane as it may have found them before a change of their sectors that nothing orders it behind: a free choice
for each sector (R31, R67). -/
def State.pastBytes (s : State) (core lane floor pa : Nat) (now : List Byte) : List Byte :=
  let old := (sectorsOf pa now.length).filterMap fun sec =>
    (s.staleIn (s.pastCopies core lane floor) sec).bind fun x => if Config.freeBit s.freeTick (2 ^ 52 + sec) then some x else none
  if old.isEmpty then now
  else now.mapIdx fun i b =>
    match old.find? fun x => x.pa == (pa + i) / 32 with
    | some x => x.data.getD ((pa + i) % 32) 0
    | none => b

/-- A weak load of a core: sectors its L1 holds may be served from there, a free choice where the copy is stale; others are
read and allocated (R185, R192, R270). -/
def State.loadWeak (s : State) (core pa n ctx : Nat) : List Byte × State :=
  let (now, s) := s.loadCopy pa n ctx false
  let got := (sectorsOf pa n).map fun sec =>
    let cur := s.mem.readN (sec * 32) 32
    ({ pa := sec, data :=
      match s.staleIn (s.core core).l1 sec with
      | some x => if Config.freeBit s.freeTick sec then x.data else cur
      | none => cur } : L1Sector)
  let val := (List.range n).map fun i =>
    match got.find? fun x => x.pa == (pa + i) / 32 with
    | some x => x.data.getD ((pa + i) % 32) 0
    | none => now.getD i 0
  (val, s.onCore core fun c => { c with l1 := l1Put s.freeTick got c.l1 })

/-- The byte at a physical address after a held store over it: the bits of its mask are written (R86, R367). -/
def HeldStore.over (h : HeldStore) (pa : Nat) (now : Byte) : Byte :=
  match h with
  | .global a _ d m _ _ _ =>
    if a ≤ pa then match d[pa - a]? with | some v => (now &&& ~~~(m.getD (pa - a) 0)) ||| (v &&& m.getD (pa - a) 0) | none => now
    else now
  | _ => now

/-- The byte at a scratchpad offset of a block after a held store over it. -/
def HeldStore.spadOver (h : HeldStore) (block off : Nat) (now : Byte) : Byte :=
  match h with
  | .spad b o d _ => if b = block ∧ o ≤ off then d.getD (off - o) now else now
  | _ => now

/-- The stores the street in focus holds (R367). -/
def State.heldStores (s : State) : List HeldStore := match s.st.pair with | some p => p.stores | none => []

/-- Forward held stores to a load of global bytes (R367). -/
def State.forwardGlobal (s : State) (pa : Nat) (bs : List Byte) : List Byte :=
  let hs := s.heldStores
  if hs.isEmpty then bs else bs.mapIdx fun i b => hs.foldl (fun b h => h.over (pa + i) b) b

/-- Forward held stores to a load of scratchpad bytes. -/
def State.forwardSpad (s : State) (block off : Nat) (bs : List Byte) : List Byte :=
  let hs := s.heldStores
  if hs.isEmpty then bs else bs.mapIdx fun i b => hs.foldl (fun b h => h.spadOver block (off + i) b) b

/-- Signed value of an operand of 32 or 64 bits (R199). -/
def sgn (w : Bool) (x : Addr) : Int := if w then x.toInt else (loWord x).toInt

/-- Unsigned value of an operand. -/
def uns (w : Bool) (x : Addr) : Nat := if w then x.toNat else (loWord x).toNat

/-- Keep the operand's width. -/
def cut (w : Bool) (x : Addr) : Addr := if w then x else (0 : Word) ++ loWord x

end Sys2Proof.Machine
end

