-- ==== Sys2Proof/Machine/Colours.lean ====
section
/-! DEFINITION. The colour state of a context and the operations of its queue-lock units (R210 to R222): lookup of an
address's colour, acquisition, handover, release and poison. -/

namespace Sys2Proof.Machine

/-- A free colour. -/
def Colour.idle (ctx c : Nat) : Colour :=
  { ctx := ctx, colour := c, owner := none, poison := false, fifo := [], sleep := [] }

/-- The state of a colour. -/
def State.colour (s : State) (ctx c : Nat) : Colour :=
  (s.colours.find? fun k => k.ctx == ctx && k.colour == c).getD (Colour.idle ctx c)

/-- Put the state of a colour. -/
def putColour (k : Colour) : List Colour → List Colour
  | [] => [k]
  | d :: ds => if d.ctx = k.ctx ∧ d.colour = k.colour then k :: ds else d :: putColour k ds

/-- HEAD, TAIL, DEPTH, SLEEP, POISON, HELD, LANE and OWNER of a colour's state word (R221). -/
def Colour.word (k : Colour) : List Byte :=
  let first (ws : List Waiting) : Nat := (ws.head?.map (·.idx)).getD 0
  let o := k.owner.getD (0, 0, 0)
  let w0 := first k.sleep.reverse * 2 ^ 40 + b2n k.poison * 2 ^ 39 + b2n k.owner.isSome * 2 ^ 38 + o.2.1 * 2 ^ 32 + o.1.toNat
  leBytes 8 w0 ++ leBytes 8 (first k.fifo * 2 ^ 40 + first k.fifo.reverse * 2 ^ 16 + o.2.2 % 65536)

/-- STREET, LANE, KIND, NEXT and DEPTH of a waiter record (R222). -/
def Waiting.bytes (w : Waiting) (next : Nat) : List Byte :=
  leBytes 8 (b2n w.kind * 2 ^ 38 + w.lane * 2 ^ 32 + w.sid.toNat) ++ leBytes 8 (w.depth % 65536 * 2 ^ 24 + next)

/-- The records of a list with the index each names as NEXT: 0 from the last (R222). -/
def chained : List Waiting → List (Waiting × Nat)
  | [] => []
  | w :: ws => (w, (ws.head?.map (·.idx)).getD 0) :: chained ws

/-- Every waiter record of a colour: the FIFO's name the next toward the tail, the sleepers' the next older one (R222). -/
def Colour.records (k : Colour) : List (Waiting × Nat) := chained k.fifo ++ chained k.sleep.reverse

/-- Bytes at a virtual address of a context that hardware writes for itself, where it translates (log entry 7). -/
def State.pokeVirt (s : State) (c : CtxDesc) (va : Nat) (bs : List Byte) : State :=
  match virtPa? s c va with
  | some pa => s.poke pa bs
  | none => s

/-- A queue-lock unit writes a colour's state word back to the context's colour state array (R221, R322). -/
def State.writeColour (s : State) (ctx c : Nat) : State :=
  match s.ctxDesc? ctx with
  | some d => s.pokeVirt d (d.cstate + 16 * c) (s.colour ctx c).word
  | none => s

/-- The waiter records of a colour stand in the context's waiter pool (R222). -/
def State.writeRecords (s : State) (ctx c : Nat) : State :=
  match s.ctxDesc? ctx with
  | some d => (s.colour ctx c).records.foldl (fun s w => s.pokeVirt d (d.wpool + 16 * w.1.idx) (w.1.bytes w.2)) s
  | none => s

/-- State words that the queue-lock unit of a slice caches (R322). -/
def qlockWords : Nat := 64

/-- The queue-lock unit of a colour's home slice has its state word in its cache; a word of free choice leaves a full one and is
written back (R322, log entry 10). -/
def State.cacheColour (s : State) (ctx c : Nat) : State :=
  let slice := colourSlice ctx c
  let mine := s.qlock.filter fun k => colourSlice k.1 k.2 == slice
  if s.qlock.contains (ctx, c) then s
  else
    let s : State := { s with qlock := (ctx, c) :: s.qlock }
    if mine.length < qlockWords then s
    else
      match mine[Config.freeNat s.freeTick slice % mine.length]? with
      | some k => { s.writeColour k.1 k.2 with qlock := s.qlock.filter fun x => x != k }
      | none => s

/-- Change the state of a colour in the queue-lock unit of its home slice (R221, R222). -/
def State.onColour (s : State) (ctx c : Nat) (f : Colour → Colour) : State :=
  ({ s with colours := putColour (f (s.colour ctx c)) s.colours }.cacheColour ctx c).writeRecords ctx c

/-- The lowest waiter record not in use (R222; DESIGN CHOICE lowest, log entry 10). -/
def freeRecord (used : List Nat) : Nat → Nat → Nat
  | 0, i => i
  | fuel + 1, i => if used.contains i then freeRecord used fuel (i + 1) else i

/-- A free waiter record of a context; record 0, which nothing uses, where the pool that WPOOLCOUNT gives holds none (R222). -/
def State.newRecord (s : State) (ctx : Nat) : Nat :=
  let used := ((s.colours.filter fun k => k.ctx == ctx).map fun k => (k.fifo ++ k.sleep).map (·.idx)).flatten
  let i := freeRecord used (used.length + 1) 1
  match s.ctxDesc? ctx with
  | some d => if i < Nat.min d.wpoolcount (2 ^ 24) then i else 0
  | none => i

/-- Of a path table, the entry of a lane that waits on a colour runnable again. -/
def wakeIn (lane : Nat) (ps : Vector PathEntry 8) : Vector PathEntry 8 :=
  ps.map fun e => if e.reason != .free && e.mask.getLsbD lane then match e.wait with | .colour _ => e.reexec | _ => e else e

/-- Make the entry of a lane runnable again: its access or its CLRWAIT re-executes (R215, R217, R225), in the checkpoint of a paired
street too, to which it may be rolled back (R368). -/
def Street.wakeLane (t : Street) (lane : Nat) : Street :=
  { t with
    paths := wakeIn lane t.paths
    pair := t.pair.map fun p => { p with check := p.check.map fun c => { c with paths := wakeIn lane c.paths } } }

/-- A waiter is handed the colour: it holds it at the DEPTH of its record, and its entry becomes runnable (R217, R225). -/
def Street.granted (t : Street) (clock : Nat) (w : Waiting) (c : Nat) : Street :=
  let t : Street := { t with
    holds := t.holds ++ [{ colour := c, lane := w.lane, depth := w.depth }]
    pair := t.pair.map fun p => { p with granted := p.granted ++ [(w.lane, c)] } }
  let t : Street := if w.kind then { t with clrw := t.clrw ++ [(w.lane, false)] } else t
  (t.wakeLane w.lane).forget clock

/-- Change a street and, in a paired block, its twin, whose path table and holds follow the primary's (R368). -/
def State.onPair (s : State) (sid : StreetId) (f : Street → Street) : State :=
  match (s.street? sid).bind (·.pair) with
  | none => s.onStreet sid f
  | some p => (s.onStreet sid f).onStreet p.twin f

/-- The L1 of a street's core is emptied, and of its twin's: a colour is acquired there (R185, R219). -/
def State.flushPair (s : State) (sid : StreetId) : State :=
  match s.street? sid with
  | none => s
  | some t =>
    let s := s.l1Flush t.core
    match t.pair.bind fun p => s.street? p.twin with
    | some u => s.l1Flush u.core
    | none => s

/-- A record of the hold table (R220). -/
def Hold.bytes (h : Hold) : List Byte := leBytes 8 (h.depth % 65536 * 2 ^ 18 + h.lane * 2 ^ 12 + h.colour)

/-- Where a street's hold table begins, below its frame stack (R220). -/
def Street.holdBase (t : Street) : Nat := (t.fstk - 32768).toNat

/-- The fault that a street meets in its hold table when it writes the count and n records (R145, R220): the table's words lie on two
pages at most. -/
def State.holdFault? (s : State) (t : Street) (n : Nat) : Option XFault :=
  if t.fstk == 0 then none
  else
    (s.block? t.block).bind fun b => [0, n].findSome? fun i =>
      match walkNow s t.core b.ctx ((t.holdBase + 8 * i) % 2 ^ 64) .write with
      | .fault f => some { f with agent := t.sid.toNat }
      | _ => none

/-- A street's hold table stands below its frame stack (R220): the count of its records, then the records. An FSTK of 0 names no
place for it (log entry 10). A page that does not translate is a serviced fault of a running street, after which the table is written
(R145, R161). -/
def State.writeHolds (s : State) (sid : StreetId) : State :=
  match s.street? sid with
  | none => s
  | some t =>
    if t.fstk == 0 then s
    else
      match s.block? t.block, if t.life == .running then s.holdFault? t t.holds.length else none with
      | none, _ => s
      | some _, some f =>
        if t.svc.isSome then s
        else (s.onStreet sid fun t => { t with svc := some f, stall := some .mem }).walkFault (coreDie t.core) f
      | some b, none =>
        (t.holds.zipIdx).foldl (fun s h => s.pokeVirt b.ctx (t.holdBase + 8 + 8 * h.2) h.1.bytes)
          (s.pokeVirt b.ctx t.holdBase (leBytes 8 t.holds.length))

/-- Hand a colour without owner to the head of its FIFO, which thereby acquires it (R217, R219, R226). -/
def State.handOver (s : State) (ctx c : Nat) : State :=
  let k := s.colour ctx c
  match k.owner, k.fifo with
  | none, w :: rest =>
    (((s.onColour ctx c fun k => { k with owner := some (w.sid, w.lane, w.depth), fifo := rest }).onPair w.sid
      fun t => t.granted s.clock w c).writeHolds w.sid).flushPair w.sid
  | _, _ => s

/-- Set POISON: the FIFO's lanes and the sleepers are woken and leave their lists (R218). -/
def State.poisonColour (s : State) (ctx c : Nat) : State :=
  let k := s.colour ctx c
  let s := s.onColour ctx c fun k => { k with owner := none, poison := true, fifo := [], sleep := [] }
  let s := k.fifo.foldl (fun s w => s.onPair w.sid fun t =>
    Street.wakeLane (if w.kind then { t with clrw := t.clrw ++ [(w.lane, true)] } else t) w.lane) s
  k.sleep.foldl (fun s w => s.onPair w.sid fun t =>
    Street.wakeLane { t with clrw := t.clrw ++ [(w.lane, true)] } w.lane) s

/-- Release one colour of a lane (R217, R218). A twin that is not the primary owns no colour: only its record goes (R368). -/
def State.releaseOne (s : State) (sid : StreetId) (ctx lane c : Nat) (poison : Bool) : State :=
  let s := (s.onStreet sid fun t => { t with holds := t.holds.filter fun h => !(h.colour == c && h.lane == lane) }).writeHolds sid
  if ((s.street? sid).bind (·.pair)).any (fun p => !p.primary) then s
  else if poison then s.poisonColour ctx c
  else (s.onColour ctx c fun k => { k with owner := none }).handOver ctx c

/-- Insert by colour. -/
def insertHold (h : Hold) : List Hold → List Hold
  | [] => [h]
  | g :: gs => if h.colour ≤ g.colour then h :: g :: gs else g :: insertHold h gs

/-- Holds in ascending colour order. -/
def sortHolds (hs : List Hold) : List Hold := hs.foldr insertHold []

/-- Release the holds a test picks, in ascending colour order (R217). -/
def State.releaseHolds (s : State) (sid : StreetId) (ctx : Nat) (hs : List Hold) (poison : Bool) : State :=
  (sortHolds hs).foldl (fun s h => s.releaseOne sid ctx h.lane h.colour poison) s

/-- Lanes of a street leave every FIFO and sleep list they joined, and their waiter records are freed (R159, R363). -/
def State.leaveLists (s : State) (sid : StreetId) (m : Mask) : State :=
  let mine (w : Waiting) : Bool := w.sid == sid && m.getLsbD w.lane
  (s.colours.filter fun k => (k.fifo ++ k.sleep).any mine).foldl (fun s k =>
    s.onColour k.ctx k.colour fun k => { k with fifo := k.fifo.filter (!mine ·), sleep := k.sleep.filter (!mine ·) }) s

/-- The colour region table entry at an index: base, length, colour, and the raw words (R210). -/
def crtWords (s : State) (pa pte : Nat) : Nat × Nat := (s.tableNat pa pte 8, s.tableNat (pa + 8) pte 8)

/-- BASE, BYTES and COLOUR of an entry (R210). -/
def crtEntry (w : Nat × Nat) : Nat × Nat × Nat := (bits w.1 7 50 * 128, bits w.2 7 41 * 128, bits w.2 48 12)

/-- What looking for an address's colour finds. -/
inductive Looked where
  | colour (entry : Option RegionEntry)
  | fault (f : XFault)
  | hole (pa : Nat)
deriving DecidableEq, Repr

/-- Binary search of the region table over [lo, hi) (R212). -/
def crtSearch (s : State) (core : Nat) (ctx : CtxDesc) (va : Nat) : Nat → Nat → Nat → Looked
  | 0, _, _ => .colour none
  | fuel + 1, lo, hi =>
    if hi ≤ lo then .colour none
    else
      let mid := (lo + hi) / 2
      match translate s core ctx (ctx.crtbase + 16 * mid) .read with
      | .fault f => .fault f
      | .hole pa => .hole pa
      | .ok pa pte _ _ _ =>
        let (base, len, c) := crtEntry (crtWords s pa pte)
        if va < base then crtSearch s core ctx va fuel lo mid
        else if base + len ≤ va then crtSearch s core ctx va fuel (mid + 1) hi
        else .colour (some { ctx := ctx.ctxid, base := base, len := len, colour := c })

/-- The region entry of an address, through the core's lookaside: an entry there may still be used where the table has
changed, a free choice (R212, R223). -/
def lookColour (s : State) (core : Nat) (ctx : CtxDesc) (va : Nat) : Looked :=
  if ctx.crtcount = 0 && (s.core core).lookaside.isEmpty then .colour none
  else
    let a := va % 2 ^ 57
    let cached := (s.core core).lookaside.find? fun e => e.ctx == ctx.ctxid && decide (e.base ≤ a) && decide (a < e.base + e.len)
    match crtSearch s core ctx a 18 0 ctx.crtcount with
    | .colour now =>
      match cached with
      | none => .colour now
      | some e => if now = some e then .colour now else if Config.freeBit s.freeTick (a / 128) then .colour (some e) else .colour now
    | bad =>
      match cached with
      | some e => .colour (some e)
      | none => bad

/-- Keep a region entry in a core's lookaside of 64 entries (R212). -/
def State.keepRegion (s : State) (core : Nat) (e : RegionEntry) : State :=
  s.onCore core fun c => { c with lookaside := (e :: c.lookaside.filter fun x => x != e).take 64 }

/-- Whether a lane of a street holds a colour. -/
def Street.holdsColour (t : Street) (lane c : Nat) : Bool := t.holds.any fun h => h.colour == c && h.lane == lane

/-- The highest colour a lane holds. -/
def Street.highest (t : Street) (lane : Nat) : Nat :=
  t.holds.foldl (fun m h => if h.lane = lane then Nat.max m h.colour else m) 0

/-- The lane of the street in focus is already in the FIFO of a colour. -/
def inFifo (s : State) (ctx lane c : Nat) : Bool :=
  (s.colour ctx c).fifo.any fun w => w.sid == s.st.sid && w.lane == lane

/-- R216: the lane would acquire a busy colour out of order; one that stands in its FIFO parks there again (R215). -/
def orderBad (s : State) (ctx lane c : Nat) : Bool :=
  c != 0 && !s.st.holdsColour lane c && !inFifo s ctx lane c && (s.colour ctx c).owner.isSome && decide (c < s.st.highest lane)

/-- R218: the lane would acquire a poisoned colour. -/
def poisonBad (s : State) (ctx lane c : Nat) : Bool := c != 0 && !s.st.holdsColour lane c && (s.colour ctx c).poison

/-- Whether a lane acquires or re-enters a colour now; if not, it parks. -/
def canTake (s : State) (ctx lane c : Nat) : Bool :=
  c == 0 || s.st.holdsColour lane c || (s.colour ctx c).owner.isNone

/-- The lane acquires a free colour at a DEPTH (R214, R219). -/
def takeColour (s : State) (ctx lane c depth : Nat) : State :=
  if c == 0 || s.st.holdsColour lane c then s
  else
    let s := s.onColour ctx c fun k => { k with owner := some (s.st.sid, lane, depth) }
    { s with st := { s.st with holds := s.st.holds ++ [{ colour := c, lane := lane, depth := depth }] } }

/-- The lane joins the FIFO of a colour at its tail, unless it stands there already (R214, R215). -/
def joinFifo (s : State) (ctx lane c depth : Nat) (kind : Bool) : State :=
  if inFifo s ctx lane c then s
  else
    let idx := s.newRecord ctx
    s.onColour ctx c fun k => { k with
      fifo := k.fifo ++ [{ idx := idx, sid := s.st.sid, lane := lane, depth := depth, kind := kind }] }

/-- Acquire for lanes in ascending order: the lanes that proceed, those that park, and the new state (R214). -/
def acquireLanes (ctx depth : Nat) : List (Nat × Nat) → State → List Nat × List Nat × State
  | [], s => ([], [], s)
  | (lane, c) :: rest, s =>
    if canTake s ctx lane c then
      let (go, park, s) := acquireLanes ctx depth rest (takeColour s ctx lane c depth)
      (lane :: go, park, s)
    else
      let (go, park, s) := acquireLanes ctx depth rest (joinFifo s ctx lane c depth false)
      (go, lane :: park, s)

end Sys2Proof.Machine
end

