-- ==== Sys2Proof/Machine/Sha.lean ====
section
/-! DEFINITION. SHA-256 (PRESUMED FIPS 180-4, log entry 30), which R349, R359 and R361 name. Words are 32-bit. -/

namespace Sys2Proof.Machine

/-- The largest r below 2^bits with r^k at most n, a bit at a time from the top. -/
def rootFloor (k n : Nat) : Nat → Nat → Nat
  | 0, r => r
  | bit + 1, r => rootFloor k n bit (if (r + 2 ^ bit) ^ k ≤ n then r + 2 ^ bit else r)

/-- The 64 primes below 312. -/
def shaPrimes : List Nat := (List.range 312).filter fun n => 2 ≤ n && (List.range n).all fun d => d < 2 || n % d != 0

/-- The first 32 bits of the fraction of the k-th root of p. -/
def rootFraction (k p : Nat) : Word := BitVec.ofNat 32 (rootFloor k (p * 2 ^ (32 * k)) 40 0)

/-- The round constants: fractions of the cube roots of the first 64 primes. -/
def shaK : List Word := shaPrimes.map (rootFraction 3)

/-- The eight working words. -/
structure Sha where
  a : Word
  b : Word
  c : Word
  d : Word
  e : Word
  f : Word
  g : Word
  h : Word
deriving DecidableEq, Repr

/-- A fraction of the square root of the n-th of the first primes. -/
def shaRoot (n : Nat) : Word := rootFraction 2 (shaPrimes.getD n 0)

/-- The initial hash value: fractions of the square roots of the first eight primes. -/
def Sha.init : Sha :=
  { a := shaRoot 0, b := shaRoot 1, c := shaRoot 2, d := shaRoot 3, e := shaRoot 4, f := shaRoot 5, g := shaRoot 6, h := shaRoot 7 }

/-- Rotate right. -/
def rotr (x : Word) (n : Nat) : Word := x.rotateRight n

/-- One round. -/
def Sha.round (s : Sha) (k w : Word) : Sha :=
  let t1 := s.h + (rotr s.e 6 ^^^ rotr s.e 11 ^^^ rotr s.e 25) + ((s.e &&& s.f) ^^^ (~~~s.e &&& s.g)) + k + w
  let t2 := (rotr s.a 2 ^^^ rotr s.a 13 ^^^ rotr s.a 22) + ((s.a &&& s.b) ^^^ (s.a &&& s.c) ^^^ (s.b &&& s.c))
  { a := t1 + t2, b := s.a, c := s.b, d := s.c, e := s.d + t1, f := s.e, g := s.f, h := s.g }

/-- The next word of the message schedule from the last sixteen, newest first. -/
def shaNext (ws : List Word) : Word :=
  let w (i : Nat) : Word := ws.getD (i - 1) 0
  let s0 := rotr (w 15) 7 ^^^ rotr (w 15) 18 ^^^ (w 15 >>> 3)
  let s1 := rotr (w 2) 17 ^^^ rotr (w 2) 19 ^^^ (w 2 >>> 10)
  s1 + w 7 + s0 + w 16

/-- Rounds over the constants; the words come newest first after the first sixteen. -/
def shaRounds : List Word → List Word → List Word → Sha → Sha
  | [], _, _, s => s
  | k :: ks, w :: ws, seen, s => shaRounds ks ws (w :: seen) (s.round k w)
  | k :: ks, [], seen, s => let w := shaNext seen; shaRounds ks [] (w :: seen) (s.round k w)

/-- One block of sixteen words. -/
def Sha.block (s : Sha) (ws : List Word) : Sha :=
  let t := shaRounds shaK ws [] s
  { a := s.a + t.a, b := s.b + t.b, c := s.c + t.c, d := s.d + t.d, e := s.e + t.e, f := s.f + t.f, g := s.g + t.g
    h := s.h + t.h }

/-- Bytes as big-endian words. -/
def beWords : List Byte → List Word
  | a :: b :: c :: d :: rest => (a ++ b ++ c ++ d) :: beWords rest
  | _ => []

/-- A word as big-endian bytes. -/
def beBytes (w : Word) : List Byte := [w.extractLsb' 24 8, w.extractLsb' 16 8, w.extractLsb' 8 8, w.extractLsb' 0 8]

/-- The padding of a message of n bytes. -/
def shaPad (n : Nat) : List Byte :=
  0x80 :: List.replicate ((119 - n % 64) % 64) 0 ++ beBytes (BitVec.ofNat 32 (8 * n / 2 ^ 32)) ++ beBytes (BitVec.ofNat 32 (8 * n))

/-- Fold blocks of sixteen words; `fuel` blocks. -/
def shaBlocks : Nat → List Word → Sha → Sha
  | 0, _, s => s
  | n + 1, ws, s => shaBlocks n (ws.drop 16) (s.block (ws.take 16))

/-- The digest of a message: 32 bytes. -/
def sha256 (m : List Byte) : List Byte :=
  let ws := beWords (m ++ shaPad m.length)
  let s := shaBlocks (ws.length / 16) ws Sha.init
  ([s.a, s.b, s.c, s.d, s.e, s.f, s.g, s.h].map beBytes).flatten

end Sys2Proof.Machine
end

