-- ==== Sys2Proof/Machine/Jobs.lean ====
section
/-! DEFINITION. Jobs and their membership tables (R380 to R383): slots, ranks, members that have failed or are held, and the
attestation of a membership (R360, R361). -/

namespace Sys2Proof.Machine

/-- The physical address of a job slot's table, when it is live (R380). -/
def State.jobTable (s : State) (slot : Nat) : Option Nat :=
  let e := nth s.pkg.jtab slot
  if bit e 63 then some (bits e 6 46 * 64) else none

/-- COUNT of a table. -/
def State.tabCount (s : State) (base : Nat) : Nat := Nat.min (s.mem.nat (base + 0x30) 4) 2048
/-- FTO and PTO of a table in nanoseconds. -/
def State.tabFto (s : State) (base : Nat) : Nat := 1000 * s.mem.nat (base + 0x34) 4
@[inherit_doc State.tabFto] def State.tabPto (s : State) (base : Nat) : Nat := 1000 * s.mem.nat (base + 0x38) 4

/-- DEVID and STATE of an entry. -/
def State.tabDev (s : State) (base e : Nat) : Nat := s.mem.nat (base + 0x40 + 32 * e + 16) 2
@[inherit_doc State.tabDev] def State.tabState (s : State) (base e : Nat) : Nat := s.mem.nat (base + 0x40 + 32 * e + 18) 1

/-- The members that have not failed, in table order: their ranks count up from 0 (R380, R383; a held one stays a member). -/
def State.members (s : State) (base : Nat) : List Nat :=
  ((List.range (s.tabCount base)).filter fun e => s.tabState base e != 1).map (s.tabDev base)

/-- N of a job's table (R380). -/
def State.jobN (s : State) (base : Nat) : Nat := (s.members base).length

/-- Rank of this device among the members. -/
def State.ownRank (s : State) (base : Nat) : Option Nat := (s.members base).findIdx? fun d => d == s.pkg.fabid

/-- The entry of a device. -/
def State.entryOfDev (s : State) (base dev : Nat) : Option Nat :=
  (List.range (s.tabCount base)).find? fun e => s.tabDev base e == dev

/-- Set STATE of a device's entry, as the collective engine does (R380, R381, R383). -/
def State.setMember (s : State) (base dev state : Nat) : State :=
  match s.entryOfDev base dev with
  | some e => s.pokeNat (base + 0x40 + 32 * e + 18) 1 state
  | none => s

/-- STATE of a device in a table: 0 live, 1 failed, 2 held; 1 where it has no entry. -/
def State.memberState (s : State) (base dev : Nat) : Nat :=
  match s.entryOfDev base dev with | some e => s.tabState base e | none => 1

/-- Whether some member of a table is held (R383). -/
def State.anyHeld (s : State) (base : Nat) : Bool := (List.range (s.tabCount base)).any fun e => s.tabState base e == 2

/-- The slot whose live table matches a context's job: its DIGEST equals JOBDIGEST as the context's descriptor holds it, or as
it stood at the placement (R380, R389). -/
def State.jobOf (s : State) (ctx : CtxDesc) : Option (Nat × Nat) :=
  let now := s.mem.readN (ctx.desc + 0x80) 32
  let zero := List.replicate 32 (0 : Byte)
  (List.range 16).findSome? fun j => (s.jobTable j).bind fun base =>
    let d := s.mem.readN base 32
    if d != zero && (d == now || d == ctx.jobdigest) then some (j, base) else none

/-- A job's record when nothing has happened yet. -/
def Job.fresh (slot : Nat) : Job :=
  { slot := slot, since := 0, beats := [], nextBeat := 0, progress := 0, heldAt := none, joined := [], past := [], aborted := [], joins := [], sentHold := false, attest := [] }

/-- The record of a job slot. -/
def State.job (s : State) (slot : Nat) : Job := (s.jobs.find? fun j => j.slot == slot).getD (Job.fresh slot)

/-- Change the record of a job slot. -/
def State.onJob (s : State) (slot : Nat) (f : Job → Job) : State :=
  { s with jobs := f (s.job slot) :: s.jobs.filter fun j => j.slot != slot }

/-- Whether a device has been declared failed in some live table (R379, R381). -/
def State.homeFailed (s : State) (dev : Nat) : Bool :=
  (List.range 16).any fun j => (s.jobTable j).any fun base =>
    (List.range (s.tabCount base)).any fun e => s.tabDev base e == dev && s.tabState base e == 1

/-- A device has joined the collective of a SEQ; its first join counts, and none of a collective that is over (R381). -/
def Job.join (j : Job) (seq dev time : Nat) : Job :=
  { j with joins := if j.past.contains seq || j.joins.any fun x => x.1 == seq && x.2.1 == dev then j.joins else j.joins ++ [(seq, dev, time)] }

/-- The collective of a SEQ is over. -/
def Job.seqOver (j : Job) (seq : Nat) : Job :=
  { j with joins := j.joins.filter fun x => x.1 != seq, past := addNew j.past seq }

/-- No member is held any more, though none was released: the progress timers go on from where they stood (R381). -/
def Job.resume (j : Job) (now : Nat) : Job :=
  match j.heldAt with
  | none => j
  | some h =>
    let shift (t : Nat) : Nat := t + (now - Nat.max t h)
    { j with heldAt := none, progress := shift j.progress, joins := j.joins.map fun x => (x.1, x.2.1, shift x.2.2) }

/-- The joins that hold against a device: of collectives that it has not joined (R381). -/
def Job.lateJoins (j : Job) (dev : Nat) : List (Nat × Nat × Nat) :=
  j.joins.filter fun x => !(j.joins.any fun y => y.1 == x.1 && y.2.1 == dev)

/-- Signature indices of the device identity (R360). -/
def sigIndices : Nat := 2 ^ 40

/-- Take the next signature index, reserving its block of 65,536 in flash first (R360). -/
def Package.takeIndex (p : Package) : Package :=
  { p with reserve := if p.nextIndex < p.reserve then p.reserve else p.nextIndex + 65536, nextIndex := p.nextIndex + 1 }

/-- The chip serials of the members that have not failed, in table order (R361, R380). -/
def State.serials (s : State) (base : Nat) : List Nat :=
  ((List.range (s.tabCount base)).filter fun e => s.tabState base e != 1).map fun e => s.mem.nat (base + 0x40 + 32 * e) 16

/-- The membership message that every member signs (R361). -/
def State.memberMessage (s : State) (base : Nat) : List Byte :=
  let xs := s.serials base
  s.mem.readN (base + 0x20) 16 ++ leBytes 4 xs.length ++ leBytes 12 0 ++ (xs.map (leBytes 16)).flatten

/-- The attestation record: the message and every member's signature, this device's under its next leaf index (R361). -/
def State.attestation (s : State) (base : Nat) : List Byte :=
  let m := s.memberMessage base
  m ++ ((s.serials base).map fun x => leBytes 3604 (if x = Config.serial.toNat then Config.hssSign s.pkg.nextIndex m
    else Config.peerSign x m).toNat).flatten

/-- This device signs the membership as a table gives it, and the attestation record is kept; with no index left there is none
(R360, R361, log entry 64). -/
def State.attestJob (s : State) (slot base : Nat) : State :=
  if sigIndices ≤ s.pkg.nextIndex then s.onJob slot fun j => { j with attest := [] }
  else { s.onJob slot fun j => { j with attest := s.attestation base } with pkg := s.pkg.takeIndex }

/-- The new membership digest goes into JOBDIGEST of the descriptors of the job's contexts and into the table's DIGEST (R361,
R381). -/
def State.newDigest (s : State) (base : Nat) : State :=
  let old := s.mem.readN base 32
  let new := sha256 (s.memberMessage base)
  let s := s.ctxs.foldl (fun s a => if s.mem.readN (a.desc + 0x80) 32 = old then s.poke (a.desc + 0x80) new else s) s
  s.poke base new

end Sys2Proof.Machine
end

