-- ==== Sys2Proof/Machine/Link.lean ====
section
/-! DEFINITION. Accesses that this device sends to other devices (R378, R379): their requests, and what becomes of them where the
home device has been declared failed. -/

namespace Sys2Proof.Machine

/-- The home device of a remote physical address (R378). -/
def homeDevice (pa : Nat) : Nat := bits pa 39 11

/-- Bytes that a remote access returns. -/
def returnBytes : RemoteOp → Nat
  | .load n => n
  | .atomic _ w _ _ => if w then 8 else 4
  | .bar (.arrive _) => 8
  | .bar (.init _ _ _) => 4
  | _ => 0

/-- Whether no instruction that issues again waits for the answer to a request: a BAR waits as a path (R61, R264), and an operation of an
engine goes on; its requests bear the lane number 64. -/
def RemoteReq.detached (r : RemoteReq) : Bool :=
  match r.op with | .bar (.arrive w) => w || r.lane == 64 | _ => false

/-- Payload bytes that a remote access sends (R378). -/
def payloadBytes : RemoteOp → Nat
  | .load _ => 0
  | .store d => d.length
  | .atomic aop w _ _ => (if w then 8 else 4) * (if aop = .cas then 2 else 1)
  | .reduce _ w _ => if w then 8 else 4
  | .bar _ => 0

/-- Whether this device maps a line as memory-side, as far as a translation in use shows (R378). -/
def State.mapsMs (s : State) (pa : Nat) : Bool :=
  s.tlbs.any fun e => pteMS e.pte && e.maps pa

/-- Send accesses to one device under a request number, counting their payload (R378). Where it has been declared failed, reads
meet an error when they run again, and stores and reductions are dropped with ASYNC_REMOTE_LOST (R379). -/
def State.sendTo (s : State) (agent dev : Nat) (rs : List RemoteReq) : Nat × State :=
  match rs with
  | [] => (0, s)
  | r :: _ =>
    let (id, s) := s.fresh
    let s := s.weigh agent r.ctx.ctxid 19 (rs.foldl (fun n r => n + payloadBytes r.op) 0)
    if s.homeFailed dev then
      if returnBytes r.op = 0 then (id, s.asyncErr r.ctx 17 dev r.sid r.va)
      else (id, { s with remote := s.remote ++ rs.map fun r => { r with id := id, reply := some .unreachable } })
    else (id, { s with remote := s.remote ++ rs.map fun r => { r with id := id } })

/-- Send accesses, one request for each home device (R378). -/
def State.sendAll (s : State) (agent : Nat) (rs : List RemoteReq) : State :=
  (rs.foldl (fun ds r => addNew ds (homeDevice r.pa)) []).foldl (fun s d =>
    (s.sendTo agent d (rs.filter fun r => homeDevice r.pa == d)).2) s

end Sys2Proof.Machine
end

