-- ==== Sys2Proof/Machine/Timelines.lean ====
section
/-! DEFINITION. Barriers (R263 to R266) and timelines (R250 to R252): arrivals, abandonment, advances and what they meet. -/

namespace Sys2Proof.Machine

/-- The words of a barrier object (R263). -/
def Barrier.words (b : Barrier) : List Byte :=
  leBytes 4 b.arrived ++ leBytes 4 b.expected ++ leBytes 4 b.phase
    ++ leBytes 4 (b2n b.valid * 2 ^ 31 + b2n b.aband * 2 ^ 30 + b.scope * 2 ^ 28 + b.qsz * 2 ^ 20)

/-- The barrier in service, or last in service, at a place. -/
def State.bar? (s : State) (p : BarPlace) : Option Barrier := s.bars.find? fun b => b.place == p

/-- Put a barrier and show its state in the object's bytes, which no L1 copy hides, a store like others to a scratchpad (R179, R263). -/
def State.putBar (s : State) (b : Barrier) : State :=
  let s := { s with bars := b :: s.bars.filter fun c => c.place != b.place }
  match b.place with
  | .global pa =>
    if hbmHas pa then
      ({ s with mem := s.mem.writeN pa b.words }.wrote pa 16).mapCores fun c =>
        { c with l1 := c.l1.filter fun x => x.pa != sectorOf pa, past := c.past.filter fun x => x.data.pa != sectorOf pa }
    else s
  | .spad id off =>
    let t := (s.keepPast none Mask.all (sectorsOf (spadKey id off) 16)).spadWrite id off b.words
    match s.spadPhys id off with
    | some (core, x) => t.afterSpadStore core x 16
    | none => t
  | .far _ _ => s

/-- Whether a street waits at a barrier. -/
def Street.atBar (t : Street) (p : BarPlace) : Bool :=
  t.entries.any fun e => match e.2.wait with | .bar q _ _ _ none => e.2.reason == .wait && q == p | _ => false

/-- Whether a barrier has waiters, of another device among them. -/
def State.barWaiters (s : State) (p : BarPlace) : Bool := s.allStreets.any (·.atBar p) || (s.bar? p).any (·.far)

/-- Mark the waits of a street at a barrier as over. -/
def Street.barOver (t : Street) (p : BarPlace) (status : Nat) (phase : Word) : Street :=
  entryIdx.foldl (fun t i =>
    match (t.paths.get i).wait with
    | .bar q ph x wm none => if q = p then t.onPath i fun e => { e with wait := .bar q ph x wm (some (status, phase)) } else t
    | _ => t) t

/-- Whether the agents that arrive on a barrier lie beyond one core: members of several blocks, or an arrival from elsewhere (R264). -/
def Barrier.wide (b : Barrier) : Bool := b.scope != 1 || b.off

/-- Resume every waiter of a barrier with a status (R264 to R266). -/
def State.barResume (s : State) (b : Barrier) (status : Nat) (phase : Nat) : State :=
  let s := s.mapStreets fun t => t.barOver b.place status (BitVec.ofNat 32 phase)
  s.allBlocks.foldl (fun s k => s.settleBlock k.id b.wide) s

/-- One arrival on a barrier that counts, of a block's street or of an engine; the arrival that reaches EXPECTED completes the phase
(R264). -/
def State.barArrive (s : State) (b : Barrier) (from_ : Option Nat) : State :=
  let off := b.off || !(from_.any fun k => b.members.contains k)
  if b.arrived + 1 = b.expected then
    let b' := { b with arrived := 0, phase := (b.phase + 1) % 2 ^ 32, off := false, far := false }
    (s.putBar b').barResume { b' with off := off } 0 b'.phase
  else s.putBar { b with arrived := b.arrived + 1, off := off }

/-- A member street of a block was halted by containment: its barriers are abandoned (R265). -/
def State.abandonBars (s : State) (block : Nat) : State :=
  (s.bars.filter fun b => b.valid && b.members.contains block).foldl (fun s b =>
    let b' := { b with aband := true, far := false }
    (s.putBar b').barResume b' 1 b'.phase) s

/-- The waits of records on a timeline that has reached a value are met; a record whose waits are all met is READY (R256). -/
def TaskRec.meet (r : TaskRec) (sids : List StreetId) (tl value : Nat) : TaskRec :=
  let ws := r.waits.filter fun w => !(sids.contains (BitVec.ofNat 32 w.1) && w.2.1 == tl && decide (w.2.2 ≤ value))
  { r with waits := ws, state := if r.state == .waiting && ws.isEmpty then .ready else r.state }

/-- The timeline, by block and number, on which a completed operation, or the task it ends, makes its advance (R250, R256). -/
def State.advancePlace (s : State) (c : Completion) : Option (Nat × Nat) :=
  match c.task with
  | some task =>
    (((List.range 4).findSome? fun d => (s.die d).pool.find? fun r => r.id == task).bind (·.adv)).bind fun a =>
      (s.blockOfSid? (BitVec.ofNat 32 a.1)).map fun b => (b.id, a.2)
  | none => c.tl.map fun k => (c.block, k)

/-- The completion that holds up every other advance of a timeline: its stamp, which names the value of its advance, is written, and
the advance is not yet made (R260). -/
def State.stampedLate (s : State) (block k : Nat) : Option Late :=
  s.late.find? fun l => l.c.stamped && s.advancePlace l.c == some (block, k)

/-- VALUE of a timeline of a block rises, also in the block's image while it is saved (R174, R250); waits of paths and of records are
met (R256, R296). `far`: an engine performed the operation (R251). -/
def State.raise (s : State) (block k : Nat) (far : Bool) : State :=
  match s.block? block with
  | none => s
  | some b =>
    let tl := b.tl k
    let v := Nat.min (tl.value + 1) (2 ^ 64 - 1)
    let tl' := { tl with value := v, far := if far && tl.far.isNone then some v else tl.far }
    let s := s.onBlock block fun b => b.onTl k fun _ => tl'
    let s := if b.life == .saved then s.pokeNat (b.image + 0x100 + 16 * k) 8 v else s
    let s : State := { s with dies := s.dies.map fun d => { d with pool := d.pool.map fun r => r.meet b.sids k v } }
    s.settleBlock block far

/-- One advance of a timeline of a block (R250); one that comes between a stamp and the advance whose value it holds waits for that
(R260). -/
def State.advance (s : State) (block k : Nat) (far : Bool) : State :=
  match s.stampedLate block k with
  | some l =>
    let c := { l.c with block := block, tl := some k, num := 0, stamp := none, barrier := none, far := far, task := none, stamped := false }
    { s with late := s.late ++ [{ l with c := c }] }
  | none => s.raise block k far

/-- An unordered advance through a handle; a handle that names nothing drops it with ASYNC_TL_GONE (R250, R252). -/
def State.advanceHandle (s : State) (sid : Nat) (tl : Nat) (ctx : CtxDesc) (from_ : StreetId) (far : Bool) : State :=
  match s.blockOfSid? (BitVec.ofNat 32 sid) with
  | some b => s.advance b.id tl far
  | none => s.asyncErr ctx 3 0 from_ (tl * 2 ^ 32 + sid)

/-- Take an ordered number on timeline k of the block in focus (R250). -/
def State.takeNumber (s : State) (k : Nat) : Nat × State :=
  let tl := s.blk.tl k
  (tl.issued + 1, { s with blk := s.blk.onTl k fun t => { t with issued := t.issued + 1 } })

/-- An operation of a street is over. -/
def State.endOp (s : State) (sid : StreetId) (id : Nat) : State :=
  s.onStreet sid fun t => { t with ops := t.ops.filter fun o => o.id != id }

/-- The sticky copy error of a street (R295). -/
def State.copyErrBit (s : State) (sid : StreetId) (b : Nat) : State :=
  s.onStreet sid fun t => { t with copyErr := t.copyErr ||| 2 ^ b }

/-- A copy's arrival on a barrier; one that has no valid object is dropped with ASYNC_BAR_GONE, one that is abandoned is
dropped without a record (R264 to R266). A copy of a street sets its sticky error, the copy of a task none (R295). -/
def State.copyArrive (s : State) (c : Completion) (addr : Nat) (place : Option BarPlace) : State :=
  let sticky (s : State) : State := if c.task.isNone then s.copyErrBit c.sid 3 else s
  match (place.bind s.bar?).filter fun b => b.valid with
  | some b => if b.aband then sticky s else s.barArrive b none
  | none => sticky (s.asyncErr c.ctx 2 0 c.sid addr)

/-- The answers to requests that no instruction waits for: a BAR's wait is over with its status and PHASE, which nothing constrains where
the home cannot be reached; a copy's arrival that met no valid object gives ASYNC_BAR_GONE, one that was lost ASYNC_REMOTE_LOST (R264,
R266, R378; DEDUCED, log entry 24). -/
def State.barReplies (s : State) : State :=
  let answered (r : RemoteReq) : Bool := r.detached && r.reply.isSome
  (s.remote.filter answered).foldl (fun s r =>
    let res : Nat × Nat := match r.reply with
      | some (.data v) => (recNat v 0 4, recNat v 4 4)
      | _ => ((Config.freeWord s.freeTick (2 ^ 68 + r.id)).toNat, (Config.freeWord s.freeTick (2 ^ 69 + r.id)).toNat)
    if r.lane = 64 then
      match r.reply with
      | some (.data _) => if res.1 = 2 then s.asyncErr r.ctx 2 0 r.sid r.va else s
      | _ => s.asyncErr r.ctx 17 (homeDevice r.pa) r.sid r.va
    else
      let s := s.mapStreets fun t => t.barOver (.far r.id r.pa) res.1 (BitVec.ofNat 32 res.2)
      s.allBlocks.foldl (fun s k => s.settleBlock k.id true) s) { s with remote := s.remote.filter fun r => !answered r }

/-- A copy's arrival on a barrier of another device (R264, R378). -/
def State.farArrive (s : State) (c : Completion) (va pa : Nat) : State :=
  (s.sendTo c.agent (homeDevice pa)
    [{ id := 0, sid := c.sid, lane := 64, pa := pa, va := va, ctx := c.ctx, op := .bar (.arrive false), strong := true
       reply := none }]).2.barReplies

/-- A record leaves the ready pool, and a direct post that waited for room enters it (R254, R256). -/
def Die.leave (d : Die) (task : Nat) : Die :=
  let pool := d.pool.filter fun r => r.id != task
  match d.directq with
  | [] => { d with pool := pool }
  | r :: rest => { d with pool := pool ++ [r], directq := rest }

/-- A task is DONE: its record leaves the pool and its advance is made (R256, R258). -/
def State.taskDone (s : State) (die task : Nat) (far : Bool) : State :=
  match (s.die die).pool.find? fun r => r.id == task with
  | none => s
  | some r =>
    let s := s.onDie die fun d => d.leave task
    match r.adv with
    | some (sid, tl) => s.advanceHandle sid tl r.ctx r.sid far
    | none => s

/-- How a barrier that an engine names translates for it (R297): a scratchpad-space address needs none. -/
inductive BarFound where
  | at_ (p : Option BarPlace)
  | far (pa : Nat)
  | fault (f : XFault)
deriving DecidableEq, Repr

/-- The barrier at an address of a block: a global address, of this device or another (R378), or a scratchpad-space address. One in a
frame stack or a hold table is found or not, which nothing constrains (R145, log entry 10). -/
def State.findBar (s : State) (agent : Nat) (ctx : CtxDesc) (b : Option Block) (addr : Nat) (spad : Bool) : BarFound :=
  if !spad then
    match translate s agent ctx addr .atomic with
    | .ok pa pte _ _ _ =>
      if pteRH pte then .far pa
      else if s.privateTo none ctx.ctxid addr pa && Config.freeBit s.freeTick (2 ^ 64 + addr) then .at_ none
      else .at_ (some (.global pa))
    | .fault f => .fault f
    | .hole _ => .at_ none
  else
    match b with
    | none => .at_ none
    | some b =>
      if bit addr 63 then
        if bits addr 56 2 == 0 && bits addr 58 5 == 0 && bits addr 24 21 == 0 then
          match s.districtAt? b (bits addr 50 6) (bits addr 45 5) with
          | some t => .at_ (if bits addr 0 24 + 16 ≤ t.hdr.spad * 256 then some (.spad t.id (bits addr 0 24)) else none)
          | none => .at_ none
        else .at_ none
      else .at_ (if addr < 2 ^ 18 && decide (addr + 16 ≤ b.hdr.spad * 256) then some (.spad b.id addr) else none)

/-- A completion waits (R260, R317, R378). -/
def State.putLate (s : State) (c : Completion) (fault : Option XFault) (req : Option Nat) : State :=
  { s with late := s.late ++ [{ c := c, fault := fault, req := req }] }

/-- A completion waits for the service of a fault, whose record goes to the engine's die. -/
def State.lateFault (s : State) (c : Completion) (f : XFault) : State := (s.putLate c (some f) none).walkFault (agentDie c.agent) f

/-- The value that a stamp holds (R260): the one that the advance produces, or 1 where none is made. -/
def State.stampValue (s : State) (c : Completion) : Nat :=
  match (s.advancePlace c).bind fun p => (s.block? p.1).map fun b => b.tl p.2 with
  | some t => Nat.min (t.value + 1) (2 ^ 64 - 1)
  | none => 1

/-- The advance of a completed operation, or of the task it ends (R250, R256). -/
def State.makeAdvance (s : State) (c : Completion) : State :=
  match c.task with
  | some t => (List.range 4).foldl (fun s d => s.taskDone d t true) s
  | none =>
    match c.tl with
    | some k => if c.num = 0 then s.advance c.block k c.far else ((s.onBlock c.block fun b => b.onTl k fun t => { t with made := t.made + 1 }).endOp c.sid c.op).advance c.block k c.far
    | none => s.endOp c.sid c.op

/-- The barrier arrival and the advance of a completed operation, in this order (R250, R264, R294). -/
def State.arriveNow (s : State) (c : Completion) : State :=
  match c.barrier with
  | none => s.makeAdvance c
  | some (a, spad) =>
    match s.findBar c.agent c.ctx (s.block? c.block) a spad with
    | .fault f => s.lateFault c f
    | .far pa => (s.farArrive c a pa).makeAdvance c
    | .at_ p => (s.copyArrive c a p).makeAdvance c

/-- The stamp, the barrier arrival and the advance of a completed operation, in this order (R250, R260, R294): a strong store with
release, performed before what follows it, on another device too (R378). A stamp whose page holds no memory is dropped, one on a
formatted page is 8 raw bytes (DESIGN CHOICE, log entry 76). -/
def State.completeNow (s : State) (c : Completion) : State :=
  match c.stamp, (s.advancePlace c).bind fun p => s.stampedLate p.1 p.2 with
  | none, _ => s.arriveNow c
  | some _, some l => { s with late := s.late ++ [{ l with c := c }] }
  | some a, none =>
    let v := leBytes 8 (s.stampValue c)
    let d := { c with stamp := none, stamped := true }
    match translate s c.agent c.ctx a .write with
    | .fault f => s.lateFault c f
    | .hole _ => s.arriveNow d
    | .ok pa pte ea base size =>
      let s := touch s c.agent c.ctx .write pa pte ea base size
      if !pteRH pte then (s.store none pa (s.passing none c.ctx.ctxid a pa v) c.ctx.ctxid (pteMS pte)).arriveNow d
      else
        let (id, s) := s.sendTo c.agent (homeDevice pa)
          [{ id := 0, sid := c.sid, lane := 0, pa := pa, va := a, ctx := c.ctx, op := .store v, strong := true, reply := none }]
        if s.homeFailed (homeDevice pa) then s.arriveNow d else s.putLate d none (some id)

/-- An operation with an ordered number has completed: it advances when every smaller number has, else it waits (R250). -/
def State.completeOrdered (s : State) (k : Nat) (c : Completion) : State :=
  match s.block? c.block with
  | none => s.endOp c.sid c.op
  | some b =>
    if (b.tl k).made + 1 = c.num then s.completeNow c
    else s.onBlock c.block fun b => b.onTl k fun t => { t with pend := t.pend ++ [c] }

/-- The completed operation whose turn has come on a timeline. -/
def Timeline.next? (t : Timeline) : Option Completion := t.pend.find? fun c => c.num == t.made + 1

/-- A waiting completion whose turn has come is made (R250). -/
def State.advanceTurn (s : State) (block k : Nat) : State :=
  match s.block? block with
  | none => s
  | some b =>
    match (b.tl k).next? with
    | none => s
    | some c => (s.onBlock block fun b => b.onTl k fun t => { t with pend := t.pend.filter fun d => d.num != c.num }).completeNow c

/-- An operation completes: on its timeline when it names one; else its stamp holds 1 and no advance is made (R260). -/
def State.complete (s : State) (c : Completion) : State :=
  match c.tl with
  | some k => s.completeOrdered k c
  | none => s.completeNow c

/-- The completion of an operation of a street (R250): `tl` is its timeline and its number there. -/
def opCompletion (b : Block) (agent : Nat) (tl : Option (Nat × Nat)) (stamp : Option Nat) (barrier : Option (Nat × Bool))
    (op : Nat) (sid : StreetId) : Completion :=
  { block := b.id, ctx := b.ctx, tl := tl.map (·.1), num := (tl.map (·.2)).getD 0, stamp := stamp, barrier := barrier, op := op
    sid := sid, far := true, agent := agent, task := none, stamped := false }

/-- Completions whose fault has been serviced are made again (R317), with those that waited behind them on their timeline (R260). -/
def State.lateServiced (s : State) (op : Nat) : State :=
  let fs := (s.late.filter fun l => l.c.op == op).filterMap (·.fault)
  let due := s.late.filter fun l => l.fault.any fs.contains
  due.foldl (fun s l => s.completeNow l.c) { s with late := s.late.filter fun l => !l.fault.any fs.contains }

/-- Completions whose stamp has been performed on its device, or lost with it, go on (R378, R379). -/
def State.lateAcked (s : State) (req : Nat) : State :=
  let due := s.late.filter fun l => l.req == some req
  due.foldl (fun s l => s.completeNow l.c) { s with late := s.late.filter fun l => l.req != some req }

end Sys2Proof.Machine
end

