-- ==== Sys2Proof/Machine/Ops.lean ====
section
/-! DEFINITION. The named operations every meaning shares: completing, stalling, waiting for service, the end of streets and
blocks (R148, R165, R268), containment (R363), taking a trap (R158, R160) and returning from one (R159). -/

namespace Sys2Proof.Machine

/-- The outcome of a step. -/
abbrev Res := Host.Outcome State Fault Refusal

/-- The instruction is complete: the issuing entry moves to the next instruction. -/
def State.done (s : State) : State :=
  { s with st := { (s.st.onPath s.st.sel fun e => { e with pc := e.pc + 4 }) with stall := none } }

/-- The instruction stalls at issue and will be tried again (R166, R169). -/
def State.stalled (s : State) (r : Stall) : State := { s with st := { s.st with stall := some r } }

/-- A serviced fault: a fault record goes to the die's queue, and the street waits for the resident OS (R161, R317). -/
def State.service (s : State) (f : XFault) (r : Stall) : State :=
  (s.onSt fun t => { t with svc := some f, stall := some r }).walkFault s.st.die f

/-- Whether a street has ended (R57, R363). -/
def Street.over (t : Street) : Bool := t.life == .exited || t.life == .contained || t.life == .absent

/-- Whether operations of a block are in flight, or records of it have not been ingested (R255, R268, log entry 28). -/
def State.blockBusy (s : State) (id : Nat) : Bool :=
  (match s.block? id with
   | some b => !b.mxq.isEmpty || b.plq.any (·.rec_.isSome) || b.tls.toList.any fun t => !t.pend.isEmpty
   | none => false)
    || (s.copies.any fun c => c.block == id && c.task.isNone) || (s.late.any fun l => l.c.block == id && l.c.task.isNone)
    || (s.walks.any fun w => w.block == id && w.ended.isNone)
    || (s.colls.any fun c => c.block == id && (c.status == .running || c.status == .held))

/-- A record is refused: it makes no advance, and its context is told (R289). -/
def State.taskRefuse (s : State) (r : TaskRec) (reason : Nat) : State := s.asyncErr r.ctx 6 reason r.sid r.addr

/-- The records of the ready pools that wait on a handle that names nothing any more are refused (R252, R390). -/
def State.refuseOrphans (s : State) : State :=
  (List.range 4).foldl (fun s die =>
    ((s.die die).pool.filter fun r => r.state == .waiting
        && r.waits.any fun w => (s.blockOfSid? (BitVec.ofNat 32 w.1)).isNone).foldl
      (fun s r => (s.onDie die fun d => d.leave r.id).taskRefuse r 2) s) s

/-- The new memory value of an atomic or reduction on m with operand x (R199): under CAS x is the compare and y the swap
value. No saturation and no flag. -/
def aopApply (aop : Aop) (w : Bool) (m x y : Addr) : Addr :=
  match aop with
  | .add => cut w (m + x)
  | .smin => if sgn w m ≤ sgn w x then cut w m else cut w x
  | .smax => if sgn w x ≤ sgn w m then cut w m else cut w x
  | .nmin => if uns w m ≤ uns w x then cut w m else cut w x
  | .nmax => if uns w x ≤ uns w m then cut w m else cut w x
  | .and => cut w (m &&& x)
  | .or => cut w (m ||| x)
  | .xor => cut w (m ^^^ x)
  | .xchg => cut w x
  | .cas => if uns w m = uns w x then cut w y else cut w m
  | .fadd => (0 : Word) ++ faddNe (loWord m) (loWord x)
  | .reserved11 | .reserved12 | .reserved13 | .reserved14 | .reserved15 => cut w m

/-- Perform a sent reduction: poisoned or uncorrectable data is left as it was, with ASYNC_RED_POISON (R327, R341); else, as a
store, it also brings the L1 copies of its street's core, and of its twin's, up to date (R185). In another street's frame stack it
leaves unspecified bytes (R145). -/
def State.performMred (s : State) (r : Mred) : State :=
  let n := if r.w then 8 else 4
  let s := { s with mreds := s.mreds.filter fun q => q.id != r.id }
  match s.badSector r.pa n r.ms with
  | some b => (s.meetBad b r.ctx.ctxid 0xFFFFFFFF r.ms).asyncErr r.ctx 8 0 r.sid (b.1 * 32 / 128 * 128)
  | none =>
    let (old, s) := s.loadCopy r.pa n r.ctx.ctxid r.ms
    let bs := s.passing r.sid r.ctx.ctxid r.va r.pa (leBytes n (aopApply r.aop r.w (BitVec.ofNat 64 (leNat old)) r.x 0).toNat)
    let s := s.store r.sid r.pa bs r.ctx.ctxid r.ms
    match s.street? r.sid with
    | some t =>
      let s := s.l1Store t.core r.pa bs false
      match t.pair.bind fun p => s.street? p.twin with
      | some u => s.l1Store u.core r.pa bs false
      | none => s
    | none => s

/-- The reductions that the streets of a block have sent are performed (R256, R258, R327). -/
def State.drainBlock (s : State) (b : Block) : State :=
  (s.mreds.filter fun r => b.sids.contains r.sid).foldl (fun s r => s.performMred r) s

/-- A block has ended and finished draining: its reductions are performed, it is gone, its context's deltas are added (R357), and the LAUNCH that placed it counts
it (R256, R268). -/
def State.finishBlock (s : State) (b : Block) : State :=
  let s := ((s.drainBlock b).onBlock b.id fun b => { b with life := .absent }).flushDeltas fun d => d.ctx == b.ctx.ctxid
  let s := { s with
    blocks := s.blocks.filter Block.there
    stopped := s.stopped.filter fun c => c != b.ctx.ctxid || s.allBlocks.any fun k => k.ctx.ctxid == c }.refuseOrphans
  (List.range 4).foldl (fun s die =>
    match (s.die die).pool.find? fun r => r.id == b.task with
    | none => s
    | some r =>
      let left := r.blocks.filter fun i => i != b.id
      let s := s.onDie die fun d => { d with pool := d.pool.map fun q => if q.id == r.id then { q with blocks := left } else q }
      if left.isEmpty then s.taskDone die r.id true else s) s

/-- The local pans that operations in flight of a block name, by pan pair (R268). -/
def MxOp.pairs (o : MxOp) : List Nat := [o.pan / 2]

/-- A block ends: its slots, granules, queues and scratchpad are freed, with the barriers that lay there; with operations in
flight it drains (R165, R266, R268). -/
def State.endBlock (s : State) (id : Nat) : State :=
  match s.block? id with
  | none => s
  | some b =>
    let busy := s.blockBusy id
    let s := s.mapStreets fun t => if t.there && t.block == id then { t with life := .absent } else t
    let s : State := { s with
      streets := s.streets.filter Street.there
      bars := s.bars.filter fun k => match k.place with | .spad i _ => i != id | _ => true }
    if busy then
      let named := (b.mxq.map MxOp.pairs).flatten
      s.onBlock id fun b => { b with
        life := .draining, spad := [], queues := Vector.replicate 16 { entries := [] }
        panFreed := (List.range ((b.hdr.pans + 1) / 2)).filter fun p => !named.contains p }
    else s.finishBlock b

/-- The street in focus has no entry left: it ends, and with the last street of its block the block ends (R57, R148). -/
def State.endStreetIfEmpty (s : State) : State :=
  if s.st.liveEntries.isEmpty then
    let s := if s.st.life == .running then s.onSt fun t => { t with life := .exited } else s
    if s.allStreets.all fun t => t.block != s.st.block || t.over then s.endBlock s.st.block else s
  else s

/-- A draining block whose last operation is over has finished draining (R268). -/
def State.drainCheck (s : State) (id : Nat) : State :=
  match s.block? id with
  | none => s
  | some b => if b.life == .draining && !s.blockBusy id then s.finishBlock b else s

/-- Perform every reduction a street has sent, as its releases and its `.ar` fences wait for (R193, R202, R327). -/
def State.drainMreds (s : State) (sid : StreetId) : State :=
  (s.mreds.filter fun r => r.sid == sid).foldl (fun s r => s.performMred r) s

/-- The street in focus is halted by containment (R160, R363): a stop record, its colours released poisoned as a release at package
scope (R219), its barriers abandoned, its entries freed. -/
def State.contain (s : State) (cause code faddr : Nat) : State :=
  let t := s.st
  let e := t.path
  let s := s.freePosts
  let s := s.stopRecord t.die s.blk.ctx.pid s.blk.tid t.sid cause (b2n t.tlevel) e.pc e.mask code faddr
  let s := s.onSt fun t => { t with life := .contained, paths := Vector.replicate 8 PathEntry.free, windows := []
                                    stall := none, svc := none, reserves := [] }
  let s := (s.leaveLists t.sid Mask.all).drainMreds t.sid
  let s := s.releaseHolds t.sid s.blk.ctx.ctxid t.holds true
  (s.abandonBars t.block).endStreetIfEmpty

/-- REASON code of a save-area entry (R64). -/
def Reason.code : Reason → Nat
  | .free => 0 | .branch => 1 | .colourPark => 2 | .wait => 3

/-- A PATH entry of the save area (R64). -/
def PathEntry.bytes (e : PathEntry) : List Byte :=
  leBytes 8 e.pc.toNat ++ leBytes 8 e.mask.toNat ++ leBytes 2 e.depth ++ leBytes 1 e.reason.code ++ leBytes 1 e.grant
    ++ leBytes 2 e.age ++ leBytes 2 0

/-- The 256 bytes of the trap save area (R64). -/
def saveArea (t : Street) (cause code faddr : Nat) : List Byte :=
  leBytes 8 t.path.pc.toNat ++ leBytes 8 t.path.mask.toNat ++ leBytes 4 cause ++ leBytes 4 code ++ leBytes 8 faddr
    ++ leBytes 1 t.sel.val ++ leBytes 1 0 ++ leBytes 30 0 ++ (t.entries.map fun e => e.2.bytes).flatten

/-- The request of an access of the street in focus for itself, to its text or its save area on another device (R378). -/
def State.selfReq (s : State) (va pa : Nat) (op : RemoteOp) : RemoteReq :=
  { id := 0, sid := s.st.sid, lane := 0, pa := pa, va := va, ctx := s.blk.ctx, op := op, strong := false, reply := none }

/-- Write the save area (R64): on a page of another device it is sent (R378). A paired street holds no part of it back. -/
def State.writeArea (s : State) (pa pte : Nat) (bytes : List Byte) : State :=
  if pteRH pte then (s.sendTo s.st.core (homeDevice pa) [s.selfReq s.st.tsave.toNat pa (.store bytes)]).2
  else (s.store s.st.sid pa bytes s.blk.ctx.ctxid (pteMS pte)).l1Store s.st.core pa bytes false

/-- TAKING A TRAP (R158, R160): at trap level 1 or without a handler the street is contained; otherwise the save area is
written, the trap level becomes 1, entry PIDX goes to THAND one DEPTH deeper, and the other entries are held. A translation
miss on the save area is a serviced fault, after which the instruction replays and traps again (R161); a save area where there is no
memory, or on a formatted page, contains the street (DESIGN CHOICE, log entry 54). ECC_UNC in a street of a pair contains it (R375). The handler of a trap at
DEPTH 65,535 stands at DEPTH 65,536, beyond what R57 lets a CALL reach (DESIGN CHOICE, log entry 52). -/
def State.takeTrap (s : State) (cause code faddr : Nat) : State :=
  let t := s.st
  if t.tlevel || t.thand == 0 || (cause == 11 && t.pair.isSome) then s.contain cause code faddr
  else
    match translate s t.core s.blk.ctx t.tsave.toNat .write with
    | .fault f => s.service f .trap
    | .hole _ => s.contain cause code faddr
    | .ok pa pte ea base size =>
      if pteFMT pte != 0 then s.contain cause code faddr
      else
      let s := touch s.freePost t.core s.blk.ctx .write pa pte ea base size
      let s := s.writeArea pa pte (saveArea t cause code faddr)
      let s := s.onSt fun u =>
        { (u.onPath t.sel fun e => { e with pc := t.thand, depth := e.depth + 1, reason := .branch, wait := .none }) with
          tlevel := true, windows := [], stall := none, reserves := t.unreserve.reserves
          trap := some { pidx := t.sel.val, depth := t.path.depth, mask := t.path.mask, cause := cause, faddr := faddr
                         held := (t.liveEntries.filter fun e => e.1 != t.sel).map fun e => e.1.val } }
      s.traceTarget t.sel.val t.thand

/-- The street stops for the debugger with a stop record (R154, R372). -/
def State.debugStop (s : State) (cause code faddr : Nat) : State :=
  let e := s.st.path
  (s.freePost.stopRecord s.st.die s.blk.ctx.pid s.blk.tid s.st.sid cause (b2n s.st.tlevel) e.pc e.mask code faddr).onSt
    fun t => { t with life := .debugStop, stall := none }

/-- Mask of all lanes of some entries. -/
def lanesOf (es : List (Fin 8 × PathEntry)) : Mask := es.foldl (fun m e => m ||| e.2.mask) 0

/-- Whether an entry stands at a CLRWAIT that its lanes have still to complete: it is no candidate for merging yet (R60, R225). -/
def Street.inClrwait (t : Street) (e : PathEntry) : Bool := t.clrw.any fun c => e.mask.getLsbD c.1

/-- R60: the entry that an entry merges into. One that a trap holds merges into none while the handler runs (DESIGN CHOICE, log
entry 53). -/
def mergeInto (t : Street) (i : Fin 8) : Fin 8 :=
  let e := t.paths.get i
  if e.reason != .branch || t.isHeld i || t.inClrwait e then i
  else
    match t.runnable.find? fun f => f.2.pc == e.pc && f.2.depth == e.depth && !t.inClrwait f.2 with
    | some f => f.1
    | none => i

/-- R60: the entry at an index after every merge. -/
def mergedAt (t : Street) (i : Fin 8) : PathEntry :=
  let e := t.paths.get i
  if mergeInto t i != i then PathEntry.free
  else
    let ms := t.runnable.filter fun f => mergeInto t f.1 == i
    if ms.length ≤ 1 then e
    else { e with mask := lanesOf ms, age := 0, grant := ms.foldl (fun g f => Nat.max g f.2.grant) 0 }

/-- R60: merge the runnable entries of equal PC and DEPTH. The entry that absorbs one that YIELD passes over is not itself passed over
(DESIGN CHOICE, log entry 72). -/
def Street.merge (t : Street) : Street :=
  { t with paths := Vector.ofFn fun i => mergedAt t i, lastSel := t.lastSel.map (mergeInto t) }

/-- The entries that absorb another one in a merge. -/
def Street.merging (t : Street) : List (Fin 8) :=
  entryIdx.filter fun i => mergeInto t i == i && t.runnable.any fun f => f.1 != i && mergeInto t f.1 == i

/-- R59: AGE and GRANT of entry `i` after an instruction of entry `sel`, given the street before it. The entry that a TRET resumes has
AGE 0 (R159). One that a trap holds does not
age while the handler runs (DESIGN CHOICE, log entry 53). -/
def agedEntry (before t : Street) (sel i : Fin 8) : PathEntry :=
  let e := t.paths.get i
  let old := before.paths.get i
  let back := t.trap.isNone && before.trap.any fun f => f.pidx == i.val
  let age := if i = sel || back then 0
    else if old.reason == .branch && !before.isHeld i && e.reason == .branch then Nat.min (e.age + 1) 1023 else e.age
  let grant := if e.reason != .branch then 0
    else if (before.paths.get sel).grant = 0 then e.grant
    else if i = sel ∨ old.grant = 0 then e.grant - 1 else e.grant
  { e with age := age, grant := grant }

/-- R59 over the table. -/
def Street.aged (before t : Street) (sel : Fin 8) : Street :=
  { t with paths := Vector.ofFn fun i => if (t.paths.get i).reason == .free then t.paths.get i else agedEntry before t sel i }

/-- The street stops by HALT at a path (R155). A stop at trap level 1 leaves a deferred halt pending. An access to a pan that waits is
still made (R283). -/
def State.haltAt (s : State) (e : PathEntry) : State :=
  (s.stopRecord s.st.die s.blk.ctx.pid s.blk.tid s.st.sid 19 (b2n s.st.tlevel) e.pc e.mask 0 0).onSt
    fun t => { t with life := .halted, haltReq := t.haltReq && t.tlevel, haltForce := false, windows := t.windows.filter (·.pan.isSome), stall := none }

/-- The path at which a street stops: the one that would issue next (R155). -/
def Street.nextPath (t : Street) : PathEntry := match t.select with | some (i, _) => t.paths.get i | none => t.path

/-- The street stops by HALT at its next instruction (R155). -/
def State.haltStop (s : State) : State := s.haltAt s.st.nextPath

/-- Whether operations the street issued within the frame of these lanes at this DEPTH are in flight (R147). -/
def Street.frameOps (t : Street) (m : Mask) (depth : Nat) : Bool :=
  t.ops.any fun o => decide (depth ≤ o.depth) && (o.lanes &&& m) != 0

/-- The holds of lanes at this DEPTH or deeper. -/
def Street.holdsFrom (t : Street) (m : Mask) (depth : Nat) : List Hold :=
  t.holds.filter fun h => m.getLsbD h.lane && decide (depth ≤ h.depth)

/-- The handler entries of a trap: the non-free entries that are not held (R159). -/
def Street.handlerEntries (t : Street) : List (Fin 8 × PathEntry) := t.liveEntries.filter fun e => !t.isHeld e.1

/-- Whether a remote access of a street has not been acknowledged (R388). -/
def State.remotePending (s : State) (sid : StreetId) : Bool :=
  s.remote.any fun r => r.sid == sid && r.reply.isNone && !r.detached

/-- A machine-check record of KIND 3 for an uncorrectable SRAM word that the street in focus met, to the die that holds the word
(R346, R365). -/
def State.sramErrorOn (s : State) (die : Nat) : State := s.machineCheck die 3 s.blk.ctx.ctxid 0 s.st.sid.toNat 0

/-- The same for a word that the street's own die holds. -/
def State.sramError (s : State) : State := s.sramErrorOn s.st.die

/-- Lanes of the street in focus exit from the entry in use (R148): their colours are released, poisoned after ECC_UNC, and
they leave every list they joined. The entry itself is changed by the caller. -/
def State.exitLanes (s : State) (m : Mask) (poison : Bool) : State :=
  let s := s.leaveLists s.st.sid m
  let s := s.onSt fun t => { t with clrw := t.clrw.filter fun w => !m.getLsbD w.1 }
  s.releaseHolds s.st.sid s.blk.ctx.ctxid (s.st.holdsFrom m 0) poison

/-- What a read gives that the street makes for itself: bytes, a wait for another device, or an error with its FADDR. -/
inductive SelfRead where
  | bytes (bs : List Byte) (s : State)
  | wait (s : State)
  | broken (s : State) (faddr : Nat)

/-- Read bytes of one sector, at a translated address, from their single copy (R316, R322, R362, R364), or from another device (R378,
R379). -/
def State.readSelf (s : State) (va pa pte n : Nat) : SelfRead :=
  let sec := va / 32 * 32
  if pteRH pte then
    let mine (r : RemoteReq) : Bool := r.sid == s.st.sid && r.pa == pa && r.va == va && r.op == .load n
    match s.remote.find? mine with
    | none => .wait (s.sendTo s.st.core (homeDevice pa) [s.selfReq va pa (.load n)]).2
    | some r =>
      match r.reply with
      | none => .wait s
      | some (.data v) => .bytes v { s with remote := s.remote.filter fun r => !mine r }
      | some _ => .broken { s with remote := s.remote.filter fun r => !mine r } (sec + 1)
  else
    match s.badSector pa n (pteMS pte) with
    | some b => .broken (s.meetBad b s.blk.ctx.ctxid s.st.sid.toNat (pteMS pte)) (sec + b2n b.2)
    | none => let r := s.loadCopy pa n s.blk.ctx.ctxid (pteMS pte); .bytes r.1 r.2

/-- Whether a store or reduction of a street to another device has not been performed there. -/
def State.remoteStores (s : State) (sid : StreetId) : Bool :=
  s.remote.any fun r => r.sid == sid && r.reply.isNone && returnBytes r.op == 0

/-- PC and MASK of the save area, from its first two words (R159; DESIGN CHOICE of the two places that hold them, log entry 71): the
handler's stores that a paired street holds are forwarded (R367), and those sent to another device are waited for. -/
def State.readArea (s : State) (pa pte : Nat) : SelfRead :=
  if pteRH pte && s.remoteStores s.st.sid then .wait s
  else
  match s.readSelf s.st.tsave.toNat pa pte 16 with
  | .bytes bs s => .bytes (s.forwardGlobal (if pteRH pte then pa + 2 ^ 52 else pa) bs) s
  | r => r

/-- The holds that a TRET releases (R159): those of the handler's lanes from its entry DEPTH on. -/
def Street.handlerHolds (t : Street) : List Hold :=
  match t.trap with | some f => t.holdsFrom (lanesOf t.handlerEntries) (f.depth + 1) | none => []

/-- The handler ends (R159): its lanes leave their lists, its holds and its unfilled posts are released (R304), the lanes that `mask` leaves out exit, and entry
PIDX resumes. A halt that waited for it stops the street there (R155, R162). -/
def State.endHandler (s : State) (f : TrapFrame) (pc : Addr) (mask : Mask) : State :=
  let t := s.st
  let he := t.handlerEntries
  let lanes := lanesOf he
  let hs := t.handlerHolds
  let out := f.mask &&& ~~~mask
  let s := if hs.isEmpty && (t.holdsFrom out 0).isEmpty then s else s.drainMreds t.sid
  let s := s.leaveLists t.sid lanes
  let s := s.releaseHolds t.sid s.blk.ctx.ctxid hs false
  let s := s.exitLanes out (f.cause == 11)
  let e : PathEntry := { pc := pc, mask := mask, depth := f.depth, reason := .branch, age := 0, grant := 0, wait := .none }
  let s := s.onSt fun t =>
    { t with
      paths := Vector.ofFn fun i =>
        if i.val = f.pidx then if mask = 0 then PathEntry.free else e
        else if he.any fun e => e.1 = i then PathEntry.free else t.paths.get i
      tlevel := false, trap := none, stall := none
      clrw := t.clrw.filter fun w => !(lanes.getLsbD w.1) }
  let s : State := { s with blk := { s.blk with plq := s.blk.plq.filter fun q => q.rec_.isSome || q.sid != t.sid
    || !(he.any fun e => q.at_ == (e.2.pc, e.2.depth)) } }
  let s := if mask = 0 then s else s.traceTarget f.pidx pc
  let s := (s.settleBlock s.blk.id true).endStreetIfEmpty
  if s.st.haltReq && s.st.sid == t.sid && s.st.life == .running && mask != 0 then s.haltAt e else s

/-- RETURNING FROM A TRAP (R159): PC and MASK come back from the save area, from its offsets 0 and 8 and not from the copy in entry
PIDX's record (DESIGN CHOICE, log entry 71), and the handler ends, after the waits that a release of colours makes. -/
def State.trapReturn (s : State) (retry : Bool) : Res :=
  match s.st.trap with
  | none => .next (s.takeTrap 1 0 0)
  | some f =>
    if !s.st.tlevel then .next (s.takeTrap 1 0 0)
    else
      let t := s.st
      match translate s t.core s.blk.ctx t.tsave.toNat .read with
      | .fault x => .next (s.service x .trap)
      | .hole pa => .fault (.noMemory pa)
      | .ok pa pte ea base size =>
        if pteFMT pte != 0 then .next (s.takeTrap 4 0 t.tsave.toNat)
        else
        let s0 := touch s t.core s.blk.ctx .read pa pte ea base size
        match s0.readArea pa pte with
        | .wait s => .next (s.stalled .trap)
        | .broken s fa => .next (s.takeTrap 11 0 fa)
        | .bytes bs s =>
          let pc : Addr := BitVec.ofNat 64 (recNat bs 0 8)
          let mask : Mask := BitVec.ofNat 64 (recNat bs 8 8)
          let lanes := lanesOf t.handlerEntries
          let out := f.mask &&& ~~~mask
          let hs := t.handlerHolds
          let outs := t.holdsFrom out 0
          if mask &&& ~~~f.mask != 0 then .next (s.takeTrap 1 0 0)
          else if !(hs.isEmpty && outs.isEmpty) && s.remotePending t.sid then .next (s0.stalled .trap)
          else if (!hs.isEmpty && t.frameOps lanes (f.depth + 1)) || (!outs.isEmpty && t.frameOps out 0) then
            .next (s0.stalled .trap)
          else .next (s.endHandler f (if retry then pc else pc + 4) mask)

end Sys2Proof.Machine
end

