-- ==== Sys2Proof/Machine/Operands.lean ====
section
/-! DEFINITION. Every operand form of an instruction word: active lanes (R56), registers under windows (R28) and permutation
slots (R12), pairs and quads (R10, R23, R24), channels (R13, R25, R103, R205), the argument groups of format E (R14, R26),
and the one runner of the vector formats A, B, I, K and L. -/

namespace Sys2Proof.Machine

/-- MD.TYPE (R54). -/
def mdType (md : Addr) : Nat := bits md.toNat 0 4
/-- MD.RND. -/
def mdRnd (md : Addr) : Nat := bits md.toNat 4 2
/-- GUARD.REG. -/
def mdGuardReg (md : Addr) : RegNo := md.extractLsb' 6 6
/-- GUARD.POL. -/
def mdGuardPol (md : Addr) : Bool := md.getLsbD 12
/-- GUARD.EN. -/
def mdGuardEn (md : Addr) : Bool := md.getLsbD 13
/-- MD.SAT. -/
def mdSat (md : Addr) : Bool := md.getLsbD 14
/-- MD.FTZ. -/
def mdFtz (md : Addr) : Bool := md.getLsbD 15
/-- Kind and parameter of permutation slot 1, 2 or 3. -/
def mdPerm (md : Addr) (slot : Nat) : Nat × Nat := (bits md.toNat (14 + 8 * slot) 2, bits md.toNat (8 + 8 * slot) 6)
/-- MD.SCOPE. -/
def mdScope (md : Addr) : Nat := bits md.toNat 40 3
/-- MD.MCOV. -/
def mdMcov (md : Addr) : Nat := bits md.toNat 43 2
/-- MD.MRHO. -/
def mdMrho (md : Addr) : RegNo := md.extractLsb' 45 6
/-- MD.MVCLAMP. -/
def mdMvclamp (md : Addr) : Bool := md.getLsbD 51
/-- REMAP.PARAM. -/
def mdRemapParam (md : Addr) : Nat := bits md.toNat 52 6
/-- REMAP.REG. -/
def mdRemapReg (md : Addr) : RegNo := md.extractLsb' 58 6

/-- The lane whose value a permutation delivers to lane L (R12). -/
def permLane (kind k : Nat) (l : Lane) : Lane :=
  match kind with
  | 0 => Fin.ofNat 64 (l.val + k)
  | 1 => Fin.ofNat 64 k
  | 2 => Fin.ofNat 64 (l.val ^^^ k)
  | _ => Fin.ofNat 64 (k + 64 - l.val)

/-- A street vector seen through a permutation slot; slot 0 is the identity (R12, R21). -/
def SVec.permute (md : Addr) (slot : Nat) (v : SVec) : SVec :=
  if slot = 0 then v else SVec.gen fun l => v.lane (permLane (mdPerm md slot).1 (mdPerm md slot).2 l)

/-- The old value of a register in one lane under one window, when a read may still return it (R28). -/
def OldReg.pick (o : OldReg) (free : Bool) (l : Lane) (v : Word) : Word :=
  if o.m.has l && o.v.lane l != v && free then o.v.lane l else v

/-- A register as operand `k` of the instruction reads it: the value of the last write, or in a window the value before, a
free choice in each lane (R28, log entry 3). -/
def Street.readReg (t : Street) (tick k : Nat) (r : RegNo) : SVec :=
  let cur := t.regs.get r.toFin
  let olds := (t.windows.map fun w => w.olds.filter fun o => o.r == r.toNat).flatten
  if olds.isEmpty then cur
  else SVec.gen fun l =>
    (olds.foldl (fun (p : Nat × Word) o => (p.1 + 1, o.pick (Config.freeBit tick (4096 * k + 64 * p.1 + l.val)) l p.2))
      (0, cur.lane l)).2

/-- A register read by the street in focus. -/
def State.rdReg (s : State) (k : Nat) (r : RegNo) : SVec := s.st.readReg s.freeTick k r

/-- The active lanes (R56): the path's lanes that the guard lets run. At trap level 1 the guard is not applied (R158). -/
def State.active (s : State) : Mask :=
  let m := s.st.path.mask
  if mdGuardEn s.st.md && !s.st.tlevel then
    let g := s.rdReg 15 (mdGuardReg s.st.md)
    m &&& Mask.ofPred fun l => (g.lane l).getLsbD 0 == mdGuardPol s.st.md
  else m

/-- A source operand. -/
inductive Src where
  | reg (r : RegNo) (slot : Nat)
  | chan (c : RegNo) (pop : Bool)
deriving DecidableEq, Repr

/-- Whether a source is a channel. -/
def Src.isChan : Src → Bool
  | .chan _ _ => true
  | .reg _ _ => false

/-- R21. -/
def srcOfA (a : SrcA) : Src := if a.chan then .chan a.idx (a.p == 2) else .reg a.idx a.p.toNat

/-- R22. -/
def srcOfB (b : SrcB) : Src := if b.chan then .chan b.idx b.p else .reg b.idx (b2n b.p)

/-- Whether `words` registers from r on are declared and aligned as a pair or quad (R10, R23). -/
def regsOk (count : Nat) (r : RegNo) (words : Nat) : Bool := decide (r.toNat + words ≤ count) && r.toNat % words == 0

/-- Legality of a source of so many words; a pair through a channel only where R103 says so (R24). -/
def Src.ok (count : Nat) (pairChan : Bool) : Src → Nat → Bool
  | .reg r _, words => regsOk count r words
  | .chan _ _, words => words == 1 || (words == 2 && pairChan)

/-- Legality of a destination. -/
def dstOk (count : Nat) (pairChan : Bool) (d : Dst) (words : Nat) : Bool :=
  if d.chan then words == 1 || (words == 2 && pairChan) else regsOk count d.idx words

/-- The queue that a channel of the street in focus is bound to, below the declared channels (R205). -/
def State.queueOf (s : State) (c : RegNo) : Option Nat :=
  if c.toNat < s.blk.hdr.chans then s.st.chans.get c.toFin else none

/-- Whether a channel operand takes trap CHAN (R205). -/
def State.chanBad (s : State) : Src → Bool
  | .chan c _ => (s.queueOf c).isNone
  | .reg _ _ => false

/-- The entries of a hardware queue. -/
def State.queue (s : State) (q : Nat) : List SVec := (s.blk.queues.toArray.getD q { entries := [] }).entries

/-- Put the entries of a hardware queue. -/
def State.setQueue (s : State) (q : Nat) (es : List SVec) : State :=
  { s with blk := { s.blk with queues := s.blk.queues.setIfInBounds q { entries := es } } }

/-- An operand's words, the low word first. -/
abbrev Val := List SVec

/-- Word `i` of an operand in a lane, 0 where there is none. -/
def Val.word (v : Val) (i : Nat) (l : Lane) : Word := match v[i]? with | some x => x.lane l | none => 0

/-- The 64-bit value of an operand's first two words in a lane. -/
def Val.pair (v : Val) (l : Lane) : Addr := pairVal (v.word 0 l) (v.word 1 l)

/-- Look up a number kept by key, 0 when absent. -/
def lookN (l : List (Nat × Nat)) (k : Nat) : Nat := ((l.find? fun p => p.1 == k).map (·.2)).getD 0

/-- Put a number by key. -/
def putN (l : List (Nat × Nat)) (k v : Nat) : List (Nat × Nat) := (k, v) :: l.filter fun p => p.1 != k

/-- What reading the sources in order gives: values, entries needed and entries popped of each queue (R25). -/
structure Gathered where
  vals : List Val
  need : List (Nat × Nat)
  pops : List (Nat × Nat)

/-- Read one source after others (R25, R103). -/
def State.gather1 (s : State) (k : Nat) (g : Gathered) (x : Src × Nat) : Gathered :=
  match x.1 with
  | .reg r slot =>
    { g with vals := g.vals ++ [(List.range x.2).map fun i => SVec.permute s.st.md slot (s.rdReg (64 * k + i) (regPlus r i))] }
  | .chan c pop =>
    match s.queueOf c with
    | none => { g with vals := g.vals ++ [[]] }
    | some q =>
      let off := lookN g.pops q
      let es := s.queue q
      { vals := g.vals ++ [(List.range x.2).map fun i => es.getD (off + i) SVec.zero]
        need := putN g.need q (Nat.max (lookN g.need q) (off + x.2))
        pops := if pop then putN g.pops q (off + x.2) else g.pops }

/-- Read the sources in order. -/
def State.gather (s : State) (srcs : List (Src × Nat)) : Gathered :=
  (srcs.foldl (fun (p : Nat × Gathered) x => (p.1 + 1, s.gather1 p.1 p.2 x)) (0, ⟨[], [], []⟩)).2

/-- Whether every entry needed is present (R25). -/
def State.present (s : State) (g : Gathered) : Bool := g.need.all fun p => decide (p.2 ≤ (s.queue p.1).length)

/-- Remove the popped entries. -/
def State.popAll (s : State) (g : Gathered) : State := g.pops.foldl (fun s p => s.setQueue p.1 ((s.queue p.1).drop p.2)) s

/-- Entries of a queue that waiting loads of other streets of the block in focus, and of other paths of its street, have reserved
(R194). -/
def State.reserved (s : State) (q : Nat) : Nat :=
  (s.streets.filter fun t => t.there && t.block == s.blk.id).foldl (fun n t => n + (t.reserves.filter fun r => r.2 == q).length)
    (s.st.reserves.filter fun r => r.2 == q && r.1 != s.st.here).length

/-- Whether a queue has room for a push of so many vectors after the pops, beside the entries that others have reserved (R13, R103,
R194). -/
def State.roomFor (s : State) (g : Gathered) (d : Dst) (words : Nat) : Bool :=
  if d.chan then
    match s.queueOf d.idx with
    | some q => decide ((s.queue q).length - lookN g.pops q + s.reserved q + words ≤ 8)
    | none => true
  else true

/-- The queue in which the load of the path in use has reserved its entry (R194). -/
def Street.reservedQueue (t : Street) : Option Nat := (t.reserves.find? fun r => r.1 == t.here).map (·.2)

/-- Whether a load into a channel may go on: it has its entry, or its queue has room for one (R194). -/
def State.loadRoom (s : State) (d : Dst) : Bool := s.st.reservedQueue.isSome || s.roomFor ⟨[], [], []⟩ d 1

/-- A load into a channel reserves its entry at issue, in the queue to which the channel is bound then (R194, R207, R209). -/
def State.reserve (s : State) (d : Dst) : State :=
  match s.st.reservedQueue, s.queueOf d.idx with
  | none, some q => if d.chan then s.onSt fun t => { t with reserves := (t.here, q) :: t.reserves } else s
  | _, _ => s

/-- Push street vectors into a queue. -/
def State.pushTo (s : State) (q : Option Nat) (vs : List SVec) : State :=
  match q with
  | some q => s.setQueue q (s.queue q ++ vs)
  | none => s

/-- Push street vectors through a channel. -/
def State.push (s : State) (c : RegNo) (vs : List SVec) : State := s.pushTo (s.queueOf c) vs

/-- FADDR of ECC_UNC for a register or a queue entry found uncorrectable (R362). -/
def eccReg : Nat := 8
@[inherit_doc eccReg] def eccQueue : Nat := 16

/-- Whether a source meets an uncorrectable word in the lanes it reads, and the FADDR it gives (R362, R365; log entry 78). -/
def State.srcBroken (s : State) (lanes : Mask) (x : Src × Nat) : Option Nat :=
  if s.upsets.isEmpty then none
  else
    match x.1 with
    | .reg r slot =>
      if (List.range x.2).any fun i => allLanes.any fun l =>
          (slot != 0 || lanes.has l) && s.broken (.reg s.st.sid (r.toNat + i) l.val) then some eccReg else none
    | .chan c _ =>
      match s.queueOf c with
      | some q => if s.broken (.queue s.blk.id q) then some eccQueue else none
      | none => none

/-- Open the lookahead window of a long-latency instruction that has just been performed (R27): reads in it may still return
the values that `before` held in registers `rs`, lanes `m`; and SR without the flags it set. The issue rule counts the opener too. -/
def Street.openWin (t before : Street) (la : Nat) (rs : List Nat) (m : Mask) : Street :=
  if la = 0 then t
  else
    { t with windows :=
        { left := la + 1, olds := rs.map fun r => { r := r, m := m, v := before.regs.toArray.getD r SVec.zero }
          flags := t.sr &&& ~~~before.sr, since := none, pan := none } :: t.windows }

/-- Write an operand of one or more words into registers from r on, in lanes m. -/
def Street.setRegs (t : Street) (r : RegNo) (m : Mask) (vs : List SVec) : Street :=
  (vs.foldl (fun (p : Nat × Street) v => (p.1 + 1, p.2.setReg (regPlus r p.1) m v)) (0, t)).2

/-- Deliver a result: to registers, or as a push, in which inactive lanes carry zero (R13). -/
def State.deliver (s : State) (d : Dst) (m : Mask) (vs : List SVec) : State :=
  if d.chan then s.push d.idx (vs.map fun v => SVec.blend m v SVec.zero)
  else (s.rewrote d.idx vs.length m).onSt fun t => t.setRegs d.idx m vs

/-- A vector instruction of formats A, B, I, K or L: sources in reading order with their words, destination, the entry's own
legality, whether pairs may pass channels, the weigh counter with its count per lane, the result of a lane from the lanes
that take part and the source values, and whether they hold a bad moment input that traps (R131). -/
structure VecOp where
  u        : Bool
  la       : Nat
  ok       : Bool
  srcs     : List (Src × Nat)
  dst      : Dst
  dwords   : Nat
  pairChan : Bool
  cnt      : Nat × Nat
  f        : Mask → List Val → Lane → Addr × Word
  mvar     : Mask → List Val → Bool := fun _ _ => false

/-- Whether an operation is legal here (R40 steps 5 to 7). -/
def State.vecOk (s : State) (o : VecOp) : Bool :=
  o.ok && (o.srcs.all fun x => x.1.ok s.blk.hdr.regs o.pairChan x.2) && dstOk s.blk.hdr.regs o.pairChan o.dst o.dwords

/-- Whether a channel operand of an operation takes CHAN (R205). -/
def State.vecChanBad (s : State) (o : VecOp) : Bool :=
  (o.srcs.any fun x => s.chanBad x.1) || (o.dst.chan && (s.queueOf o.dst.idx).isNone)

/-- The lanes whose operands an execution uses: the active lanes, or lane 0 under U = 1 (R63). -/
def lanesUsed (u : Bool) (act : Mask) : Mask := if u then 1 else act

/-- The results of an execution: each lane's value and flags, computed once (R7, R63). -/
def VecOp.results (o : VecOp) (act : Mask) (vals : List Val) : Vector (Addr × Word) 64 :=
  if o.u then let r := o.f 1 vals 0; Vector.replicate 64 r
  else Vector.ofFn fun l => if act.has l then o.f act vals l else (0, 0)

/-- Word `i` of the results. -/
def resWord (r : Vector (Addr × Word) 64) (i : Nat) : SVec := SVec.gen fun l => (r.get l).1.extractLsb' (32 * i) 32

/-- The effect of a vector instruction whose operands are there. -/
def State.vecEffect (s : State) (o : VecOp) (act : Mask) (g : Gathered) : State :=
  let r := o.results act g.vals
  let m := if o.u then Mask.all else act
  let before := s.st
  let s := s.popAll g
  let s := s.onSt fun t => t.setFlags (orFlags (lanesUsed o.u act).lanes fun l => (r.get l).2)
  let s := s.deliver o.dst m ((List.range o.dwords).map (resWord r))
  let s := s.onSt fun t => t.openWin before o.la
    (if o.dst.chan then [] else (List.range o.dwords).map fun i => o.dst.idx.toNat + i) m
  let s := s.weighSt o.cnt.1 (o.cnt.2 * (lanesUsed o.u act).lanes.length)
  s.done

/-- The words of a source of an instruction that takes no ECC_UNC: nothing constrains a lane whose word is uncorrectable; of a permuted
source or a queue entry, which do not tell the lane, any (R90, R108, R129, R365; log entry 78). -/
def State.srcWords (s : State) (lanes : Mask) (k : Nat) (x : Src × Nat) (v : Val) : Val :=
  if (s.srcBroken lanes x).isNone then v
  else v.zipIdx.map fun p => SVec.gen fun l =>
    let bad : Bool := match x.1 with
      | .reg r slot => slot != 0 || s.broken (.reg s.st.sid (r.toNat + p.2) l.val)
      | .chan _ _ => true
    if bad then Config.freeWord s.freeTick (2 ^ 70 + 4096 * k + 64 * p.2 + l.val) else p.1.lane l

/-- The same of every source of an instruction. -/
def State.takeWords (s : State) (lanes : Mask) (srcs : List (Src × Nat)) (vals : List Val) : List Val :=
  vals.zipIdx.map fun p => match srcs[p.2]? with | some x => s.srcWords lanes p.2 x p.1 | none => p.1

/-- An uncorrectable source leaves a machine-check record; an entry that is popped takes its error with it (R365). -/
def State.brokenTaken (s : State) (lanes : Mask) (srcs : List (Src × Nat)) (pops : List (Nat × Nat)) : State :=
  if srcs.all fun x => (s.srcBroken lanes x).isNone then s
  else pops.foldl (fun s p => s.mend (.queue s.blk.id p.1)) s.sramError

/-- Run a vector instruction (R7, R13, R25, R40, R56, R63); an uncorrectable source takes no trap (R90, R108, R129; log entry 78). -/
def State.runVec (s : State) (o : VecOp) : State :=
  if !s.vecOk o then s.takeTrap 1 0 0
  else if s.vecChanBad o then s.takeTrap 9 0 0
  else
    let act := s.active
    if act = 0 then s.done
    else
      let g := s.gather o.srcs
      if !s.present g then s.stalled .chanEmpty
      else if !s.roomFor g o.dst o.dwords then s.stalled .chanFull
      else
        let lanes := lanesUsed o.u act
        let g := { g with vals := s.takeWords lanes o.srcs g.vals }
        if o.mvar lanes g.vals then s.takeTrap 5 0 0 else (s.brokenTaken lanes o.srcs g.pops).vecEffect o act g

/-- A destination that is a register. -/
def regDst (r : RegNo) : Dst := ⟨false, r⟩

/-- A format A operation on 32-bit lanes (R90 to R97). -/
def vecA (w : FA) (f : Word → Word → Word × Word) : VecOp :=
  { u := w.u, la := 0, ok := true, srcs := [(srcOfA w.a, 1), (srcOfB w.b, 1)], dst := w.d, dwords := 1, pairChan := false
    cnt := (14, 1)
    f := fun _ vs l => let r := f ((vs.getD 0 []).word 0 l) ((vs.getD 1 []).word 0 l); (pairVal r.1 0, r.2) }

/-- A format A operation on 32-bit lanes that also reads d (R23). -/
def vecA3 (w : FA3) (f : Word → Word → Word → Word × Word) : VecOp :=
  { u := w.u, la := 0, ok := true, srcs := [(srcOfA w.a, 1), (srcOfB w.b, 1), (.reg w.d 0, 1)], dst := regDst w.d, dwords := 1
    pairChan := false, cnt := (14, 1)
    f := fun _ vs l =>
      let r := f ((vs.getD 0 []).word 0 l) ((vs.getD 1 []).word 0 l) ((vs.getD 2 []).word 0 l); (pairVal r.1 0, r.2) }

/-- A format B operation on 32-bit lanes (R100). -/
def vecB (w : FB) (f : Word → Word × Word) : VecOp :=
  { u := w.u, la := 0, ok := true, srcs := [(srcOfA w.a, 1)], dst := w.d, dwords := 1, pairChan := false, cnt := (14, 1)
    f := fun _ vs l => let r := f ((vs.getD 0 []).word 0 l); (pairVal r.1 0, r.2) }

/-- A format K operation (R106). -/
def vecK (w : FK) (f : Word → Word × Word) : VecOp :=
  { u := w.u, la := 0, ok := true, srcs := [(.reg w.a 0, 1)], dst := regDst w.d, dwords := 1, pairChan := false, cnt := (14, 1)
    f := fun _ vs l => let r := f ((vs.getD 0 []).word 0 l); (pairVal r.1 0, r.2) }

/-- Read 32 bits of the argument group of a format E instruction or of a street-wide operand: lane 0 under U = 1, else the
lowest active lane (R14, R26). -/
def argLane (u : Bool) (act : Mask) : Lane := if u then 0 else act.lowest.getD 0

/-- A 64-bit pair of the argument group. -/
def State.argPair (s : State) (l : Lane) (k : Nat) (r : RegNo) : Addr :=
  pairVal ((s.rdReg k r).lane l) ((s.rdReg (k + 1) (regPlus r 1)).lane l)

end Sys2Proof.Machine
end

