-- ==== Sys2Proof/Machine/Integer.lean ====
section
/-! DEFINITION. Integer, logic and lane-movement instructions (R90 to R107): one meaning per instruction over the shared
runner. -/

namespace Sys2Proof.Machine

/-- The clamp of R91 on an exact integer, with SR.SAT when it acts; without SAT the integer wraps. -/
def satOr (sat : Bool) (x : Int) : Word × Word :=
  if sat then
    if x < -2147483648 then (0x80000000, flSAT)
    else if 2147483647 < x then (0x7FFFFFFF, flSAT)
    else (BitVec.ofInt 32 x, 0)
  else (BitVec.ofInt 32 x, 0)

/-- A result that sets no flag. -/
def plain (x : Word) : Word × Word := (x, 0)

/-- R94: shift left by the whole of n(b). -/
def shlW (a b : Word) : Word := if b.toNat ≤ 31 then a <<< b.toNat else 0
/-- R94: logical shift right. -/
def shrW (a b : Word) : Word := if b.toNat ≤ 31 then a >>> b.toNat else 0
/-- R94: arithmetic shift right. -/
def sarW (a b : Word) : Word := if b.toNat ≤ 31 then a.sshiftRight b.toNat else if a.msb then ones else 0
/-- R94: rotate left by n(b) mod 32. -/
def rotlW (a b : Word) : Word := a.rotateLeft (b.toNat % 32)

/-- R97: the mask of a field descriptor's length. -/
def bfMask (b : Word) : Nat := 2 ^ bits b.toNat 5 5 - 1
/-- R97: BFX. -/
def bfxW (a b : Word) : Word := BitVec.ofNat 32 ((a.toNat >>> bits b.toNat 0 5) &&& bfMask b)
/-- R97: BFI of a into d. -/
def bfiW (a b d : Word) : Word :=
  let m : Word := BitVec.ofNat 32 (bfMask b * 2 ^ bits b.toNat 0 5)
  (d &&& ~~~m) ||| BitVec.ofNat 32 ((a.toNat &&& bfMask b) * 2 ^ bits b.toNat 0 5)

/-- R100: the number of 1 bits. -/
def popcW (a : Word) : Word := BitVec.ofNat 32 ((List.range 32).foldl (fun n i => n + b2n (a.getLsbD i)) 0)
/-- R100: the number of 0 bits above the highest 1 bit. -/
def clzW (a : Word) : Word := BitVec.ofNat 32 (32 - (if a.toNat = 0 then 0 else Nat.log2 a.toNat + 1))
/-- R100: bit i moved to bit 31 − i. -/
def brevW (a : Word) : Word := a.reverse

/-- IADD (R93). -/
def execIadd (w : FA) (s : State) : Res := .next (s.runVec (vecA w fun a b => satOr (mdSat s.st.md) (a.toInt + b.toInt)))
/-- ISUB (R93). -/
def execIsub (w : FA) (s : State) : Res := .next (s.runVec (vecA w fun a b => satOr (mdSat s.st.md) (a.toInt - b.toInt)))
/-- IMUL (R93). -/
def execImul (w : FA) (s : State) : Res := .next (s.runVec (vecA w fun a b => satOr (mdSat s.st.md) (a.toInt * b.toInt)))
/-- IMULH (R93). -/
def execImulh (w : FA) (s : State) : Res :=
  .next (s.runVec (vecA w fun a b => plain (BitVec.ofInt 32 (a.toInt * b.toInt / 2 ^ 32))))
/-- NMULH (R93). -/
def execNmulh (w : FA) (s : State) : Res :=
  .next (s.runVec (vecA w fun a b => plain (BitVec.ofNat 32 (a.toNat * b.toNat / 2 ^ 32))))
/-- IMAD (R93): one clamp on the exact sum. -/
def execImad (w : FA3) (s : State) : Res :=
  .next (s.runVec (vecA3 w fun a b d => satOr (mdSat s.st.md) (a.toInt * b.toInt + d.toInt)))
/-- IMIN (R93). -/
def execImin (w : FA) (s : State) : Res := .next (s.runVec (vecA w fun a b => plain (if a.toInt ≤ b.toInt then a else b)))
/-- IMAX (R93). -/
def execImax (w : FA) (s : State) : Res := .next (s.runVec (vecA w fun a b => plain (if b.toInt ≤ a.toInt then a else b)))
/-- NMIN (R93). -/
def execNmin (w : FA) (s : State) : Res := .next (s.runVec (vecA w fun a b => plain (if a.toNat ≤ b.toNat then a else b)))
/-- NMAX (R93). -/
def execNmax (w : FA) (s : State) : Res := .next (s.runVec (vecA w fun a b => plain (if b.toNat ≤ a.toNat then a else b)))
/-- AND (R93). -/
def execAnd (w : FA) (s : State) : Res := .next (s.runVec (vecA w fun a b => plain (a &&& b)))
/-- OR (R93). -/
def execOr (w : FA) (s : State) : Res := .next (s.runVec (vecA w fun a b => plain (a ||| b)))
/-- XOR (R93). -/
def execXor (w : FA) (s : State) : Res := .next (s.runVec (vecA w fun a b => plain (a ^^^ b)))
/-- ANDN (R93). -/
def execAndn (w : FA) (s : State) : Res := .next (s.runVec (vecA w fun a b => plain (a &&& ~~~b)))
/-- SHL (R94). -/
def execShl (w : FA) (s : State) : Res := .next (s.runVec (vecA w fun a b => plain (shlW a b)))
/-- SHR (R94). -/
def execShr (w : FA) (s : State) : Res := .next (s.runVec (vecA w fun a b => plain (shrW a b)))
/-- SAR (R94). -/
def execSar (w : FA) (s : State) : Res := .next (s.runVec (vecA w fun a b => plain (sarW a b)))
/-- ROTL (R94). -/
def execRotl (w : FA) (s : State) : Res := .next (s.runVec (vecA w fun a b => plain (rotlW a b)))
/-- SEL (R96). -/
def execSel (w : FA3) (s : State) : Res :=
  .next (s.runVec (vecA3 w fun a b d => plain (if d.getLsbD 0 then a else b)))
/-- ISEQ (R95). -/
def execIseq (w : FA) (s : State) : Res := .next (s.runVec (vecA w fun a b => plain (predWord (a == b))))
/-- ISNE (R95). -/
def execIsne (w : FA) (s : State) : Res := .next (s.runVec (vecA w fun a b => plain (predWord (a != b))))
/-- ISLT (R95). -/
def execIslt (w : FA) (s : State) : Res := .next (s.runVec (vecA w fun a b => plain (predWord (decide (a.toInt < b.toInt)))))
/-- ISLE (R95). -/
def execIsle (w : FA) (s : State) : Res := .next (s.runVec (vecA w fun a b => plain (predWord (decide (a.toInt ≤ b.toInt)))))
/-- NSLT (R95). -/
def execNslt (w : FA) (s : State) : Res := .next (s.runVec (vecA w fun a b => plain (predWord (decide (a.toNat < b.toNat)))))
/-- NSLE (R95). -/
def execNsle (w : FA) (s : State) : Res := .next (s.runVec (vecA w fun a b => plain (predWord (decide (a.toNat ≤ b.toNat)))))
/-- BFX (R97). -/
def execBfx (w : FA) (s : State) : Res := .next (s.runVec (vecA w fun a b => plain (bfxW a b)))
/-- BFI (R97). -/
def execBfi (w : FA3) (s : State) : Res := .next (s.runVec (vecA3 w fun a b d => plain (bfiW a b d)))

/-- PERM (R98, R99): the lane of a' that the low six bits of b select. -/
def execPerm (w : FA) (s : State) : Res :=
  .next (s.runVec { vecA w (fun a _ => plain a) with
    f := fun _ vs l =>
      (pairVal ((vs.getD 0 []).word 0 (Fin.ofNat 64 (bits ((vs.getD 1 []).word 0 l).toNat 0 6))) 0, 0) })

/-- MOV (R100). -/
def execMov (w : FB) (s : State) : Res := .next (s.runVec (vecB w plain))
/-- NOT (R100). -/
def execNot (w : FB) (s : State) : Res := .next (s.runVec (vecB w fun a => plain (~~~a)))
/-- INEG (R100). -/
def execIneg (w : FB) (s : State) : Res := .next (s.runVec (vecB w fun a => satOr (mdSat s.st.md) (-a.toInt)))
/-- IABS (R100). -/
def execIabs (w : FB) (s : State) : Res := .next (s.runVec (vecB w fun a => satOr (mdSat s.st.md) a.toInt.natAbs))
/-- POPC (R100). -/
def execPopc (w : FB) (s : State) : Res := .next (s.runVec (vecB w fun a => plain (popcW a)))
/-- CLZ (R100). -/
def execClz (w : FB) (s : State) : Res := .next (s.runVec (vecB w fun a => plain (clzW a)))
/-- BREV (R100). -/
def execBrev (w : FB) (s : State) : Res := .next (s.runVec (vecB w fun a => plain (brevW a)))

/-- R101: the lanes of a mask whose bit 0 of an operand is set. -/
def voters (m : Mask) (vs : List Val) : Mask := m &&& Mask.ofPred fun l => ((vs.getD 0 []).word 0 l).getLsbD 0

/-- VOTEANY (R99, R101). -/
def execVoteany (w : FB) (s : State) : Res :=
  .next (s.runVec { vecB w plain with f := fun m vs _ => (pairVal (predWord (voters m vs != 0)) 0, 0) })
/-- VOTEALL (R99, R101). -/
def execVoteall (w : FB) (s : State) : Res :=
  .next (s.runVec { vecB w plain with f := fun m vs _ => (pairVal (predWord (voters m vs == m)) 0, 0) })
/-- BALLOT (R99, R101, R103): the mask into a pair, or as two pushes. -/
def execBallot (w : FB) (s : State) : Res :=
  .next (s.runVec { vecB w plain with dwords := 2, pairChan := true, f := fun m vs _ => (voters m vs, 0) })

/-- Elements per lane of a type code (R68). -/
def tyElems (ty : Nat) : Nat :=
  match ty with
  | 3 | 4 | 5 | 6 => 2
  | 7 | 8 => 4
  | _ => 1

/-- Element width in bits of a type code (R68). -/
def tyWidth (ty : Nat) : Nat :=
  match ty with
  | 0 | 1 | 2 => 32
  | 7 | 8 => 8
  | 9 => 64
  | _ => 16

/-- Words an operand of a type takes (R24). -/
def tyWords (ty : Nat) : Nat := if ty = 9 then 2 else 1

/-- The floating format of a type code. -/
def tyFmt (ty : Nat) : Option Fmt :=
  match ty with
  | 2 => some f32
  | 3 | 10 => some f16
  | 4 | 11 => some bf16
  | _ => none

/-- Whether a type code is a signed integer type. -/
def tySigned (ty : Nat) : Bool := ty == 0 || ty == 5 || ty == 7 || ty == 9

/-- Element `i` of an operand's lane value. -/
def tyElem (ty : Nat) (x : Addr) (i : Nat) : Nat := bits x.toNat (i * tyWidth ty) (tyWidth ty)

/-- R102: whether an element counts as nonzero: the sign bit of a floating element does not. -/
def nonzeroElem (ty x : Nat) : Bool := match tyFmt ty with | some _ => x % 2 ^ (tyWidth ty - 1) != 0 | none => x != 0

/-- NNZ (R102, R103). -/
def execNnz (w : FB) (s : State) : Res :=
  let ty := mdType s.st.md
  let n := tyWords ty
  .next (s.runVec { vecB w plain with
    srcs := [(srcOfA w.a, n)], dwords := n, pairChan := true
    f := fun _ vs l =>
      let x := (vs.getD 0 []).pair l
      (BitVec.ofNat 64 ((List.range (tyElems ty)).foldl (fun k i => k + b2n (nonzeroElem ty (tyElem ty x i))) 0), 0) })

/-- R104: element e of the destination vector from the elements of a' and of the old d. -/
def slideElem (up : Bool) (fill : Fill) (k total : Nat) (a : Nat → Nat) (old e : Nat) : Nat :=
  let j : Int := if up then (e : Int) - k else (e : Int) + k
  if 0 ≤ j ∧ j < total then a j.toNat
  else
    match fill with
    | .zero => 0
    | .edge => if up then a 0 else a (total - 1)
    | .old => old
    | .wrap => a (j % total).toNat

/-- SLIDE (R103, R104). -/
def execSlide (w : FSlide) (s : State) : Res :=
  let ty := mdType s.st.md
  let n := tyWords ty
  let ne := tyElems ty
  let wd := tyWidth ty
  let srcs := (srcOfA w.a, n) :: (if w.fill = .old then [(.reg w.d.idx 0, n)] else [])
  .next (s.runVec
    { u := w.u, la := 0, ok := true, srcs := srcs, dst := w.d, dwords := n, pairChan := true, cnt := (14, 1)
      f := fun _ vs l =>
        let a (e : Nat) : Nat := tyElem ty ((vs.getD 0 []).pair (Fin.ofNat 64 (e / ne))) (e % ne)
        let old := (vs.getD 1 []).pair l
        (BitVec.ofNat 64 ((List.range ne).foldl (fun x i =>
          x + slideElem w.up w.fill w.k.toNat (64 * ne) a (tyElem ty old i) (l.val * ne + i) * 2 ^ (i * wd)) 0), 0) })

/-- LI (R105): the immediate, or with h its bits over the low 15 bits of d. -/
def execLi (w : FI) (s : State) : Res :=
  .next (s.runVec
    { u := w.u, la := 0, ok := true, srcs := if w.h then [(.reg w.d 0, 1)] else [], dst := regDst w.d, dwords := 1
      pairChan := false, cnt := (14, 1)
      f := fun _ vs l =>
        (pairVal (if w.h then (w.imm ++ ((vs.getD 0 []).word 0 l).extractLsb' 0 15) else w.imm.signExtend 32) 0, 0) })

/-- The sign-extended immediate of format K (R106). -/
def FK.i (w : FK) : Word := w.imm.signExtend 32

/-- IADDI (R106). -/
def execIaddi (w : FK) (s : State) : Res :=
  .next (s.runVec (vecK w fun a => satOr (mdSat s.st.md) (a.toInt + (FK.i w).toInt)))
/-- ANDI (R106). -/
def execAndi (w : FK) (s : State) : Res := .next (s.runVec (vecK w fun a => plain (a &&& FK.i w)))
/-- ORI (R106). -/
def execOri (w : FK) (s : State) : Res := .next (s.runVec (vecK w fun a => plain (a ||| FK.i w)))
/-- XORI (R106). -/
def execXori (w : FK) (s : State) : Res := .next (s.runVec (vecK w fun a => plain (a ^^^ FK.i w)))
/-- SHLI (R106). -/
def execShli (w : FK) (s : State) : Res := .next (s.runVec (vecK w fun a => plain (shlW a (FK.i w))))
/-- SHRI (R106). -/
def execShri (w : FK) (s : State) : Res := .next (s.runVec (vecK w fun a => plain (shrW a (FK.i w))))
/-- SARI (R106). -/
def execSari (w : FK) (s : State) : Res := .next (s.runVec (vecK w fun a => plain (sarW a (FK.i w))))
/-- ISLTI (R106). -/
def execIslti (w : FK) (s : State) : Res :=
  .next (s.runVec (vecK w fun a => plain (predWord (decide (a.toInt < (FK.i w).toInt)))))

end Sys2Proof.Machine
end

