-- ==== Sys2Proof/Machine/Bfp.lean ====
section
/-! DEFINITION. Page formats (R76 to R86): containers and blocks, the decoding and encoding every agent shares, and the scale
address. -/

namespace Sys2Proof.Machine

/-- Whether a page format is block floating point (R82). -/
def fmtBfp (fmt : Nat) : Bool := decide (1 ≤ fmt) && decide (fmt ≤ 7)

/-- Mantissa width of a block format (R82). -/
def fmtW (fmt : Nat) : Nat := fmt + 1

/-- Container bits of an element of a page format (R77, R85). -/
def fmtC (fmt : Nat) : Nat :=
  match fmt with
  | 1 => 2
  | 2 | 3 => 4
  | 4 | 5 | 6 | 7 => 8
  | 8 | 9 => 16
  | _ => 32

/-- Block length of a BL code (R82). -/
def blLen (bl : Nat) : Nat := 8 * 2 ^ bl

/-- Log2 of the block bytes (R77). -/
def blShift (fmt bl : Nat) : Nat := Nat.log2 (blLen bl * fmtC fmt / 8)

/-- The floating format of page formats 8, 9 and 10 (R82). -/
def fmtFloat (fmt : Nat) : Fmt := if fmt = 8 then f16 else if fmt = 9 then bf16 else f32

/-- The mantissa in the low w bits of a container, in two's complement (R77). -/
def mantOf (w c : Nat) : Int := (BitVec.ofNat w c).toInt

/-- The f32 value of a mantissa under an exponent byte (R76, R78). -/
def bfpDecode (w e c : Nat) : Nat :=
  if e = 255 then 0x7FC00000
  else
    let m := mantOf w c
    (f32.round 0 false (decide (m < 0)) m.natAbs ((e : Int) - 127 - (w - 1))).1

/-- Steps 4 and 5 of R79: the mantissa of a finite f32 value under an exponent byte, and whether it saturated. -/
def bfpMant (w e x : Nat) : Int × Bool :=
  match f32.num x with
  | .inf _ => (0, false)
  | .fin s m k =>
    let q := (quantize 0 s m (k + 127 + (w - 1) - e) 0).1
    let top := 2 ^ (w - 1) - 1
    let v := if top < q then top else q
    (if s then -(v : Int) else v, decide (top < q))

/-- A mantissa sign-extended into a container of c bits (R77). -/
def mantBits (c : Nat) (m : Int) : Nat := (BitVec.ofInt c m).toNat

/-- Whether an f32 value is NaN or infinite. -/
def f32Special (x : Nat) : Bool := f32.expo x == 255

/-- R79: the exponent byte of a block of f32 values: 0xFF for a NaN or an infinity, 0 for zeros, else from the largest. -/
def bfpExp (xs : List Nat) : Nat :=
  if xs.any f32Special then 255
  else
    let m := xs.foldl (fun m x => Nat.max m (x % 2 ^ 31)) 0
    if m = 0 then 0
    else
      match f32.num m with
      | .inf _ => 255
      | .fin _ k e =>
        let v : Int := (Nat.log2 k : Int) + e + 128
        if v < 0 then 0 else if 254 < v then 254 else v.toNat

/-- R79: a whole block encoded: exponent byte, mantissas, and whether any saturated. -/
def bfpEncode (w : Nat) (xs : List Nat) : Nat × List Int × Bool :=
  let e := bfpExp xs
  if e = 255 then (255, xs.map fun _ => 0, false)
  else
    let ms := xs.map (bfpMant w e)
    let vs := ms.map (·.1)
    (if vs.all (· == 0) then 0 else e, vs, ms.any (·.2))

/-- A scale-base table entry (R83): VALID, SHIFT, origin and BASE. -/
structure ScaleEntry where
  valid  : Bool
  shift  : Nat
  origin : Nat
  base   : Nat
deriving DecidableEq, Repr

/-- The canonical address whose low 57 bits are given: bits [63:57] repeat bit 56 (R190). -/
def canon57 (a : Nat) : Nat := if bit a 56 then a + (2 ^ 64 - 2 ^ 57) else a

/-- The scale-base entry that an agent uses for a leaf at an address: the one it has cached with the translation, else as the table
stands (R83, log entry 7); its ORIGIN and BASE are canonical addresses (DEDUCED, log entry 55). A table that does not translate gives an entry that is not valid (DESIGN CHOICE, log entry 55). -/
def scaleEntry (s : State) (agent : Nat) (ctx : CtxDesc) (pte va : Nat) : ScaleEntry :=
  let cached := ((s.tlb? agent ctx.ctxid (va % 2 ^ 57)).filter fun e => e.pte == pte).bind (·.scale)
  match (match cached with | some w => some w | none => s.scaleWords ctx pte) with
  | none => ⟨false, 0, 0, 0⟩
  | some w => ⟨bit w.2 63, bits w.2 57 6, canon57 (bits w.2 7 50 * 128), canon57 (bits w.1 0 57)⟩

/-- The address of the scale byte of the block that holds an element byte (R84); none where the entry is not valid or its
SHIFT does not fit the page. -/
def scaleAddr (s : State) (agent : Nat) (ctx : CtxDesc) (pte va : Nat) : Option Nat :=
  let e := scaleEntry s agent ctx pte va
  if e.valid && e.shift == blShift (pteFMT pte) (pteBL pte) then
    let d : Int := (BitVec.ofInt 64 ((va : Int) - e.origin)).toInt
    some (BitVec.ofInt 64 ((e.base : Int) + d / 2 ^ e.shift)).toNat
  else none

/-- Replace the container of element `i`, counted in bits from the start of some bytes. -/
def putBits (bs : List Byte) (lo c v : Nat) : List Byte :=
  let x := leNat bs
  leBytes bs.length (x - bits x lo c * 2 ^ lo + v % 2 ^ c * 2 ^ lo)

end Sys2Proof.Machine
end

