-- ==== Sys2Proof/Machine/Pair.lean ====
section
/-! DEFINITION. Paired streets (R366 to R368): the CRC of their records, the pair buffer, and the waits at compare points. -/

namespace Sys2Proof.Machine

/-- One step of the CRC over eight bits (R367): ECMA-182, no reflection. -/
def crcBits : Nat → Nat → Nat
  | 0, c => c
  | n + 1, c => crcBits n (if c.testBit 63 then (2 * c % 2 ^ 64) ^^^ 0x42F0E1EBA9EA3693 else 2 * c)

/-- Fold bytes into a CRC-64 (R367). -/
def crc64 (c : Nat) (bs : List Byte) : Nat := bs.foldl (fun c b => crcBits 8 (c ^^^ (b.toNat * 2 ^ 56))) c

/-- Fold a record into the CRC of a street (R367). -/
def Pair.fold (p : Pair) (kind addr : Nat) (data : List Byte) : Pair :=
  { p with
    crc := BitVec.ofNat 64 (crc64 p.crc.toNat (leBytes 1 kind ++ leBytes 8 addr ++ leBytes 1 data.length ++ data))
    count := p.count + 1 }

/-- Fold a record of the street in focus when it is paired. -/
def State.record (s : State) (kind addr : Nat) (data : List Byte) : State :=
  match s.st.pair with
  | none => s
  | some p => s.onSt fun t => { t with pair := some (p.fold kind addr data) }

/-- Hold a store of the street in focus in its pair buffer (R367). -/
def State.holdStore (s : State) (h : HeldStore) : State :=
  match s.st.pair with
  | none => s
  | some p => s.onSt fun t => { t with pair := some { p with stores := p.stores ++ [h] } }

/-- The checkpoint of a street now (R368). -/
def Street.checkpoint (t : Street) : Checkpoint := 
  { regs := t.regs, md := t.md, sr := t.sr, paths := t.paths, hscr := t.hscr, tlevel := t.tlevel, trap := t.trap }

/-- A street begins to wait at a compare point (R367, R368): the record of KIND 4 is folded. -/
def State.pairWait (s : State) (p : Pair) (cause : Nat) : State :=
  let p := if p.waiting.isSome then p
    else { (p.fold 4 0 (leBytes 1 cause)) with waiting := some (cause, s.clock) }
  (s.onSt fun t => { t with pair := some p }).stalled .pair

/-- The registers in which two register files differ. -/
def changedRegs (a b : Vector SVec 64) : List OldReg :=
  (List.finRange 64).filterMap fun r =>
    if a.get r = b.get r then none else some { r := r.val, m := Mask.all, v := b.get r }

/-- A compared street goes on: a checkpoint is taken at the state the causing access leaves (R368). -/
def Street.afterCompare (t : Street) : Street :=
  match t.pair with
  | none => t
  | some p => { t with pair := some { p with go := false, folded := false, check := some t.checkpoint } }

/-- The twin takes what its primary's access returned: registers, flags, the path table and the holds (R368). -/
def Street.takeResult (t : Street) (before after : Street) : Street :=
  let t := (changedRegs before.regs after.regs).foldl (fun t o => t.setReg (BitVec.ofNat 6 o.r) o.m o.v) t
  { t with paths := after.paths, holds := after.holds, sr := t.sr ||| after.sr, stall := none }

/-- Give the twin, which has folded its records, the values that the causing access returned (R368). Where it acquired a colour, the
twin's L1 is emptied too, and its hold table written (R185, R219, R220). -/
def State.tellTwin (before s : State) (p : Pair) : State :=
  let rs := changedRegs before.st.regs s.st.regs
  let s := { s with upsets := s.upsets.filter fun u => !(rs.any fun o => errInRegs u.1 p.twin o.r 1 o.m) }
  let s := s.onStreet p.twin fun t => if t.pair.any (·.folded) then (t.takeResult before.st s.st).afterCompare else t
  if s.st.holds == before.st.holds then s
  else
    let s := s.writeHolds p.twin
    match s.street? p.twin with
    | some u => (s.l1Flush u.core).onStreet p.twin (·.forget s.clock)
    | none => s

/-- Whether the street's twin has yet to fold the records of an access that both have been let through to (R367). -/
def State.twinBehind (s : State) (p : Pair) : Bool :=
  match s.street? p.twin with
  | some u => u.life == .running && (u.pair.any fun q => q.go && !q.folded)
  | none => false

/-- Whether the twin, the primary, has yet to make the access that both have been let through to: what the second does from there on
comes after the primary's stores and reductions (R65, R367, R368). -/
def State.primaryBehind (s : State) (p : Pair) : Bool :=
  match s.street? p.twin with
  | some u => u.life != .exited && u.life != .contained && u.pair.any (·.go)
  | none => false

/-- Whether the street's twin can go on no more. -/
def State.twinGone (s : State) (p : Pair) : Bool := match s.street? p.twin with | some u => u.life == .contained | none => true

/-- What the twin makes of an access that its primary performs for both (R356, R367, R368): the records, with its own operands, and
its counts, as a run of the meaning shows them; every other effect is the primary's. Where the run takes a trap or meets a fault that
is serviced, so does the twin; where it stalls without a record, the twin tries again. -/
def State.foldAccess (s : State) (p : Pair) (k : State → Res) : Res :=
  match k { s with wdeltas := [] } with
  | .next t =>
    if t.st.svc.isSome then k s
    else if t.st.tlevel && !s.st.tlevel || t.st.life != .running then
      match k s with
      | .next t => .next (t.onSt Street.afterCompare)
      | r => r
    else if t.st.stall.isSome && (t.st.pair.any fun q => q.count == p.count) then .next { s with st := { s.st with stall := t.st.stall } }
    else
      let q := t.st.pair.getD p
      let s := (t.wdeltas.filter fun d => d.agent == s.st.core).foldl (fun s d => s.weigh d.agent d.ctx d.idx d.n) s
      .next ((s.onSt fun u => { u with pair := some { q with folded := true } }).stalled .pair)
  | r => r

/-- Run a meaning that is a compare point (R367, R368): the street waits for its twin; after a match the primary performs the
access, after which the twin goes on, and where it returns a value from outside the block (cause 6) the twin folds its own records
first and then takes the primary's result. -/
def State.paired (s : State) (cause : Nat) (k : State → Res) : Res :=
  match s.st.pair with
  | none => k s
  | some p =>
    if !p.go then .next (s.pairWait p cause)
    else if cause = 6 ∧ !p.primary then
      if !p.folded then s.foldAccess p k
      else if s.twinGone p then .next (s.pairWait { p with go := false, folded := false } cause)
      else .next (s.stalled .pair)
    else if cause = 6 ∧ s.twinBehind p then .next (s.stalled .pair)
    else if cause ≠ 6 ∧ !p.primary ∧ s.primaryBehind p then .next (s.stalled .pair)
    else
      match k s with
      | .next t =>
        if t.st.stall.isSome || t.st.svc.isSome then .next t
        else
          let t := if cause = 6 then s.tellTwin t p else t
          .next (t.onSt Street.afterCompare)
      | r => r

/-- Whether a store or a reduction of the street in focus takes effect now: it is not paired, or it is the primary's and caused the
compare point that has matched (R367, R368). -/
def State.direct (s : State) : Bool := match s.st.pair with | none => true | some p => p.go && p.primary

/-- Whether it waits in the pair buffer; the second twin's at a matched compare point goes nowhere (R367, R368). -/
def State.holds? (s : State) : Bool := match s.st.pair with | none => false | some p => !p.go

/-- In a paired block the engine instructions take trap TASK with FADDR 0 (R366). -/
def State.notPaired (s : State) (k : State → Res) : Res :=
  match s.st.pair with
  | none => k s
  | some _ => .next (s.takeTrap 15 0 0)

end Sys2Proof.Machine
end

