-- ==== Sys2Proof/Machine/Access.lean ====
section
/-! DEFINITION. What the memory instructions share (R190 to R195, R210 to R216): alignment, translation, page formats,
colours, watch ranges, parking, remote homes, and the accesses of lanes to global memory and to scratchpad space. -/

namespace Sys2Proof.Machine

/-- One lane's access: the lane, its virtual address, and where it lies. -/
structure LaneAcc where
  lane  : Nat
  va    : Nat
  pa    : Nat
  pte   : Nat
  eaddr : Nat
  base  : Nat
  size  : Nat
deriving DecidableEq, Repr

/-- A lane's access to scratchpad space that traps (R157): the cause, its FADDR, and for an uncorrectable word the die and, for one of a
scratchpad, the core that count it (R178, R365). -/
structure SpadBad where
  lane  : Nat
  cause : Nat
  faddr : Nat
  die   : Nat
  core  : Option Nat
deriving DecidableEq, Repr

/-- What an instruction asks of memory: its lanes with their addresses in ascending lane order, the bytes each accesses, the
alignment of an address, the kind of access, whether formatted pages are accepted, the kinds of watch it meets, and the FADDR of an
operand register found uncorrectable. A run on a formatted page (R85) adds what the caller has found: a misaligned start, the
translations of its scale bytes, whether it reads them and of which lanes it writes them, and an address that takes FMT_PARTIAL; an indexed access adds the lanes whose
read of the remap table traps (R328). -/
structure AccReq where
  u     : Bool
  act   : Mask
  lanes : List (Nat × Nat)
  n     : Nat
  align : Nat
  acc   : Acc
  fmtOk : Bool
  watch : Nat
  ecc   : Option Nat := none
  badAlign : Option Nat := none
  scales   : List (Nat × Nat × Xl) := []
  scaleRead  : Bool := false
  scaleWrite : Mask := 0
  fmtBad   : Option Nat := none
  tab      : List SpadBad := []
deriving DecidableEq, Repr

/-- What comes of it: the instruction is over, or these lanes perform their accesses in this state. -/
inductive Gate where
  | stop (r : Res)
  | go (s : State) (ls : List LaneAcc)

/-- Whether an address lies in a street's trap save area (R64). -/
def Street.inSave (t : Street) (va : Nat) : Bool := decide ((va + 2 ^ 64 - t.tsave.toNat) % 2 ^ 64 < 256)

/-- The other streets of the context in focus. -/
def State.peers (s : State) : List Street :=
  s.streets.filter fun t => t.there && ((s.block? t.block).any fun b => b.ctx.ctxid == s.blk.ctx.ctxid)

/-- Addresses that are never coloured: the frame stacks and hold tables of the context's streets, and their save areas (R212). -/
def State.uncoloured (s : State) (va : Nat) : Bool :=
  (s.st :: s.peers).any fun t => t.inFrames va || t.inSave va

/-- Whether an address, translated to a physical one, lies in the frame stack or the hold table of another street, its twin's apart: an
access gives unspecified values there, in either direction (R145, R220). -/
def State.foreign (s : State) (va pa : Nat) : Bool :=
  (s.peers.any fun t => t.inFrames va && !(s.st.pair.any fun p => p.twin == t.sid)) || s.strange s.blk.ctx.ctxid pa

/-- The colours of the lanes' addresses, in order, or the first lookup that fails (R212). -/
def laneColours (s : State) : List (Nat × Nat × Xl) → Except Looked (List (Nat × Option RegionEntry))
  | [] => .ok []
  | (lane, va, x) :: rest =>
    let rh := match x with | .ok _ pte _ _ _ => pteRH pte | _ => false
    let here := if rh || s.uncoloured va then Looked.colour none else lookColour s s.st.core s.blk.ctx va
    match here with
    | .colour e => (laneColours s rest).map fun r => (lane, e) :: r
    | bad => .error bad

/-- Colour number of a lookup. -/
def colourNo (e : Option RegionEntry) : Nat := match e with | some r => r.colour | none => 0

/-- Mask of some lanes. -/
def maskOf (ls : List Nat) : Mask := ls.foldl (fun m l => m ||| (1 <<< l)) 0

/-- Put an entry made for lanes that leave the issuing entry into the lowest free index (R61), with a SPLIT packet. -/
def State.newEntry (s : State) (e : PathEntry) : State :=
  match s.st.freeEntries with
  | [] => s
  | i :: _ =>
    (s.onSt fun t => { t with paths := t.paths.set i e }).traceIf (·.paths)
      (leBytes 1 (0x40 + s.st.slot) ++ leBytes 1 i.val ++ leBytes 8 e.mask.toNat)

/-- Lanes leave the issuing entry at the instruction, with a reason and a wait (R61): the entry itself when all leave. -/
def State.leaveEntry (s : State) (m : Mask) (reason : Reason) (w : Wait) : State :=
  let e := s.st.path
  if e.mask &&& ~~~m = 0 then
    s.onSt fun t => t.onPath t.sel fun e => { e with reason := reason, wait := w, grant := 0 }
  else
    let s := s.onSt fun t => t.onPath t.sel fun e => { e with mask := e.mask &&& ~~~m }
    s.newEntry { e with mask := m, reason := reason, wait := w, age := 0, grant := 0 }

/-- Whether lanes that leave need a free entry and find none (R61). -/
def State.noEntry (s : State) (m : Mask) : Bool := s.st.path.mask &&& ~~~m != 0 && s.st.freeEntries.isEmpty

/-- Whether a watch entry matches an access of a space; a global BASE is a canonical address, sign-extended from bit 56 (R190,
R372). -/
def watchMatch (space kinds va n : Nat) (w : Nat × Nat) : Bool :=
  let base := if space = 0 then canon57 (bits w.1 0 57) else bits w.1 0 57
  bit w.1 63 && bits w.1 60 1 == space && bits w.1 61 2 &&& kinds != 0
    && decide (base < va + n) && decide (va < base + bits w.2 0 48)

/-- Whether the instruction at hand is the one at which WATCH has stopped the street, and a lane, or under U = 1 a lane of the path, is
one that it lets pass (R372). -/
def Street.watchPasses (t : Street) (u : Bool) (lane : Nat) : Bool :=
  t.watchSkip.any fun w => w.1 == t.path.pc && if u then t.path.mask &&& w.2 != 0 else w.2.getLsbD lane

/-- Whether a lane's access meets a watch range now (R372). -/
def State.watched (s : State) (u : Bool) (lane space kinds va n : Nat) : Bool :=
  !s.st.watchPasses u lane && s.blk.ctx.watch.any (watchMatch space kinds va n)

/-- WATCH: the trap, or a stop for the attached debugger, after which the accesses of the path proceed (R372). -/
def State.watchTrap (s : State) (va : Nat) : State :=
  if s.st.ctxflags.getLsbD 1 then
    (s.debugStop 18 0 va).onSt fun t => { t with watchSkip := some (t.path.pc, t.path.mask), stall := some .mem }
  else s.takeTrap 18 0 va

/-- The trap of a lane's access to scratchpad space (R157, R178, R362, R365). -/
def State.spadTrap (s : State) (x : SpadBad) : State :=
  if x.cause = 18 then s.watchTrap x.faddr
  else
    let s := if x.cause = 11 ∨ x.cause = 12 then s.sramErrorOn x.die else s
    let s := match x.core with | some i => s.onCore i fun c => { c with uecnt := satAdd 16 c.uecnt 1 } | none => s
    s.takeTrap x.cause 0 x.faddr

/-- The FADDR of a cause that lanes meet, each once: that of the lowest (R157). -/
def lowestBad (xs : List (Nat × Nat)) : Option Nat :=
  (xs.foldl (fun (m : Option (Nat × Nat)) x => match m with | some y => if x.1 < y.1 then some x else m | none => some x) none).map (·.2)

/-- The lanes whose table read meets a cause. -/
def AccReq.tabBad (q : AccReq) (cause : Nat) : List SpadBad := q.tab.filter fun x => x.cause == cause

/-- The address of the lowest lane that meets a watch range: with its element's bytes, with its scale byte (R84), or with its table
read (R157, R372). -/
def AccReq.watchHit (q : AccReq) (s : State) : Option Nat :=
  let own := q.lanes.findSome? fun l =>
    if s.watched q.u l.1 0 q.watch l.2 q.n then some l
    else (q.scales.find? fun x => x.1 == l.1
      && s.watched q.u l.1 0 (b2n q.scaleRead + 2 * b2n (q.scaleWrite.getLsbD l.1)) x.2.1 1).map fun x => (l.1, x.2.1)
  lowestBad (own.toList ++ (q.tabBad 18).map fun x => (x.lane, x.faddr))

/-- The first fault among translations. -/
def firstFault (xs : List (Nat × Nat × Xl)) : Option Xl :=
  (xs.find? fun x => match x.2.2 with | .ok _ _ _ _ _ => false | _ => true).map (·.2.2)

/-- The first of some accesses that lies on a page whose FMT is not plain (R85). -/
def firstFmt (ls : List LaneAcc) : Option Nat := (ls.find? fun l => pteFMT l.pte != 0).map (·.va)

/-- The accesses of translated lanes. -/
def laneAccs (xs : List (Nat × Nat × Xl)) : List LaneAcc :=
  xs.filterMap fun x => match x.2.2 with
    | .ok pa pte ea base size => some ⟨x.1, x.2.1, pa, pte, ea, base, size⟩
    | _ => none

/-- Answer a translation that fails: a serviced fault, or an access where there is no memory. -/
def State.xlStop (s : State) (x : Xl) : Res :=
  match x with
  | .fault f => .next (s.service f .mem)
  | .hole pa => .fault (.noMemory pa)
  | .ok _ _ _ _ _ => .next s

/-- The lanes for which colours are acquired: the active ones, or under U = 1 the path's lowest active lane (R214). -/
def AccReq.colourLanes (q : AccReq) (cs : List (Nat × Option RegionEntry)) : List (Nat × Nat) :=
  if q.u then
    match cs with
    | c :: _ => [((q.act.lowest.getD 0).val, colourNo c.2)]
    | [] => []
  else cs.map fun c => (c.1, colourNo c.2)

/-- The lanes that would park (R214): those that do not acquire in lane order. -/
def wouldPark (s : State) (cl : List (Nat × Nat)) : List Nat := (acquireLanes s.blk.ctx.ctxid s.st.path.depth cl s).2.1

/-- Record the colours that some lanes have acquired, in a pair, with the addresses that acquired them: those just taken, and those handed
to the lanes while they waited at the same access (R217, R367). -/
def State.recordColours (before : List Hold) (cl : List (Nat × Nat)) (vaOf : Nat → Nat) (s : State) : State :=
  match s.st.pair with
  | none => s
  | some p =>
    let taken := (s.st.holds.drop before.length).map fun h => (h.lane, h.colour)
    let s := s.onSt fun t => { t with pair := some { p with granted := p.granted.filter fun g => !cl.contains g } }
    (cl.filter fun c => taken.contains c || p.granted.contains c).foldl (fun s c => s.record 3 (vaOf c.1) (leBytes 2 c.2)) s

/-- The address of a lane's access. -/
def AccReq.vaOf (q : AccReq) (lane : Nat) : Nat :=
  if q.u then (q.lanes.headD (0, 0)).2 else ((q.lanes.find? fun l => l.1 == lane).map (·.2)).getD 0

/-- Acquire colours, park the lanes that cannot, and perform for the others (R214, R215, R219); nothing is acquired before the street's
hold table can be written (R220). -/
def State.acquire (s : State) (q : AccReq) (cs : List (Nat × Option RegionEntry)) (ls : List LaneAcc) : Gate :=
  let s0 := s
  let s := cs.foldl (fun s c => match c.2 with | some e => s.keepRegion s.st.core e | none => s) s
  let cl := q.colourLanes cs
  let held := s.st.holds
  let (_, park, s) := acquireLanes s.blk.ctx.ctxid s.st.path.depth cl s
  match if s.st.holds.length = held.length then none else s0.holdFault? s0.st s.st.holds.length with
  | some f => .stop (.next (s0.service f .mem))
  | none =>
  let s := State.recordColours held cl q.vaOf s
  let s := if s.st.holds.length = held.length then s else ((s.l1Flush s.st.core).onSt (·.forget s.clock)).writeHolds s.st.sid
  if park.isEmpty then .go s ls
  else
    let m := if q.u then s.st.path.mask else maskOf park
    let s := s.leaveEntry m .colourPark (.colour (q.vaOf (park.headD 0)))
    let rest := if q.u then [] else ls.filter fun l => !park.contains l.lane
    if rest.isEmpty then
      let s := s.onSt Street.unreserve
      if s.st.path.reason == .colourPark then .stop (.next { s with st := { s.st with stall := none } })
      else .stop (.next s.done)
    else .go s rest

/-- FADDR of ECC_UNC for a global sector (R362): the virtual address of the sector, and whether it was poison. -/
def eccGlobal (l : LaneAcc) (sec : Nat) (poison : Bool) : Nat := (l.va - l.pa % 2 ^ 18 + (sec * 32) % 2 ^ 18) / 32 * 32 + b2n poison

/-- The first lane whose read meets poison or an uncorrectable sector (R362, R364). -/
def State.eccLane (s : State) (ls : List LaneAcc) (n : Nat) : Option (Nat × (Nat × Bool) × Bool) :=
  ls.findSome? fun l =>
    if pteRH l.pte then none
    else (s.badSector l.pa n (pteMS l.pte)).map fun b => (eccGlobal l b.1 b.2, b, pteMS l.pte)

/-- ECC_UNC on a global read, with the machine-check record of the error (R362, R364, R365). -/
def State.eccTrap (s : State) (e : Nat × (Nat × Bool) × Bool) : State :=
  (s.meetBad e.2.1 s.blk.ctx.ctxid s.st.sid.toNat e.2.2).takeTrap 11 0 e.1

/-- Every check of an access before it is performed, in the order of R157, and the acquisition of colours. -/
def State.gate (s : State) (q : AccReq) : Gate :=
  let xs := q.lanes.map fun l => (l.1, l.2, translate s s.st.core s.blk.ctx l.2 q.acc)
  let cs := laneColours s xs
  let ctx := s.blk.ctx.ctxid
  let cl := match cs with | .ok c => q.colourLanes c | .error _ => []
  let parked := wouldPark s (cl.filter fun c => !(orderBad s ctx c.1 c.2 || poisonBad s ctx c.1 c.2))
  let m := if q.u then s.st.path.mask else maskOf parked
  if !parked.isEmpty && s.noEntry m then .stop (.next (s.takeTrap 10 0 0))
  else
    let bad : Option Nat := match q.badAlign with
      | some va => some va
      | none => lowestBad ((q.lanes.filter fun l => l.2 % q.align != 0) ++ (q.tabBad 3).map fun x => (x.lane, x.faddr))
    match bad with
    | some va => .stop (.next (s.takeTrap 3 0 va))
    | none =>
      match firstFault (xs ++ q.scales) with
      | some x => .stop (s.xlStop x)
      | none =>
        let ls := laneAccs xs
        let part : Option Nat := match q.fmtBad with
          | some va => some va
          | none => (ls.find? fun l => !q.fmtOk && pteFMT l.pte != 0).map (·.va)
        match part with
        | some va => .stop (.next (s.takeTrap 4 0 va))
        | none =>
          match cs with
          | .error (.fault f) => .stop (.next (s.service f .mem))
          | .error (.hole pa) => .stop (.fault (.noMemory pa))
          | .error (.colour _) => .stop (.next s)
          | .ok cs =>
            match cl.find? fun c => orderBad s ctx c.1 c.2 with
            | some c => .stop (.next (s.takeTrap 6 0 (q.vaOf c.1)))
            | none =>
              match cl.find? fun c => poisonBad s ctx c.1 c.2 with
              | some c => .stop (.next (s.takeTrap 7 0 (q.vaOf c.1)))
              | none =>
                match q.watchHit s with
                | some va => .stop (.next (s.watchTrap va))
                | none =>
                  match q.ecc with
                  | some fa => .stop (.next (s.sramError.takeTrap 11 0 fa))
                  | none =>
                    match q.tabBad 11, q.tabBad 12 with
                    | x :: _, _ => .stop (.next (s.spadTrap x))
                    | [], x :: _ =>
                      match if q.acc == .read then s.eccLane ls q.n else none with
                      | some e => .stop (.next (s.eccTrap e))
                      | none => .stop (.next (s.spadTrap x))
                    | [], [] => s.acquire q cs ls

/-- Keep the translations and counts of the lanes that perform (R318, R320). -/
def State.touchAll (s : State) (acc : Acc) (ls : List LaneAcc) : State :=
  ls.foldl (fun s l => touch s s.st.core s.blk.ctx acc l.pa l.pte l.eaddr l.base l.size) s

/-- Whether an access would acquire a colour the lane does not hold, or goes on after a handover of its colour: a compare point of a
paired street (R217, R367). -/
def State.willAcquire (s : State) (q : AccReq) : Bool :=
  match laneColours s (q.lanes.map fun l => (l.1, l.2, translate s s.st.core s.blk.ctx l.2 q.acc)) with
  | .ok cs => (q.colourLanes cs).any fun c =>
      (c.2 != 0 && !s.st.holdsColour c.1 c.2) || s.st.pair.any fun p => p.granted.contains c
  | .error _ => false

/-- Run a meaning as a compare point of cause 6 when it acquires a colour (R367). -/
def State.pairedAcquire (s : State) (q : AccReq) (k : State → Res) : Res :=
  if s.st.pair.isSome && s.willAcquire q then s.paired 6 k else k s

/-- The lanes and 64-bit addresses of an address pair (R190): each active lane, or lane 0 under U = 1. -/
def State.addrLanes (s : State) (u : Bool) (act : Mask) (addr : RegNo) : List (Nat × Nat) :=
  let lo := s.rdReg 4 addr
  let hi := s.rdReg 5 (regPlus addr 1)
  (lanesUsed u act).lanes.map fun l => (l.val, (pairVal (lo.lane l) (hi.lane l)).toNat)

/-- Remember a lane's strong load of a line (R201). -/
def Street.sawLine (t : Street) (lane line ver : Nat) : Street :=
  { t with seen := { lane := lane, line := line, ver := ver } :: t.seen.filter fun x => !(x.lane == lane && x.line == line) }

/-- The physical address under which a pair buffer holds a lane's bytes: those of a remote home stand apart (R367, R378). -/
def LaneAcc.heldPa (l : LaneAcc) : Nat := if pteRH l.pte then l.pa + 2 ^ 52 else l.pa

/-- Before the store or the atomic of a lane of a street is performed, so are its sent reductions on the 8-byte words that it meets, and
with them the earlier ones there of the street's other lanes (R65, R66, R327). -/
def State.redsBefore (s : State) (sid : StreetId) (lane pa n : Nat) : State :=
  let meets (r : Mred) : Bool := r.sid == sid && decide (r.pa / 8 * 8 < pa + n) && decide (pa / 8 * 8 < r.pa + 8)
  let rs := s.mreds.filter meets
  let last := rs.foldl (fun m r => if r.lane == lane then Nat.max m r.id else m) 0
  (rs.filter fun r => decide (r.id ≤ last)).foldl (fun s r => s.performMred r) s

/-- The same for a lane of the street in focus. -/
def State.ownReds (s : State) (l : LaneAcc) (n : Nat) : State := s.redsBefore s.st.sid l.lane l.pa n

/-- The write count of a line at a lane's last strong load from it, 0 where it has made none (R65, R201). -/
def Street.floorOf (t : Street) (lane line : Nat) : Nat :=
  ((t.seen.find? fun x => x.lane == lane && x.line == line).map (·.ver)).getD 0

/-- One lane's read of n bytes (R192): the home copy for strong, `.nc` and memory-side accesses, else through the L1; as it may stand
before a change that nothing orders it behind (R31, R67), which a strong load of the lane has not seen (R65); a paired street's held
stores are forwarded. Another street's frame stack gives unspecified values (R145). -/
def State.loadLane (s : State) (l : LaneAcc) (n : Nat) (strong nc : Bool) : List Byte × State :=
  let ctx := s.blk.ctx.ctxid
  let line := lineOf l.pa
  let floor := if strong then s.st.floorOf l.lane line else 0
  let (now, t) := if strong || nc || pteMS l.pte then s.loadCopy l.pa n ctx (pteMS l.pte) else s.loadWeak s.st.core l.pa n ctx
  let bs := s.pastBytes s.st.core l.lane floor l.pa now
  let t := if strong then t.onSt fun t => t.sawLine l.lane line (if bs == now then s.ver line else floor) else t
  (t.forwardGlobal l.heldPa (if s.foreign l.va l.pa then s.freeBytes l.va n else bs), t)

/-- Bytes whose bits are all written. -/
def wholeMask (bs : List Byte) : List Byte := bs.map fun _ => 255

/-- Bytes with the bits of a mask replaced (R86). -/
def maskBytes (old bs m : List Byte) : List Byte :=
  bs.mapIdx fun i b => (old.getD i 0 &&& ~~~(m.getD i 0)) ||| (b &&& m.getD i 0)

/-- The L1 copies learn of a store that the street in focus has performed, its twin's too (R185, R368). -/
def State.l1Learn (s : State) (pa : Nat) (bs : List Byte) (nc : Bool) : State :=
  let t := s.l1Store s.st.core pa bs nc
  match s.st.pair.bind fun p => s.street? p.twin with
  | some u => t.l1Store u.core pa bs nc
  | none => t

/-- A store of a lane of the street in focus is performed: the bits of a mask are written (R86, R192), unspecified ones in another
street's frame stack (R145). -/
def State.performStore (s : State) (l : LaneAcc) (bs m : List Byte) (nc : Bool) : State :=
  let s := s.ownReds l bs.length
  let bs := if s.foreign l.va l.pa then s.freeBytes l.va bs.length else bs
  let new := if m.all (· == 255) then bs else maskBytes (s.mem.readN l.pa bs.length) bs m
  (s.storeBy s.st.sid (1 <<< l.lane) l.pa new s.blk.ctx.ctxid (pteMS l.pte)).l1Learn l.pa new nc

/-- One lane's write of the bits of a mask (R192); in a paired street it is held, but for the store that caused a compare point, which
the primary performs when it has matched (R367, R368). -/
def State.storeLane (s : State) (l : LaneAcc) (bs m : List Byte) (nc : Bool) : State :=
  let s := s.record 1 l.va bs
  if s.direct then s.performStore l bs m nc
  else if s.holds? then s.holdStore (.global l.heldPa l.va bs m l.lane nc s.freeTick)
  else s

/-- Accesses of some lanes to remote homes (R378). -/
def State.remoteSend (s : State) (ls : List LaneAcc) (op : LaneAcc → RemoteOp) (strong : Bool) : State :=
  s.sendAll s.st.core (ls.map fun l =>
    { id := 0, sid := s.st.sid, lane := l.lane, pa := l.pa, va := l.va, ctx := s.blk.ctx, op := op l, strong := strong, reply := none })

/-- The request of a lane of the street in focus that waits for its reply. -/
def State.remoteOf (s : State) (l : LaneAcc) (op : RemoteOp) : Option RemoteReq :=
  s.remote.find? fun r => r.sid == s.st.sid && r.lane == l.lane && r.pa == l.pa && r.op == op

/-- What a remote read needs before it completes (R378, R379): nothing more, waiting, or ECC_UNC on an unreachable home. -/
inductive Far where
  | ready
  | wait (s : State)
  | lost (faddr : Nat)

/-- Whether remote reads of some lanes have been sent. -/
def State.remoteSent (s : State) (ls : List LaneAcc) (op : LaneAcc → RemoteOp) : Bool := ls.all fun l => (s.remoteOf l (op l)).isSome

/-- Remote reads of some lanes: sent once, then waited for. -/
def State.remoteReads (s : State) (ls : List LaneAcc) (op : LaneAcc → RemoteOp) (strong : Bool) : Far :=
  if ls.isEmpty then .ready
  else if !s.remoteSent ls op then .wait (s.remoteSend ls op strong)
  else
    match ls.find? fun l => ((s.remoteOf l (op l)).bind (·.reply)) == some .unreachable with
    | some l => .lost (l.va / 32 * 32 + 1)
    | none => if ls.all fun l => ((s.remoteOf l (op l)).bind (·.reply)).isSome then .ready else .wait s

/-- The bytes a remote read returned. -/
def State.remoteBytes (s : State) (l : LaneAcc) (op : RemoteOp) : List Byte :=
  match (s.remoteOf l op).bind (·.reply) with
  | some (.data v) => v
  | _ => []

/-- The replies that completed reads have consumed are gone. -/
def State.remoteTaken (s : State) (ls : List LaneAcc) (op : LaneAcc → RemoteOp) : State :=
  { s with remote := s.remote.filter fun r =>
      !(r.sid == s.st.sid && ls.any fun l => r.lane == l.lane && r.pa == l.pa && r.op == op l) }

/-- Acquire at MD.SCOPE or a fence's scope: what the street performs from now on comes after it (R67, R193), and at quarter scope or
wider the L1 is invalidated (R185). -/
def State.acquireAt (s : State) (scope : Nat) : State :=
  let s := s.onSt (·.forget s.clock)
  if 2 ≤ scope then s.l1Flush s.st.core else s

/-- An acquiring access orders only accesses after its window (R31, R193): those inside it may have been performed at any time after
the street's last issue before it and after what it last heard of (R16), and may have found the L1 copies that it dropped. -/
def State.acquireOpen (s : State) (before : Street) (la : Nat) (dropped : List L1Sector) : State :=
  if la = 0 then s
  else
    let since := Nat.max ((before.lastIssue.getD before.placed) + 1) before.heard
    let kept : List PastSector := dropped.map fun x =>
      { at_ := Nat.max since s.clock, by_ := none, lanes := 0, tick := s.freeTick, ver := 0, data := x }
    let s := s.onCore before.core fun c => { c with past := kept ++ c.past }
    s.onSt fun t => match t.windows with
      | w :: ws => { t with windows := { w with since := some since } :: ws }
      | [] => t

/-- Release at a scope (R193, R388): sent reductions are performed; at .sy it waits for remote acknowledgements. -/
def State.releaseWaits (s : State) (scope : Nat) : Bool := decide (6 ≤ scope) && s.remotePending s.st.sid

/-- A release that need not wait: the reductions sent are performed (R193, R327). -/
def State.released (s : State) : State := s.drainMreds s.st.sid

/-- The words that loaded bytes put into registers (R191): zero-extended, low word first. -/
def loadWords (bs : List Byte) (words : Nat) : List Word :=
  (List.range words).map fun i => BitVec.ofNat 32 (recNat bs (4 * i) 4)

/-- Bytes of a size (R191). KEEPEXP stores 4 bytes on a plain page, as size .32 does (R85; DESIGN CHOICE, log entry 56). -/
def sizeBytes : MSize → Nat
  | .b8 => 1 | .b16 => 2 | .b32 => 4 | .b64 => 8 | .b128 => 16 | .raw => 4 | .keepexp => 4 | .reserved7 => 4

/-- Registers of a size (R191). -/
def sizeWords : MSize → Nat
  | .b64 => 2 | .b128 => 4 | _ => 1

/-- Put lane results together as register words: lane, words. -/
def laneVecs (rs : List (Nat × List Word)) (words : Nat) : List SVec :=
  (List.range words).map fun i => SVec.gen fun l =>
    match rs.find? fun r => r.1 == l.val with
    | some r => r.2.getD i 0
    | none => 0

/-- The register words of a load: under U = 1 the one value in all 64 lanes (R63). -/
def resultVecs (u : Bool) (rs : List (Nat × List Word)) (words : Nat) : List SVec :=
  if u then (List.range words).map fun i => SVec.splat (((rs.headD (0, [])).2).getD i 0) else laneVecs rs words

/-- Deliver a load's result to the lanes that performed, with its window (R27, R194). -/
def State.deliverLoad (s : State) (before : Street) (u : Bool) (la : Nat) (d : Dst) (rs : List (Nat × List Word))
    (words : Nat) : State :=
  let m := if u then Mask.all else maskOf (rs.map (·.1))
  let vs := resultVecs u rs words
  let s := match d.chan, s.st.reservedQueue with
    | true, some q => s.pushTo (some q) (vs.map fun v => SVec.blend m v SVec.zero)
    | _, _ => s.deliver d m vs
  s.onSt fun t => t.unreserve.openWin before la (if d.chan then [] else (List.range words).map fun i => d.idx.toNat + i) m

/-- Run lanes' reads one after another. -/
def State.readLanes (f : State → LaneAcc → List Byte × State) : State → List LaneAcc → List (Nat × List Byte) × State
  | s, [] => ([], s)
  | s, l :: ls =>
    let (b, s) := f s l
    let (r, s) := State.readLanes f s ls
    ((l.lane, b) :: r, s)

end Sys2Proof.Machine
end

