-- ==== Sys2Proof/Machine/Spad.lean ====
section
/-! DEFINITION. Scratchpad space (R177 to R184): addresses and windows, banks, parity and retirement, and single accesses. -/

namespace Sys2Proof.Machine

/-- Where a scratchpad-space access lies (R182, R183). -/
inductive Place where
  | spad (block off : Nat)
  | regs (block off : Nat)
  | pans (block off : Nat)
  | out
deriving DecidableEq, Repr

/-- The block that a window of a block names by its offsets: one of its district, or a draining block itself, whose pans in use by
operations in flight still stand (R182, R268). -/
def State.windowTarget? (s : State) (b : Block) (dx dy : Nat) : Option Block :=
  if b.life == .draining && b.dx == dx && b.dy == dy then some b else s.districtAt? b dx dy

/-- The place of an access of n bytes at a scratchpad-space address, issued by a block: a load, an STS or a copy-engine write
(`kind` 0, 1, 2), out of range where R183 does not allow it. -/
def spadPlace (s : State) (b : Block) (a n kind : Nat) : Place :=
  if !bit a 63 then
    if b.life != .draining && bits a 18 45 == 0 && decide (a + n ≤ b.spadBytes) then .spad b.id a else .out
  else if bits a 58 5 != 0 || bits a 24 21 != 0 then .out
  else
    match s.windowTarget? b (bits a 50 6) (bits a 45 5) with
    | none => .out
    | some t =>
      let off := bits a 0 24
      match bits a 56 2 with
      | 0 => if t.life != .draining && decide (off + n ≤ t.spadBytes) then .spad t.id off else .out
      | 1 =>
        if kind != 1 && t.life != .draining && t.hdr.winreg && (List.range ((n + 3) / 4)).all fun i =>
            decide ((off / 4 + i) / 4096 < t.hdr.streets) && decide ((off / 4 + i) / 64 % 64 < t.hdr.regs) then .regs t.id off
        else .out
      | 2 =>
        let gone := t.life == .draining && (List.range' (off / 131072) ((off + n - 1) / 131072 - off / 131072 + 1)).any t.panFreed.contains
        if kind != 1 && !gone && decide (off + n ≤ t.hdr.pans * 65536) then .pans t.id off else .out
      | _ => .out

/-- The street of a block at a street index. -/
def State.streetAt (s : State) (block sindex : Nat) : Option Street :=
  s.allStreets.find? fun t => t.block == block && t.sindex == sindex

/-- A byte of the register-file window of a block (R182), from its image while it is saved. -/
def State.regWindowByte (s : State) (block off : Nat) : Byte :=
  let w := off / 4
  match s.streetAt block (w / 4096), (s.block? block).filter fun b => b.life == .saved with
  | none, _ => 0
  | some _, some b => match s.imageReg b off with | some a => s.mem.read a | none => 0
  | some t, none => ((t.regs.toArray.getD (w / 64 % 64) SVec.zero).lane (Fin.ofNat 64 w)).extractLsb' (8 * (off % 4)) 8

/-- Bytes read at a place; an out-of-range lane reads zero (R183). -/
def State.readPlace (s : State) (p : Place) (n : Nat) : List Byte :=
  match p with
  | .spad b off => match s.block? b with | some k => s.spadRead k off n | none => leBytes n 0
  | .regs b off => (List.range n).map fun i => s.regWindowByte b (off + i)
  | .pans b off => match s.block? b with | some k => k.pans.readN off n | none => leBytes n 0
  | .out => leBytes n 0

/-- Whether a byte of a block's scratchpad lies in a barrier object in service (R263). -/
def State.inBarrierSpad (s : State) (block off : Nat) : Bool :=
  s.bars.any fun b => b.valid && match b.place with
    | .spad k o => k == block && decide (o ≤ off) && decide (off < o + 16)
    | _ => false

/-- Put bytes into a block's scratchpad, leaving out barrier objects in service. -/
def State.putSpad (s : State) (block off : Nat) : List Byte → State
  | [] => s
  | v :: vs =>
    let s := if s.inBarrierSpad block off then s else s.spadWrite block off [v]
    State.putSpad s block (off + 1) vs

/-- The core scratchpad word at a bank position, as the number of the store of words. -/
def wordAt (g j k w : Nat) : Nat := bankByte g j k w / 8

/-- The retired bank of a core's group (R180). -/
def State.retired (s : State) (core g : Nat) : Option Nat :=
  ((s.core core).ret[g]?).bind fun r => if r.1 then some r.2 else none

/-- Whether a word lies in a retired bank. -/
def State.inRetired (s : State) (core word : Nat) : Bool :=
  let b := bankOf (word * 8)
  s.retired core b.1 == some b.2.1

/-- Whether the reconstruction of a word of a retired bank fails: a word of the other seven banks or of the parity bank is
uncorrectable, or the word itself was written so that it fails its own check (R181, R261). -/
def State.reconFails (s : State) (core word : Nat) : Bool :=
  let b := bankOf (word * 8)
  s.upsets.contains (.spad core word, 0) || s.broken (.parity core b.1 b.2.2.1 b.2.2.2)
    || (List.range 8).any fun j => j != b.2.1 && s.broken (.spad core (wordAt b.1 j b.2.2.1 b.2.2.2))

/-- Whether the stale bit of a word's parity row is set (R179). -/
def State.staleRow (s : State) (core word : Nat) : Bool :=
  let b := bankOf (word * 8)
  (s.core core).stale.any fun r => r.1 == b.1 && r.2.1 == b.2.2.1 && decide (s.clock < r.2.2)

/-- How the words of an access at a scratchpad place stand: served, waiting for a stale parity row, an uncorrectable word, or
a failed reconstruction (R178 to R181). -/
inductive SpadState where
  | fine | stale | ecc | recon
deriving DecidableEq, Repr

/-- How an access of n bytes stands; a store only meets a failed reconstruction (R179 to R181). -/
def State.spadState (s : State) (p : Place) (n : Nat) (store : Bool) : SpadState :=
  match p with
  | .spad b off =>
    match s.spadPhys b off with
    | none => .fine
    | some (core, x) =>
    let ws := wordsOf x n
    if ws.any fun w => s.inRetired core w && s.reconFails core w then .recon
    else if !store && ws.any fun w => s.inRetired core w && s.staleRow core w then .stale
    else if !store && ws.any fun w => !s.inRetired core w && s.broken (.spad core w) then .ecc
    else .fine
  | .out => .fine
  | .regs b off =>
    if !store && !s.upsets.isEmpty && ((List.range' (off / 4) ((off + n - 1) / 4 - off / 4 + 1)).any fun w =>
      match s.streetAt b (w / 4096) with
      | some t => s.broken (.reg t.sid (w / 64 % 64) (w % 64))
      | none => false) then .ecc else .fine
  | .pans b off => if !store && ((List.range' (off / 8) ((off + n - 1) / 8 - off / 8 + 1)).any fun w => s.broken (.pan b w))
    then .ecc else .fine

/-- The runs, by start and length, of the bytes [off, off + n) of a scratchpad that lie in no barrier object in service. -/
def State.spadRuns (s : State) (block off n : Nat) : List (Nat × Nat) :=
  let put (i : Nat) (rs : List (Nat × Nat)) : List (Nat × Nat) :=
    match rs with
    | r :: rest => if r.1 = i + 1 then (i, r.2 + 1) :: rest else (i, 1) :: rs
    | [] => [(i, 1)]
  (List.range n).foldr (fun i rs => if s.inBarrierSpad block (off + i) then rs else put i rs) []

/-- Store bytes at a place, by some lanes of a street or by no street; out of range nothing is written (R183), and in a barrier object
nothing is stored, and nothing repaired (R179, R263). -/
def State.writePlaceBy (s : State) (by_ : Option StreetId) (lanes : Mask) (p : Place) (bs : List Byte) : State :=
  match p with
  | .spad b off =>
    let t := (s.keepPast by_ lanes (sectorsOf (spadKey b off) bs.length)).putSpad b off bs
    match s.spadPhys b off with
    | some (core, x) => (s.spadRuns b off bs.length).foldl (fun t r => t.afterSpadStore core (x + r.1) r.2) t
    | none => t
  | .pans b off =>
    { s with upsets := s.upsets.filter fun u => match u.1 with
        | .pan k w => !(k == b && decide (off ≤ w * 8) && decide (w * 8 + 8 ≤ off + bs.length))
        | _ => true }.onBlock b fun k => { k with pans := k.pans.writeN off bs }
  | .regs b off =>
    let s := { s with upsets := s.upsets.filter fun u => !((List.range' ((off + 3) / 4) (bs.length / 4)).any fun w =>
      decide (w * 4 + 4 ≤ off + bs.length) && match s.streetAt b (w / 4096) with
        | some t => u.1 == .reg t.sid (w / 64 % 64) (w % 64)
        | none => false) }
    (bs.zipIdx).foldl (fun s v =>
      let o := off + v.2
      let w := o / 4
      match ((s.block? b).filter fun k => k.life == .saved).bind fun k => s.imageReg k o with
      | some a => s.poke a [v.1]
      | none => s.mapStreets fun t =>
        if t.there && t.block == b && t.sindex == w / 4096 then
          let r : RegNo := BitVec.ofNat 6 (w / 64)
          let l : Lane := Fin.ofNat 64 w
          let old := (t.regs.get r.toFin).lane l
          let new : Word := BitVec.ofNat 32 (leNat (((leBytes 4 old.toNat)).set (o % 4) v.1))
          t.setReg r (Mask.ofPred fun m => m == l) (SVec.splat new)
        else t) s
  | .out => s

/-- Store bytes at a place, by an agent that is no street. -/
def State.writePlace (s : State) (p : Place) (bs : List Byte) : State := s.writePlaceBy none Mask.all p bs

/-- Whether an access overlaps a recorded copy range of the core that holds it (R184). -/
def State.rangeHeld (s : State) (p : Place) (n : Nat) : Bool :=
  match p with
  | .spad b off =>
    (s.spadPhys b off).any fun p => (s.core p.1).ranges.any fun r => decide (r.lo < p.2 + n) && decide (p.2 < r.hi)
  | _ => false

/-- Whether some lanes of an LDS or STS meet a local watch range (R372). -/
def State.spadWatch (s : State) (u : Bool) (lane kinds va n : Nat) : Bool := !bit va 63 && s.watched u lane 1 kinds va n

/-- Whether a place belongs to the block in focus: its own scratchpad, local to a pair (R367). -/
def Place.own (p : Place) (id : Nat) : Bool := match p with | .spad b _ => b == id | _ => false

/-- One ASYNC_SPAD_RANGE for all the out-of-range lanes of an instruction (R183, R197). -/
def State.spadRangeErr (s : State) (ps : List (Nat × Nat × Place)) : State :=
  match ps.find? fun p => p.2.2 == .out with
  | some p => s.asyncErr s.blk.ctx 1 0 s.st.sid p.2.1
  | none => s

/-- What makes a lane's access to scratchpad space trap by itself, where something does (R157, R190, R197, R362, R372). -/
def State.spadBad (s : State) (u : Bool) (n : Nat) (store : Bool) (lane va : Nat) : Option SpadBad :=
  let p := spadPlace s s.blk va n (b2n store)
  let core : Option Nat := match p with | .spad b off => (s.spadPhys b off).map (·.1) | _ => none
  let die := match core with
    | some c => coreDie c
    | none => match p with | .regs b _ | .pans b _ => ((s.block? b).map fun k => coreDie k.core).getD s.st.die | _ => s.st.die
  let src := match p with | .pans _ _ => 3 | .regs _ _ => 2 | _ => 1
  let bad (cause faddr : Nat) (core : Option Nat) : SpadBad := { lane := lane, cause := cause, faddr := faddr, die := die, core := core }
  if va % n != 0 then some (bad 3 va none)
  else if s.spadWatch u lane (if store then 2 else 1) va n then some (bad 18 va none)
  else
    match s.spadState p n store with
    | .ecc => some (bad 11 (va / 32 * 32 + 4 * src) core)
    | .recon => some (bad 12 va core)
    | _ => none

/-- Whether some lanes of an access to scratchpad space wait, for a recorded copy range or for a stale parity row (R179, R184). -/
def State.spadWaits (s : State) (ps : List (Nat × Nat × Place)) (n : Nat) (store : Bool) : Option Stall :=
  if ps.any fun p => s.rangeHeld p.2.2 n then some .range
  else if ps.any fun p => s.spadState p.2.2 n store == .stale then some .mem
  else none

/-- The lanes of an access to scratchpad space with their places. -/
def State.spadPlaces (s : State) (lanes : List (Nat × Nat)) (n : Nat) (store : Bool) : List (Nat × Nat × Place) :=
  lanes.map fun l => (l.1, l.2, spadPlace s s.blk l.2 n (b2n store))

/-- Every check of a scratchpad access before it is performed (R157, R184, R190, R197), then the places of its lanes; `ecc` is the
FADDR of an operand register found uncorrectable. -/
def State.spadGate (s : State) (u : Bool) (lanes : List (Nat × Nat)) (n : Nat) (store : Bool) (ecc : Option Nat) :
    Except State (List (Nat × Nat × Place)) :=
  let bads := lanes.filterMap fun l => s.spadBad u n store l.1 l.2
  let first (cause : Nat) : Option SpadBad := bads.find? fun x => x.cause == cause
  match (first 3).or (first 18), ecc with
  | some x, _ => .error (s.spadTrap x)
  | none, some fa => .error (s.sramError.takeTrap 11 0 fa)
  | none, none =>
    let ps := s.spadPlaces lanes n store
    match s.spadWaits ps n store, (first 11).or (first 12) with
    | some r, _ => .error (s.stalled r)
    | none, some x => .error (s.spadTrap x)
    | none, none => .ok ps

end Sys2Proof.Machine
end

