-- ==== Sys2Proof/Machine/Memory.lean ====
section
/-! DEFINITION. LD and ST on plain and formatted pages (R85, R196), LDS and STS (R197). -/

namespace Sys2Proof.Machine

/-- Elements of a lane by size (R85); 0 for a size that takes no run. -/
def runK : MSize → Nat
  | .b32 | .keepexp => 1
  | .b64 => 2
  | .b128 => 4
  | _ => 0

/-- The lanes whose addresses an access checks: where the page of the lowest lane is not there yet, or is a formatted page that does
not permit the access, the access may be a run, which has no other address (R85). -/
def State.checkedLanes (s : State) (w : FM) (act : Mask) (acc : Acc) : List (Nat × Nat) :=
  let ls := s.addrLanes w.u act w.addr
  match ls with
  | [] => []
  | l :: _ =>
    match translate s s.st.core s.blk.ctx l.2 acc with
    | .fault f => if !w.u && runK w.size != 0 && (f.kind == 0 || pteFMT f.pte != 0) then [l] else ls
    | _ => ls

/-- The request of a plain access; only a LD.RAW per lane reaches a formatted page so (R85). -/
def State.plainReq (s : State) (w : FM) (act : Mask) (acc : Acc) (watch : Nat) (ecc : Option Nat) : AccReq :=
  { u := w.u, act := act, lanes := s.checkedLanes w act acc, n := sizeBytes w.size, align := sizeBytes w.size, acc := acc
    fmtOk := w.size == .raw && !w.u, watch := watch, ecc := ecc }

/-- Reads of some lanes, remote ones at their home, whatever errors stand there (R192, R378): the instruction is over here, or these
are the bytes and the new state. -/
def State.loadRaw (s : State) (ls : List LaneAcc) (n : Nat) (strong nc : Bool) :
    Except State (List (Nat × List Byte) × State) :=
  let far := ls.filter fun l => pteRH l.pte
  match s.remoteReads far (fun _ => .load n) strong with
  | .wait t => .error (t.stalled .mem)
  | .lost fa => .error ((s.remoteTaken far fun _ => .load n).takeTrap 11 0 fa)
  | .ready =>
    let (rs, t) := State.readLanes (fun s l =>
      if pteRH l.pte then
        let t := if strong then s.onSt fun t => t.sawLine l.lane (lineOf l.heldPa) (s.ver (lineOf l.heldPa)) else s
        (s.forwardGlobal l.heldPa (s.remoteBytes l (.load n)), t)
      else s.loadLane l n strong nc) s ls
    .ok (rs, (t.remoteTaken far fun _ => .load n).touchAll .read ls)

/-- Reads of some lanes, with ECC_UNC where the data is poisoned or uncorrectable (R192, R364). -/
def State.loadAll (s : State) (ls : List LaneAcc) (n : Nat) (strong nc : Bool) :
    Except State (List (Nat × List Byte) × State) :=
  match s.eccLane ls n with
  | some e => .error (s.eccTrap e)
  | none => s.loadRaw ls n strong nc

/-- Deliver a load's result, with the acquire that its ord field gives it (R31, R193). -/
def State.deliverOrdered (s : State) (before : Street) (ord : MOrd) (u : Bool) (la : Nat) (d : Dst) (rs : List (Nat × List Word))
    (words : Nat) : State :=
  if ord == .acq || ord == .ar then
    let dropped := if 2 ≤ mdScope before.md then (s.core before.core).l1 else []
    ((s.acquireAt (mdScope before.md)).deliverLoad before u la d rs words).acquireOpen before la dropped
  else s.deliverLoad before u la d rs words

/-- The load on a plain page, or `.raw` (R191, R196). -/
def State.ldPlain (s : State) (w : FM) (act : Mask) (ecc : Option Nat) : Res :=
  let q := s.plainReq w act .read 1 ecc
  s.pairedAcquire q fun s =>
  match s.gate q with
  | .stop r => r
  | .go t ls =>
    match t.loadAll ls q.n w.str w.nc with
    | .error t => .next t
    | .ok (rs, t) =>
      let rs := rs.map fun r => (r.1, loadWords r.2 (sizeWords w.size))
      .next (t.deliverOrdered s.st w.ord w.u w.la.toNat w.data rs (sizeWords w.size)).done

/-- Bytes a lane stores: the low n bytes of its words (R191). -/
def storeBytes (v : Val) (words n : Nat) (l : Nat) : List Byte :=
  leBytes n ((List.range words).foldl (fun x i => x + (v.word i (Fin.ofNat 64 l)).toNat * 2 ^ (32 * i)) 0)

/-- The words of a data operand (R191). -/
def State.dataVal (s : State) (r : RegNo) (words : Nat) : Val := (List.range words).map fun i => s.rdReg i (regPlus r i)

/-- The sectors of which some accesses, by address and mask of bits, write every bit between them. -/
def wholeSectors (xs : List (Nat × List Byte)) : List Nat :=
  let met := xs.foldl (fun ss x => (sectorsOf x.1 x.2.length).foldl addNew ss) []
  met.filter fun sec => (List.range' (sec * 32) 32).all fun a => xs.any fun x => decide (x.1 ≤ a) && x.2[a - x.1]? == some 255

/-- A store heals the sectors that its lanes have written whole between them (R364). -/
def State.healLanes (s : State) (ls : List LaneAcc) (f : LaneAcc → List Byte × List Byte) : State :=
  [false, true].foldl (fun (s : State) ms =>
    s.heal (wholeSectors ((ls.filter fun l => pteMS l.pte == ms).map fun l => (l.pa, (f l).2))) ms) s

/-- Stores of the bits of masks by some lanes in ascending lane order, so that the highest lane stands (R66, R86); remote ones are
sent (R378). -/
def State.storeMasked (s : State) (ls : List LaneAcc) (f : LaneAcc → List Byte × List Byte) (str nc : Bool) : State :=
  let far := if s.direct then ls.filter fun l => pteRH l.pte else []
  let near := ls.filter fun l => !far.contains l
  let s := near.foldl (fun s l => s.storeLane l (f l).1 (f l).2 nc) s
  let s := if s.direct then s.healLanes near f else s
  let s := if far.isEmpty then s
    else (far.foldl (fun s l => s.record 1 l.va (f l).1) s).remoteSend far (fun l => .store (f l).1) str
  s.touchAll .write ls

/-- Stores of whole bytes by some lanes. -/
def State.storeAll (s : State) (ls : List LaneAcc) (f : LaneAcc → List Byte) (str nc : Bool) : State :=
  s.storeMasked ls (fun l => (f l, wholeMask (f l))) str nc

/-- A meaning that stores: a compare point of cause 6 where it acquires a colour, of cause 2 where it releases (R367). -/
def State.pairedStore (s : State) (q : AccReq) (rel : Bool) (k : State → Res) : Res :=
  if s.st.pair.isSome && s.willAcquire q then s.paired 6 k
  else if rel then s.paired 2 k
  else k s

/-- The store on a plain page (R191, R196). -/
def State.stPlain (s : State) (w : FM) (act : Mask) (ecc : Option Nat) : Res :=
  let q := s.plainReq w act .write 2 ecc
  s.pairedStore q (w.ord == .rel) fun s =>
  if w.ord == .rel && s.releaseWaits (mdScope s.st.md) then .next (s.stalled .mem)
  else
    match s.gate q with
    | .stop r => r
    | .go t ls =>
      let v := s.dataVal w.data.idx (sizeWords w.size)
      let t := if w.ord == .rel then t.released else t
      let lane (l : LaneAcc) : Nat := if w.u then 0 else l.lane
      let t := t.storeAll ls (fun l => storeBytes v (sizeWords w.size) q.n (lane l)) w.str w.nc
      .next (t.onSt fun u => u.openWin s.st w.la.toNat [] 0).done

/-- A run on a formatted page (R85): the page's entry, container bits, elements per lane, and the start. -/
structure Run where
  pte : Nat
  c   : Nat
  k   : Nat
  va  : Nat
deriving DecidableEq, Repr

/-- Bytes that hold a lane's elements. -/
def Run.n (r : Run) : Nat := Nat.max 1 (r.k * r.c / 8)

/-- The first byte of a lane's elements. -/
def Run.at_ (r : Run) (l : Nat) : Nat := r.va + r.k * l * r.c / 8

/-- Bit offset of a lane's element j in its bytes. -/
def Run.off (r : Run) (l j : Nat) : Nat := r.k * l * r.c % 8 + j * r.c

/-- Block length of the run's page. -/
def Run.b (r : Run) : Nat := blLen (pteBL r.pte)

/-- Whether the run's page is block floating point. -/
def Run.bfp (r : Run) : Bool := fmtBfp (pteFMT r.pte)

/-- The run of an access, when its lowest active lane meets a formatted page and its size takes one (R85). -/
def State.runOf (s : State) (w : FM) (act : Mask) (acc : Acc) : Option Run :=
  match (s.addrLanes false act w.addr).head? with
  | none => none
  | some (_, va) =>
    match translate s s.st.core s.blk.ctx va acc with
    | .ok _ pte _ _ _ =>
      if pteFMT pte != 0 && !w.u && runK w.size != 0 then
        some { pte := pte, c := fmtC (pteFMT pte), k := runK w.size, va := va }
      else none
    | _ => none

/-- The translated scale bytes of a block run, lane by lane, each for what its lane does with it (R84), or the address that takes
FMT_PARTIAL. -/
def State.runScales (s : State) (r : Run) (act : Mask) (acc : Nat → Acc) : List (Nat × Nat × Xl) × Option Nat :=
  if !r.bfp then ([], none)
  else
    let sas := act.lanes.map fun l => (l.val, r.at_ l.val, scaleAddr s s.st.core s.blk.ctx r.pte (r.at_ l.val))
    match sas.find? fun x => x.2.2.isNone with
    | some x => ([], some x.2.1)
    | none =>
      let xs := sas.filterMap fun x => x.2.2.map fun sa => (x.1, sa, translate s s.st.core s.blk.ctx sa (acc x.1))
      let bad := xs.find? fun x => match x.2.2 with | .ok _ pte _ _ _ => pteFMT pte != 0 | _ => false
      (xs, bad.map fun x => r.at_ x.1)

/-- The request of a run (R84, R85). -/
def State.runReq (s : State) (r : Run) (act : Mask) (acc : Acc) (sread : Bool) (swrite : Mask) (watch : Nat) (part : Bool)
    (ecc : Option Nat) : AccReq :=
  let sacc (l : Nat) : Acc := if !swrite.getLsbD l then .read else if sread then .atomic else .write
  let sc := s.runScales r act sacc
  { u := false, act := act, lanes := act.lanes.map fun l => (l.val, r.at_ l.val), n := r.n, align := 1, acc := acc
    fmtOk := true, watch := watch, ecc := ecc, badAlign := if r.va % (64 * r.k * r.c / 8) != 0 then some r.va else none
    scales := sc.1, scaleRead := sread, scaleWrite := swrite, fmtBad := match sc.2 with | some va => some va | none => if part then some r.va else none }

/-- The f32 value of a lane's element as loaded, with its flags (R78, R85). -/
def Run.decode (r : Run) (e l j : Nat) (bs : List Byte) : FRes :=
  let c := bits (leNat bs) (r.off l j) r.c
  if r.bfp then (bfpDecode (fmtW (pteFMT r.pte)) e c, 0)
  else if pteFMT r.pte = 10 then (c, 0)
  else (fmtFloat (pteFMT r.pte)).convert f32 0 false c

/-- The load of a run (R85). -/
def State.ldRun (s : State) (w : FM) (r : Run) (act : Mask) (ecc : Option Nat) : Res :=
  let q := s.runReq r act .read true 0 1 false ecc
  s.pairedAcquire q fun s =>
  match s.gate q with
  | .stop x => x
  | .go t ls =>
    let sls := (laneAccs q.scales).filter fun x => ls.any fun l => l.lane == x.lane
    match t.loadAll ls r.n w.str w.nc with
    | .error t => .next t
    | .ok (rs, t) =>
      match t.loadAll sls 1 w.str w.nc with
      | .error t => .next t
      | .ok (es, t) =>
        let e (l : Nat) : Nat := ((es.find? fun x => x.1 == l).map fun x => leNat x.2).getD 0
        let vs := rs.map fun x => (x.1, (List.range r.k).map fun j => r.decode (e x.1) x.1 j x.2)
        let fl := vs.foldl (fun f v => v.2.foldl (fun f x => f ||| x.2) f) (0 : Word)
        let t := t.onSt fun u => u.setFlags fl
        .next (t.deliverOrdered s.st w.ord false w.la.toNat w.data
          (vs.map fun v => (v.1, v.2.map fun x => BitVec.ofNat 32 x.1)) r.k).done

/-- A block of a run that is stored: exponent, mantissas, saturation (R79). -/
def Run.blockOf (r : Run) (v : Val) (i : Nat) : Nat × List Int × Bool :=
  bfpEncode (fmtW (pteFMT r.pte)) ((List.range r.b).map fun x =>
    let el := i * r.b + x
    (v.word (el % r.k) (Fin.ofNat 64 (el / r.k))).toNat)

/-- The container of a lane's element as stored, with its flags (R72, R79, R85); `e` is the existing exponent of its block. -/
def Run.encode (r : Run) (v : Val) (rnd : Rnd) (keep : Bool) (e l j : Nat) : Nat × Word :=
  let x := (v.word j (Fin.ofNat 64 l)).toNat
  if r.bfp then
    if keep then
      if e = 255 || f32Special x then (0, 0)
      else let m := bfpMant (fmtW (pteFMT r.pte)) e x; (mantBits r.c m.1, flIf m.2 flBFPOV)
    else
      let el := r.k * l + j
      let b := r.blockOf v (el / r.b)
      (mantBits r.c (b.2.1.getD (el % r.b) 0), flIf b.2.2 flBFPOV)
  else if pteFMT r.pte = 10 then (x, 0)
  else f32.convert (fmtFloat (pteFMT r.pte)) rnd false x

/-- A lane's containers in the bytes that hold them, and the mask of their bits: a masked write (R86). -/
def Run.put (r : Run) (lane : Nat) (cs : List Nat) : List Byte × List Byte :=
  let put (f : Nat → Nat) : List Byte := (cs.zipIdx).foldl (fun bs x => putBits bs (r.off lane x.2) r.c (f x.1)) (leBytes r.n 0)
  (put id, put fun _ => 2 ^ r.c - 1)

/-- The store of a run (R85): the lanes that proceed write their containers, and blocks their exponent byte. -/
def State.stRun (s : State) (w : FM) (r : Run) (act : Mask) (ecc : Option Nat) : Res :=
  let keep := w.size == .keepexp
  let v := s.dataVal w.data.idx r.k
  let special := Mask.ofPred fun l => f32Special (v.word 0 l).toNat
  let part := r.bfp && !keep && (act != Mask.all || decide (64 * r.k < r.b))
  let q := s.runReq r act .write keep (if keep then special else Mask.all) 2 part ecc
  s.pairedStore q (w.ord == .rel) fun s =>
  if w.ord == .rel && s.releaseWaits (mdScope s.st.md) then .next (s.stalled .mem)
  else
    match s.gate q with
    | .stop x => x
    | .go t ls =>
      let sls := (laneAccs q.scales).filter fun x => ls.any fun l => l.lane == x.lane
      match if keep then t.loadAll sls 1 w.str w.nc else .ok ([], t) with
      | .error t => .next t
      | .ok (es, t) =>
        let e (l : Nat) : Nat := ((es.find? fun x => x.1 == l).map fun x => leNat x.2).getD 0
        let t := if w.ord == .rel then t.released else t
        let enc (l : Nat) := (List.range r.k).map fun j => r.encode v (mdRnd s.st.md) keep (e l) l j
        let t := t.storeMasked ls (fun l => r.put l.lane ((enc l.lane).map (·.1))) w.str w.nc
        let es := if keep then sls.filter fun x => special.getLsbD x.lane else sls
        let t := t.storeAll es (fun x => if keep then [255] else [BitVec.ofNat 8 (r.blockOf v (r.k * x.lane / r.b)).1]) w.str w.nc
        let fl := ls.foldl (fun f l => (enc l.lane).foldl (fun f x => f ||| x.2) f) (0 : Word)
        .next (t.onSt fun u => (u.setFlags fl).openWin s.st w.la.toNat [] 0).done

/-- LD (R191 to R196). -/
def execLd (w : FM) (s : State) : Res :=
  if !(regsOk s.blk.hdr.regs w.addr 2 && dstOk s.blk.hdr.regs false w.data (sizeWords w.size)) then .next (s.takeTrap 1 0 0)
  else if w.data.chan && s.st.reservedQueue.isNone && (s.queueOf w.data.idx).isNone then .next (s.takeTrap 9 0 0)
  else
    let act := s.active
    if act = 0 then .next s.done
    else if w.data.chan && !s.loadRoom w.data then .next (s.stalled .chanFull)
    else
      let ecc := s.srcBroken (lanesUsed w.u act) (.reg w.addr 0, 2)
      let s := s.reserve w.data
      match s.runOf w act .read with
      | some r => s.ldRun w r act ecc
      | none => s.ldPlain w act ecc

/-- ST (R191 to R196). -/
def execSt (w : FM) (s : State) : Res :=
  if !(regsOk s.blk.hdr.regs w.addr 2 && regsOk s.blk.hdr.regs w.data.idx (sizeWords w.size)) then .next (s.takeTrap 1 0 0)
  else
    let act := s.active
    if act = 0 then .next s.done
    else
      let ecc := [(Src.reg w.addr 0, 2), (Src.reg w.data.idx 0, sizeWords w.size)].findSome? (s.srcBroken (lanesUsed w.u act))
      match s.runOf w act .write with
      | some r => s.stRun w r act ecc
      | none => s.stPlain w act ecc

/-- Bytes of a scratchpad access as a lane of the street in focus reads them, as they may stand before a change that nothing orders it
behind (R31, R67), its held stores forwarded (R183, R367). -/
def State.placeBytes (s : State) (lane : Nat) (p : Place) (n : Nat) : List Byte :=
  match p with
  | .spad b off => s.forwardSpad b off (s.pastBytes s.st.core lane 0 (spadKey b off) (s.readPlace p n))
  | _ => s.readPlace p n

/-- One lane's STS (R183); in a paired street it is held, but for the one that caused a compare point, which each twin performs in
its own scratchpad when it has matched (R367, R368). -/
def State.spadStore (s : State) (lane va : Nat) (p : Place) (bs : List Byte) : State :=
  let s := s.record 1 va bs
  if s.holds? then
    match p with
    | .spad b off => s.holdStore (.spad b off bs lane)
    | _ => s
  else s.writePlaceBy s.st.sid (1 <<< lane) p bs

/-- LDS (R182, R183, R197). -/
def execLds (w : FMS) (s : State) : Res :=
  if !(regsOk s.blk.hdr.regs w.addr 2 && dstOk s.blk.hdr.regs false w.data (sizeWords w.size)) then .next (s.takeTrap 1 0 0)
  else if w.data.chan && s.st.reservedQueue.isNone && (s.queueOf w.data.idx).isNone then .next (s.takeTrap 9 0 0)
  else
    let act := s.active
    if act = 0 then .next s.done
    else if w.data.chan && !s.loadRoom w.data then .next (s.stalled .chanFull)
    else
      let ecc := s.srcBroken (lanesUsed w.u act) (.reg w.addr 0, 2)
      let n := sizeBytes w.size
      let s := s.reserve w.data
      match s.spadGate w.u (s.addrLanes w.u act w.addr) n false ecc with
      | .error t => .next t
      | .ok ps =>
        let rs := ps.map fun p => (p.1, loadWords (s.placeBytes p.1 p.2.2 n) (sizeWords w.size))
        .next ((s.spadRangeErr ps).deliverOrdered s.st w.ord w.u w.la.toNat w.data rs (sizeWords w.size)).done

/-- STS (R182, R183, R197). -/
def execSts (w : FMS) (s : State) : Res :=
  if !(regsOk s.blk.hdr.regs w.addr 2 && regsOk s.blk.hdr.regs w.data.idx (sizeWords w.size)) then .next (s.takeTrap 1 0 0)
  else
    let act := s.active
    if act = 0 then .next s.done
    else
      let ecc := [(Src.reg w.addr 0, 2), (Src.reg w.data.idx 0, sizeWords w.size)].findSome? (s.srcBroken (lanesUsed w.u act))
      let go (s : State) : Res :=
        if w.ord == .rel && s.releaseWaits (mdScope s.st.md) then .next (s.stalled .mem)
        else
          let n := sizeBytes w.size
          match s.spadGate w.u (s.addrLanes w.u act w.addr) n true ecc with
          | .error t => .next t
          | .ok ps =>
            let v := s.dataVal w.data.idx (sizeWords w.size)
            let t := if w.ord == .rel then s.released else s
            let t := ps.foldl (fun t p => t.spadStore p.1 p.2.1 p.2.2 (storeBytes v (sizeWords w.size) n p.1)) t
            .next ((t.spadRangeErr ps).onSt fun u => u.openWin s.st w.la.toNat [] 0).done
      if w.ord == .rel then s.paired 2 go else go s

end Sys2Proof.Machine
end

