-- ==== Sys2Proof/Machine/Atomics.lean ====
section
/-! DEFINITION. ATOM, MATOM, MRED (R198, R199, R325 to R327), LDX and SCAT (R328 to R330), WAITA, FENCE, CACHE and PREF
(R200 to R204). -/

namespace Sys2Proof.Machine

/-- Registers of ATOM's data operand (R198). -/
def atomWords (aop : Aop) (w : Bool) : Nat := (if aop = .cas then 2 else 1) * (if w then 2 else 1)

/-- Operand x and swap value y of an atomic in a lane (R199). -/
def atomArgs (aop : Aop) (w : Bool) (v : Val) (l : Lane) : Addr × Addr :=
  let at_ (i : Nat) : Addr := if w then pairVal (v.word (2 * i) l) (v.word (2 * i + 1) l) else pairVal (v.word i l) 0
  (at_ 0, if aop = .cas then at_ 1 else 0)

/-- The lane of the operands: lane 0 under U = 1 (R63). -/
def opLane (u : Bool) (l : Nat) : Lane := if u then 0 else Fin.ofNat 64 l

/-- Weigh counter of an atomic or reduction (R355). -/
def aopCounter (aop : Aop) : Nat := if aop = .fadd then 12 else 14

/-- One lane's atomic at the home slice or unit: the old value comes back (R199). -/
def State.atomLane (s : State) (l : LaneAcc) (aop : Aop) (w : Bool) (x y : Addr) : List Byte × State :=
  let n := if w then 8 else 4
  let s := s.ownReds l n
  let (bs, s) := s.loadCopy l.pa n s.blk.ctx.ctxid (pteMS l.pte)
  let bs := if s.foreign l.va l.pa then s.freeBytes l.va n else bs
  let new := leBytes n (aopApply aop w (BitVec.ofNat 64 (leNat bs)) x y).toNat
  (bs, (s.store s.st.sid l.pa new s.blk.ctx.ctxid (pteMS l.pte)).l1Learn l.pa new false)

/-- The bytes of an atomic's operands, as its pair record holds them (R367). -/
def argBytes (aop : Aop) (w : Bool) (x y : Addr) : List Byte :=
  let n := if w then 8 else 4
  leBytes n x.toNat ++ if aop = .cas then leBytes n y.toNat else []

/-- ATOM and MATOM (R198, R199, R325). -/
def State.atomic (s : State) (w : FMA) : Res :=
  let words := atomWords w.aop w.w
  if !(regsOk s.blk.hdr.regs w.addr 2 && regsOk s.blk.hdr.regs w.data words) then .next (s.takeTrap 1 0 0)
  else
    let act := s.active
    if act = 0 then .next s.done
    else
      let ecc := [(Src.reg w.addr 0, 2), (Src.reg w.data 0, words)].findSome? (s.srcBroken (lanesUsed w.u act))
      s.paired 6 fun s =>
      let n := if w.w then 8 else 4
      let rel := w.ord == .rel || w.ord == .ar
      if rel && s.releaseWaits (mdScope s.st.md) then .next (s.stalled .mem)
      else
        let q : AccReq := { u := w.u, act := act, lanes := s.addrLanes w.u act w.addr, n := n, align := n, acc := .atomic
                            fmtOk := false, watch := 3, ecc := ecc }
        match s.gate q with
        | .stop r => r
        | .go t ls =>
          let v := s.dataVal w.data words
          let arg (l : LaneAcc) := atomArgs w.aop w.w v (opLane w.u l.lane)
          match t.eccLane ls n with
          | some e => .next (t.eccTrap e)
          | none =>
            let far := ls.filter fun l => pteRH l.pte
            let op (l : LaneAcc) : RemoteOp := .atomic w.aop w.w (arg l).1 (arg l).2
            let t := if rel then t.released else t
            let rec_ (s : State) : State := ls.foldl (fun s l => s.record 2 l.va (argBytes w.aop w.w (arg l).1 (arg l).2)) s
            let t := if far.isEmpty || !t.remoteSent far op then rec_ t else t
            match t.remoteReads far op true with
            | .wait t => .next (t.stalled .mem)
            | .lost fa => .next ((t.remoteTaken far op).takeTrap 11 0 fa)
            | .ready =>
              let (rs, t) := State.readLanes (fun s l =>
                if pteRH l.pte then (s.remoteBytes l (op l), s) else s.atomLane l w.aop w.w (arg l).1 (arg l).2) t ls
              let t := (t.remoteTaken far op).touchAll .atomic ls
              let out := if w.w then 2 else 1
              let rs := rs.map fun r => (r.1, loadWords r.2 out)
              let t := t.deliverOrdered s.st w.ord w.u w.la.toNat (regDst w.data) rs out
              .next (t.weighSt (aopCounter w.aop) ls.length).done

/-- ATOM (R198, R199). -/
def execAtom (w : FMA) (s : State) : Res := s.atomic w

/-- MATOM (R325). -/
def execMatom (w : FMA) (s : State) : Res := s.atomic w

/-- Send reductions of some lanes (R326, R330): performed later at the unit or home slice, sent to a remote home (R378), or
held in a pair, but for those that caused a compare point, which the primary sends when it has matched (R367, R368). -/
def State.sendReds (s : State) (aop : Aop) (w : Bool) (xs : List (LaneAcc × Addr)) : State :=
  let s := xs.foldl (fun s x => s.record 2 x.1.va (argBytes aop w x.2 0)) s
  if s.holds? then xs.foldl (fun s x => s.holdStore (.red x.1.heldPa aop w x.2 x.1.lane x.1.va)) s
  else if !s.direct then s
  else
    let near := xs.filter fun x => !pteRH x.1.pte
    let far := xs.filter fun x => pteRH x.1.pte
    let s := near.foldl (fun s x =>
      let (id, s) := s.fresh
      { s with mreds := s.mreds ++ [{ id := id, pa := x.1.pa, aop := aop, w := w, x := x.2, sid := s.st.sid
                                      lane := x.1.lane, ctx := s.blk.ctx, va := x.1.va, ms := pteMS x.1.pte }] }) s
    if far.isEmpty then s
    else
      s.remoteSend (far.map (·.1)) (fun l => .reduce aop w (((far.find? fun x => x.1 == l).map (·.2)).getD 0)) true

/-- MRED (R326, R327). -/
def execMred (w : FMRed) (s : State) : Res :=
  let words := if w.w then 2 else 1
  if !(regsOk s.blk.hdr.regs w.addr 2 && regsOk s.blk.hdr.regs w.data words) then .next (s.takeTrap 1 0 0)
  else
    let act := s.active
    if act = 0 then .next s.done
    else
      let n := if w.w then 8 else 4
      let q : AccReq := { u := w.u, act := act, lanes := s.addrLanes w.u act w.addr, n := n, align := n, acc := .write
                          fmtOk := false, watch := 2
                          ecc := [(Src.reg w.addr 0, 2), (Src.reg w.data 0, words)].findSome? (s.srcBroken (lanesUsed w.u act)) }
      s.pairedStore q (w.ord == .rel) fun s =>
      if w.ord == .rel && s.releaseWaits (mdScope s.st.md) then .next (s.stalled .mem)
      else
        match s.gate q with
        | .stop r => r
        | .go t ls =>
          let v := s.dataVal w.data words
          let t := if w.ord == .rel then t.released else t
          let t := t.sendReds w.aop w.w (ls.map fun l => (l, (atomArgs w.aop w.w v (opLane w.u l.lane)).1))
          .next ((t.touchAll .write ls).weighSt (aopCounter w.aop) ls.length).done

/-- Element size of an indexed access under MD.TYPE (R328). -/
def idxSize (ty : Nat) : Nat := if ty = 9 then 8 else if ty = 10 ∨ ty = 11 then 2 else 4

/-- The remapped index under `.hash` (R328). -/
def hashIdx (k i : Nat) : Nat := if k = 0 then 0 else (i * 0x9E3779B1 % 2 ^ 32) / 2 ^ (32 - Nat.min k 32)

/-- The lanes' scratchpad reads of `.tab` (R328). -/
def tabLanes (md : Addr) (reg idx : SVec) (ls : List Lane) : List (Nat × Nat) :=
  ls.map fun l => (l.val, (reg.lane l).toNat + 4 * ((idx.lane l).toNat % 2 ^ Nat.min (mdRemapParam md) 16))

/-- Whether the operands of an indexed access are legal: REG is one of them under `.mod` and `.tab` (R328). -/
def State.idxOk (s : State) (base idx : RegNo) (remap : Remap) : Bool :=
  regsOk s.blk.hdr.regs base 2 && regsOk s.blk.hdr.regs idx 1
    && (remap == .none || remap == .hash || regsOk s.blk.hdr.regs (mdRemapReg s.st.md) 1)

/-- The registers that an indexed access reads for its addresses (R328). -/
def State.idxSrcs (s : State) (base idx : RegNo) (remap : Remap) : List (Src × Nat) :=
  [(.reg base 0, 2), (.reg idx 0, 1)] ++ (if remap == .none || remap == .hash then [] else [(.reg (mdRemapReg s.st.md) 0, 1)])

/-- The addresses of an indexed access, lane by lane, with the places its `.tab` reads met and the lanes whose `.tab` reads trap, which
have no address (R157, R328). -/
def State.idxLanes (s : State) (u : Bool) (ls : List Lane) (base idx : RegNo) (remap : Remap) :
    Except State (List (Nat × Nat) × List (Nat × Nat × Place) × List SpadBad) :=
  let lo := s.rdReg 4 base
  let hi := s.rdReg 5 (regPlus base 1)
  let iv := s.rdReg 6 idx
  let rv := s.rdReg 7 (mdRemapReg s.st.md)
  let size := idxSize (mdType s.st.md)
  let addr (l : Lane) (i : Nat) : Nat × Nat := (l.val, ((pairVal (lo.lane l) (hi.lane l)).toNat + size * i) % 2 ^ 64)
  match remap with
  | .none => .ok (ls.map fun l => addr l (iv.lane l).toNat, [], [])
  | .mod => .ok (ls.map fun l => addr l ((iv.lane l).toNat % (rv.lane l).toNat), [], [])
  | .hash => .ok (ls.map fun l => addr l (hashIdx (mdRemapParam s.st.md) (iv.lane l).toNat), [], [])
  | .tab =>
    let reads := tabLanes s.st.md rv iv ls
    let bads := reads.filterMap fun l => s.spadBad u 4 false l.1 l.2
    let ps := s.spadPlaces (reads.filter fun l => !bads.any fun x => x.lane == l.1) 4 false
    match s.spadWaits ps 4 false with
    | some r => .error (s.stalled r)
    | none => .ok (ps.map fun p => addr (Fin.ofNat 64 p.1) (leNat (s.placeBytes p.1 p.2.2 4)), ps, bads)

/-- LDX (R328, R329). -/
def execLdx (w : FX) (s : State) : Res :=
  let size := idxSize (mdType s.st.md)
  let words := if size = 8 then 2 else 1
  if !(s.idxOk w.base w.idx w.remap && regsOk s.blk.hdr.regs w.d words && decide (mdType s.st.md ≤ 11)) then
    .next (s.takeTrap 1 0 0)
  else
    let act := s.active
    if act = 0 then .next s.done
    else
      match s.idxLanes w.u (lanesUsed w.u act).lanes w.base w.idx w.remap with
      | .error t => .next t
      | .ok (lanes, ps, bads) =>
        let q : AccReq := { u := w.u, act := act, lanes := lanes, n := size, align := size, acc := .read, fmtOk := false
                            watch := 1, tab := bads
                            ecc := (s.idxSrcs w.base w.idx w.remap).findSome? (s.srcBroken (lanesUsed w.u act)) }
        s.pairedAcquire q fun s =>
        match s.gate q with
        | .stop r => r
        | .go t ls =>
          match t.loadAll ls size false false with
          | .error t => .next t
          | .ok (rs, t) =>
            let rs := rs.map fun r => (r.1, loadWords r.2 words)
            .next ((t.spadRangeErr ps).deliverLoad s.st w.u w.la.toNat (regDst w.d) rs words).done

/-- The groups of lanes of equal address with their combined value, in order of their lowest lanes (R330). -/
def scatGroups (aop : Aop) (w : Bool) (x : LaneAcc → Addr) : List LaneAcc → List (LaneAcc × Addr)
  | [] => []
  | ls => (ls.filter fun l => (ls.find? fun k => k.va == l.va) == some l).map fun l =>
      match ls.filter fun k => k.va == l.va with
      | [] => (l, x l)
      | k :: ks => (l, ks.foldl (fun c k => aopApply aop w c (x k) 0) (x k))

/-- SCAT (R328, R330). -/
def execScat (w : FScat) (s : State) : Res :=
  let wide := mdType s.st.md = 9
  let words := if wide then 2 else 1
  if !(s.idxOk w.base w.idx w.remap && regsOk s.blk.hdr.regs w.data words && decide (mdType s.st.md ≤ 9)
      && !(wide && w.red == .fadd)) then .next (s.takeTrap 1 0 0)
  else
    let act := s.active
    if act = 0 then .next s.done
    else
      match s.idxLanes w.u (lanesUsed w.u act).lanes w.base w.idx w.remap with
      | .error t => .next t
      | .ok (lanes, ps, bads) =>
        let size := idxSize (mdType s.st.md)
        let srcs := s.idxSrcs w.base w.idx w.remap ++ [(.reg w.data 0, words)]
        let q : AccReq := { u := w.u, act := act, lanes := lanes, n := size, align := size, acc := .write, fmtOk := false
                            watch := 2, tab := bads, ecc := srcs.findSome? (s.srcBroken (lanesUsed w.u act)) }
        s.pairedAcquire q fun s =>
        match s.gate q with
        | .stop r => r
        | .go t ls =>
          let v := s.dataVal w.data words
          let gs := scatGroups w.red wide (fun l => (atomArgs w.red wide v (opLane w.u l.lane)).1) ls
          let t := ((t.spadRangeErr ps).sendReds w.red wide gs).touchAll .write (gs.map (·.1))
          .next (t.weighSt (aopCounter w.red) ls.length).done

/-- The base-die unit of a memory-side line, 160 in each stack: the hash is not architectural (R324, log entry 20). -/
def unitOf (line : Nat) : Nat := stackOf (line * 128) * 160 + line % 160

/-- Whether a line has a monitor, or one is free for it (R186, R324). -/
def State.canMonitor (s : State) (line : Nat) (ms : Bool) : Bool :=
  if ms then
    let d := s.die (dieOfPa (line * 128))
    (d.unitMons.any fun m => m.line == line)
      || decide ((d.unitMons.filter fun m => unitOf m.line == unitOf line).length < 16)
  else
    let c := s.core s.st.core
    (c.monitors.any fun m => m.line == line) || decide (c.monitors.length < 128)

/-- Join a monitor. -/
def joinMonitor (line slot : Nat) : List Monitor → List Monitor
  | [] => [{ line := line, slots := [slot] }]
  | m :: ms => if m.line = line then { m with slots := addNew m.slots slot } :: ms else m :: joinMonitor line slot ms

/-- Arm the monitor of a line for the street in focus (R186). -/
def State.armLine (s : State) (line : Nat) (ms : Bool) : State :=
  if ms then s.onDie (dieOfPa (line * 128)) fun d => { d with unitMons := joinMonitor line s.st.slot d.unitMons }
  else s.onCore s.st.core fun c => { c with monitors := joinMonitor line s.st.slot c.monitors }

/-- Whether a lane's strong load from a line still stands, no write having followed it (R201). What another device has written to a line
of its own is not this machine's to know: a free choice, and no wait where the home is declared failed (R379, log entry 74). -/
def State.stillSeen (s : State) (l : LaneAcc) : Bool :=
  let line := lineOf l.heldPa
  (s.st.seen.any fun x => x.lane == l.lane && x.line == line && x.ver == s.ver line)
    && (!pteRH l.pte || (!s.homeFailed (homeDevice l.pa) && Config.freeBit s.freeTick line))

/-- The lanes of a WAITA that wait: each has a strong load from its line that no write has followed, and a monitor (R201). The
monitors are armed on the way. -/
def waitaLanes : List LaneAcc → State → List LaneAcc × State
  | [], s => ([], s)
  | l :: ls, s =>
    let line := lineOf l.heldPa
    if s.stillSeen l && s.canMonitor line (pteMS l.pte) then
      let (ws, s) := waitaLanes ls (s.armLine line (pteMS l.pte))
      (l :: ws, s)
    else waitaLanes ls s

/-- WAITA (R200, R201). It reads no byte, so a watch range makes it take no trap (R372; DESIGN CHOICE, log entry 81). -/
def execWaita (w : FWait) (s : State) : Res :=
  if !regsOk s.blk.hdr.regs w.addr 2 then .next (s.takeTrap 1 0 0)
  else
    let act := s.active
    if act = 0 then .next s.done
    else
      let ecc := s.srcBroken (lanesUsed w.u act) (.reg w.addr 0, 2)
      let xs := (s.addrLanes w.u act w.addr).map fun l => (l.1, l.2, translate s s.st.core s.blk.ctx l.2 .read)
      match firstFault xs with
      | some x => match ecc with
        | some fa => .next (s.sramError.takeTrap 11 0 fa)
        | none => s.xlStop x
      | none =>
        let ls := laneAccs xs
        let (ws, t) := waitaLanes ls (s.touchAll .read ls)
        let m := if ws.isEmpty then 0 else if w.u then s.st.path.mask else maskOf (ws.map (·.lane))
        if m != 0 && s.noEntry m then .next (s.takeTrap 10 0 0)
        else
          match ecc with
          | some fa => .next (s.sramError.takeTrap 11 0 fa)
          | none =>
            let t := t.onSt fun u =>
              { u with seen := u.seen.filter fun x => !ls.any fun l => l.lane == x.lane && lineOf l.heldPa == x.line }
            if m = 0 then .next t.done
            else
              let t := t.leaveEntry m .wait (.waita (ws.map fun l => lineOf l.heldPa) false)
              if t.st.path.reason == .wait then .next { t with st := { t.st with stall := none } }
              else .next (t.onSt fun u => u.openWin s.st w.la.toNat [] 0).done

/-- FENCE (R202): kind 1 `.acq`, 2 `.rel`, 3 `.ar`. -/
def execFence (w : FFence) (s : State) : Res :=
  s.paired 3 fun s =>
  let rel := w.kind.getLsbD 1
  if rel && s.releaseWaits w.f.toNat then .next (s.stalled .mem)
  else
    let s := if rel then s.released else s
    let s := if w.kind.getLsbD 0 then s.acquireAt w.f.toNat else s
    .next s.done

/-- What CACHE does to a line (R203): write back, invalidate the L1 copy, or both with the L2 copy. -/
inductive CacheOp where
  | wb | inv | wbinv
deriving DecidableEq, Repr

/-- Write a line back and keep it (R203). -/
def State.wbLine (s : State) (line : Nat) : State :=
  match s.l2.find? fun l => l.line == line with
  | none => s
  | some l =>
    let s := s.writeBack l
    { s with l2 := s.l2.map fun x => if x.line == line then { x with dirty := [] } else x }

/-- Drop the L1 copy of a line (R203). -/
def State.l1Drop (s : State) (core line : Nat) : State :=
  s.onCore core fun c => { c with l1 := c.l1.filter fun x => x.pa / 4 != line }

/-- CACHE on one line. -/
def State.cacheLine (s : State) (op : CacheOp) (line : Nat) : State :=
  match op with
  | .wb => s.wbLine line
  | .inv => s.l1Drop s.st.core line
  | .wbinv =>
    let s := match s.l2.find? fun l => l.line == line with
      | some l => s.dropLine l
      | none => s
    s.l1Drop s.st.core line

/-- CACHE on lines of a region from `va` up: a translation miss is serviced and an address out of canonical form is reported (R190), a
line of another fault, of a remote home or of a memory-side page is left as it is (R203, R317). -/
def cacheLines (op : CacheOp) : Nat → Nat → State → Except State State
  | 0, _, s => .ok s
  | n + 1, va, s =>
    match translate s s.st.core s.blk.ctx (va % 2 ^ 64) .read with
    | .fault f => if f.kind = 0 || f.kind = 3 then .error (s.service f .mem) else cacheLines op n (va + 128) s
    | .hole _ => cacheLines op n (va + 128) s
    | .ok pa pte ea base size =>
      let s := touch s s.st.core s.blk.ctx .read pa pte ea base size
      cacheLines op n (va + 128) (if pteRH pte || pteMS pte then s else s.cacheLine op (lineOf pa))

/-- CACHE on the regions of some lanes: base and length (R203). -/
def cacheRegions (op : CacheOp) : List (Nat × Nat) → State → Except State State
  | [], s => .ok s
  | (va, n) :: rest, s =>
    let lo := va / 128 * 128
    match cacheLines op (if n = 0 then 0 else (va + n - 1) / 128 - va / 128 + 1) lo s with
    | .ok s => cacheRegions op rest s
    | .error s => .error s

/-- CACHE (R203): its only traps are ILLEGAL and WATCH. It meets a watch range as a read of its region as given (DESIGN CHOICE, log
entry 73). -/
def State.cacheOp (s : State) (op : CacheOp) (w : FPair) : Res :=
  if !(regsOk s.blk.hdr.regs w.a 2 && decide (w.a.toNat + 2 < s.blk.hdr.regs)) then .next (s.takeTrap 1 0 0)
  else
    let act := s.active
    if act = 0 then .next s.done
    else
      let len := s.rdReg 6 (regPlus w.a 2)
      let rs := (s.addrLanes w.u act w.a).map fun l => (l.1, l.2, (len.lane (Fin.ofNat 64 l.1)).toNat)
      match rs.find? fun r => r.2.2 != 0 && s.watched w.u r.1 0 1 r.2.1 r.2.2 with
      | some r => .next (s.watchTrap r.2.1)
      | none =>
        match cacheRegions op (rs.map (·.2)) s with
        | .ok t => .next t.done
        | .error t => .next t

/-- CACHE.WB (R203). -/
def execCacheWb (w : FPair) (s : State) : Res := s.cacheOp .wb w

/-- CACHE.INV (R203). -/
def execCacheInv (w : FPair) (s : State) : Res := s.cacheOp .inv w

/-- CACHE.WBINV (R203). -/
def execCacheWbinv (w : FPair) (s : State) : Res := s.cacheOp .wbinv w

/-- Prefetch one address (R204). -/
def State.prefetch (s : State) (va : Nat) (nc : Bool) : State :=
  match translate s s.st.core s.blk.ctx va .read with
  | .ok pa pte ea base size =>
    let s := touch s s.st.core s.blk.ctx .read pa pte ea base size
    if pteRH pte || pteMS pte then s
    else if nc then s.l2Fill (lineOf pa) s.blk.ctx.ctxid
    else (s.loadWeak s.st.core (lineOf pa * 128) 128 s.blk.ctx.ctxid).2
  | _ => s

/-- PREF (R204). -/
def execPref (w : FPref) (s : State) : Res :=
  if !regsOk s.blk.hdr.regs w.addr 2 then .next (s.takeTrap 1 0 0)
  else
    let act := s.active
    if act = 0 then .next s.done
    else
      let t := (s.addrLanes w.u act w.addr).foldl (fun s l => s.prefetch l.2 w.nc) s
      .next (t.onSt fun u => u.openWin s.st w.la.toNat [] 0).done

end Sys2Proof.Machine
end

