-- ==== Sys2Proof/Machine/EngMem.lean ====
section
/-! DEFINITION. Memory as the engines reach it (R243 to R249, R259 to R261, R280, R281, R293): sector by sector under the
context's translation, and runs of elements along a row in the format of their page (R77 to R84). -/

namespace Sys2Proof.Machine

/-- What ends an engine's attempt: a translation fault to be serviced, an address that holds no memory, an operand refused
(R280, R294) with its reason of R289, uncorrectable data with the virtual address of its sector (R249), or an uncorrectable word of a
pan. An attempt that ends has no other effect. A page of another FMT or BL within an operand counts as reason 3, a scale entry that
R84 rejects as 4 (DESIGN CHOICE, log entry 70). -/
inductive EngStop where
  | fault (f : XFault)
  | hole (pa : Nat)
  | bad (reason : Nat)
  | ecc (va : Nat)
  | sram
deriving DecidableEq, Repr

/-- An engine's work on the machine. -/
abbrev EngM := StateT State (Except EngStop)

/-- Who accesses memory: an agent in the name of a context. -/
structure EngId where
  agent : Nat
  ctx   : CtxDesc
deriving DecidableEq, Repr

/-- Wrap an address. -/
def wrap64 (a : Nat) : Nat := a % 2 ^ 64

/-- An address plus a signed offset. -/
def addrPlus (a : Nat) (d : Int) : Nat := (BitVec.ofInt 64 ((a : Int) + d)).toNat

/-- The parts of a byte range in ascending 32-byte sectors: address and length (R320). -/
def sectorParts (va n : Nat) : List (Nat × Nat) :=
  (sectorsOf va n).map fun x =>
    let lo := Nat.max va (x * 32)
    (wrap64 lo, Nat.min (va + n) (x * 32 + 32) - lo)

/-- Translate for an engine, or end the attempt (R245, R261). -/
def engXlate (w : EngId) (va : Nat) (acc : Acc) : EngM (Nat × Nat × Nat × Nat × Nat) := do
  let s ← get
  match translate s w.agent w.ctx va acc with
  | .ok pa pte ea base size => pure (pa, pte, ea, base, size)
  | .fault f => throw (.fault f)
  | .hole pa => throw (.hole pa)

/-- The leaf entry of an address for an engine. -/
def engLeaf (w : EngId) (va : Nat) (acc : Acc) : EngM Nat := do
  let x ← engXlate w va acc
  pure x.2.1

/-- Bytes that come from another device: a free value (R378, log entry 22). -/
def farBytes (s : State) (va n : Nat) : List Byte :=
  (List.range n).map fun i => (Config.freeWord s.freeTick (va + i)).extractLsb' 0 8

/-- One sector's part read by an engine, unspecified bytes from a street's frame stack or hold table (R145), and the sector's virtual address when it is uncorrectable (R249, R261, R364). -/
def engReadPart (w : EngId) (p : Nat × Nat) : EngM (List Byte × Option Nat) := do
  let x ← engXlate w p.1 .read
  modify fun s => touch s w.agent w.ctx .read x.1 x.2.1 x.2.2.1 x.2.2.2.1 x.2.2.2.2
  let s ← get
  if pteRH x.2.1 then pure (farBytes s p.1 p.2, none)
  else
    let bad := s.badSector x.1 p.2 (pteMS x.2.1)
    let s := match bad with | some b => s.meetBad b w.ctx.ctxid 0xFFFFFFFF (pteMS x.2.1) | none => s
    let r := if bad.any (·.2) then (s.mem.readN x.1 p.2, s) else s.loadCopy x.1 p.2 w.ctx.ctxid (pteMS x.2.1)
    set r.2
    pure (s.passing none w.ctx.ctxid p.1 x.1 r.1, if bad.isSome then some (p.1 / 32 * 32) else none)

/-- Bytes read by an engine, each with the address of its sector when that is uncorrectable. -/
def engRead (w : EngId) (va n : Nat) : EngM (List (Byte × Option Nat)) := do
  let rs ← (sectorParts va n).mapM fun p => engReadPart w p
  pure (rs.map fun r => r.1.map fun b => (b, r.2)).flatten

/-- What an engine leaves whose attempt ended at an uncorrectable sector: the read itself, with its record (R364, R365). -/
def State.meetEcc (s : State) (w : EngId) (va : Nat) : State :=
  match engRead w va 1 s with
  | .ok (_, t) => t
  | .error _ => s

/-- Bytes read by an engine that ends at uncorrectable data (R249). -/
def engReadSure (w : EngId) (va n : Nat) : EngM (List Byte) := do
  let rs ← (sectorParts va n).mapM fun p => do
    let r ← engReadPart w p
    match r.2 with
    | some a => throw (.ecc a)
    | none => pure r.1
  pure rs.flatten

/-- One sector's part written by an engine (R189). A part on another device is sent there (R378). -/
def engWritePart (w : EngId) (va : Nat) (bs : List Byte) : EngM Unit := do
  let x ← engXlate w va .write
  modify fun s =>
    let s := touch s w.agent w.ctx .write x.1 x.2.1 x.2.2.1 x.2.2.2.1 x.2.2.2.2
    if pteRH x.2.1 then s.weigh w.agent w.ctx.ctxid 19 bs.length else s.store none x.1 (s.passing none w.ctx.ctxid va x.1 bs) w.ctx.ctxid (pteMS x.2.1)

/-- Bytes written by an engine, sector by sector. -/
def engWrite (w : EngId) (va : Nat) (bs : List Byte) : EngM Unit := do
  let _ ← (sectorParts va bs.length).foldlM (fun (rest : List Byte) p => do
    engWritePart w p.1 (rest.take p.2)
    pure (rest.drop p.2)) bs
  pure ()

/-- One element of a run: its encoding or mantissa container, its block's exponent byte, and the sector that makes it
uncorrectable. -/
structure Elem where
  raw : Nat
  e   : Nat
  ecc : Option Nat
deriving DecidableEq, Repr

/-- A run of elements in the format of its page, from element `first` of its row on (R278). -/
structure ElemRun where
  page  : Nat
  fmt   : Nat
  bl    : Nat
  first : Nat
  elems : Array Elem

/-- Page format as an element format: a plain page reads as f32 (R278, R281). -/
def elemFmt (pte : Nat) : Nat := if pteFMT pte = 0 then 10 else pteFMT pte

/-- Block bytes of a page, or the element size (R280). -/
def unitBytes (fmt bl : Nat) : Nat := if fmtBfp fmt then 2 ^ blShift fmt bl else fmtC fmt / 8

/-- The exponent byte of the block at an address, and whether it is uncorrectable; refused where R84 rejects the entry. -/
def engScale (w : EngId) (pte va : Nat) : EngM (Byte × Option Nat) := do
  let s ← get
  match scaleAddr s w.agent w.ctx pte va with
  | none => throw (.bad 4)
  | some sa =>
    let leaf ← engLeaf w sa .read
    if pteFMT leaf != 0 then throw (.bad 4)
    else
      let r ← engReadPart w (sa, 1)
      pure (r.1.headD 0, r.2)

/-- The byte offset of element k of a row, rounded down. -/
def elemByte (fmt k : Nat) : Nat := k * fmtC fmt / 8

/-- Elements [first, first + n) of the row at an address, on pages of the FMT and BL of one leaf entry (R280). -/
def fetchAs (w : EngId) (pte row first n : Nat) : EngM ElemRun := do
  let fmt := elemFmt pte
  let bl := pteBL pte
  let c := fmtC fmt
  let lo := elemByte fmt first
  let len := ((first + n) * c + 7) / 8 - lo
  let start := wrap64 (row + lo)
  (sectorParts start len).forM fun p => do
    let q ← engLeaf w p.1 .read
    if pteFMT q != pteFMT pte || (fmtBfp fmt && pteBL q != bl) then throw (.bad 3)
  let bs ← engRead w start len
  let arr := bs.toArray
  let sh := blShift fmt bl
  let blocks := if fmtBfp fmt && decide (0 < n) then List.range' (start / 2 ^ sh) ((start + len - 1) / 2 ^ sh - start / 2 ^ sh + 1)
    else []
  let exps ← blocks.mapM fun b => do
    let va := wrap64 (b * 2 ^ sh)
    let q ← engLeaf w (if va < start then start else va) .read
    engScale w q va
  let earr := exps.toArray
  let elem (i : Nat) : Elem :=
    let bit0 := first * c % 8 + i * c
    let by0 := bit0 / 8
    let k := (bit0 + c + 7) / 8 - by0
    let part := (List.range k).map fun j => arr.getD (by0 + j) (0, none)
    let raw := bits (leNat (part.map (·.1))) (bit0 % 8) c
    if fmtBfp fmt then
      let e := earr.getD ((start + by0) / 2 ^ sh - start / 2 ^ sh) (0, none)
      ⟨raw, e.1.toNat, (part.findSome? (·.2)).or e.2⟩
    else ⟨raw, 0, part.findSome? (·.2)⟩
  pure { page := pteFMT pte, fmt := fmt, bl := bl, first := first, elems := ((List.range n).map elem).toArray }

/-- Elements of the row at an address in the format of the page on which the row begins (R278, R280). -/
def fetchRun (w : EngId) (row first n : Nat) : EngM ElemRun := do
  let pte ← engLeaf w row .read
  fetchAs w pte row first n

/-- An encoding of a floating format as f32 bits, exactly; a signalling NaN stays signalling. -/
def widen (fmt x : Nat) : Nat :=
  let g := fmtFloat fmt
  if fmt = 10 then x
  else if g.isNan x then f32.zero (g.sign x) + f32.emask * 2 ^ 23 + g.frac x * 2 ^ (23 - g.fbits)
  else (g.convert f32 0 false x).1

/-- Decode an element to f32 bits (R75, R78, R281), with the flags of the conversion. -/
def decodeElem (fmt : Nat) (x : Elem) : FRes :=
  if fmtBfp fmt then (bfpDecode (fmtW fmt) x.e x.raw, 0)
  else if fmt = 10 then (x.raw, 0)
  else (fmtFloat fmt).convert f32 0 false x.raw

/-- Whether an element counts as nonzero (R81). -/
def elemNonzero (fmt : Nat) (x : Elem) : Bool :=
  if fmtBfp fmt then x.e == 255 || bits x.raw 0 (fmtW fmt) != 0 else !(fmtFloat fmt).isZero x.raw

/-- Encode whole blocks of f32 values: containers, exponent bytes, and whether a mantissa saturated (R79). -/
def encodeBlocks (fmt b : Nat) : Nat → List Nat → List Nat × List Nat × Bool
  | 0, _ => ([], [], false)
  | n + 1, xs =>
    let (e, ms, ov) := bfpEncode (fmtW fmt) (xs.take b)
    let (cs, es, ov') := encodeBlocks fmt b n (xs.drop b)
    (ms.map (mantBits (fmtC fmt)) ++ cs, e :: es, ov || ov')

/-- Containers packed with no gaps (R77). -/
def packBits (c : Nat) (xs : List Nat) : List Byte :=
  leBytes ((xs.length * c + 7) / 8) (xs.foldr (fun x acc => acc * 2 ^ c + x % 2 ^ c) 0)

/-- The bytes of a row of f32 values in a page format: element bytes, exponent bytes, and flags (R79, R281). -/
def encodeRow (fmt bl : Nat) (xs : List Nat) : List Byte × List Nat × Word :=
  if fmtBfp fmt then
    let b := blLen bl
    let r := encodeBlocks fmt b (xs.length / b) xs
    (packBits (fmtC fmt) r.1, r.2.1, flIf r.2.2 flBFPOV)
  else if fmt = 10 then (packBits 32 xs, [], 0)
  else
    let rs := xs.map fun x => f32.convert (fmtFloat fmt) 0 false x
    (packBits (fmtC fmt) (rs.map (·.1)), [], rs.foldl (fun f r => f ||| r.2) 0)

/-- Check a row of a formatted destination before anything is written: alignment, one FMT and BL, scale entries (R281, R294).
The page's FMT and BL. A row that ends inside a block, at the end of its extent, is refused with reason 4 (DESIGN CHOICE, log entry 84). -/
def checkRow (w : EngId) (row n : Nat) : EngM (Nat × Nat) := do
  let pte ← engLeaf w row .write
  let fmt := elemFmt pte
  let bl := pteBL pte
  let u := unitBytes fmt bl
  let len := n * fmtC fmt / 8
  if row % u != 0 || (fmtBfp fmt && (n * fmtC fmt) % (8 * u) != 0) then throw (.bad 4)
  (sectorParts row len).forM fun p => do
    let q ← engLeaf w p.1 .write
    if pteFMT q != pteFMT pte || (fmtBfp fmt && pteBL q != bl) then throw (.bad 3)
  if fmtBfp fmt then
    (List.range (len / u)).forM fun i => do
      let va := wrap64 (row + i * u)
      let q ← engLeaf w va .write
      match scaleAddr (← get) w.agent w.ctx q va with
      | none => throw (.bad 4)
      | some sa =>
        let leaf ← engLeaf w sa .write
        if pteFMT leaf != 0 then throw (.bad 4)
  pure (pteFMT pte, if fmtBfp fmt then bl else 0)

/-- Write a row of f32 values in the format of its pages (R79, R281); the flags of its roundings. -/
def storeRow (w : EngId) (row fmt bl : Nat) (xs : List Nat) : EngM Word := do
  let r := encodeRow fmt bl xs
  engWrite w row r.1
  let u := unitBytes fmt bl
  (r.2.1.zipIdx).forM fun e => do
    let va := wrap64 (row + e.2 * u)
    let q ← engLeaf w va .write
    match scaleAddr (← get) w.agent w.ctx q va with
    | none => throw (.bad 4)
    | some sa => engWrite w sa [BitVec.ofNat 8 e.1]
  pure r.2.2

end Sys2Proof.Machine
end

