-- ==== Sys2Proof/Machine/EngMath.lean ====
section
/-! DEFINITION. The arithmetic of the matrix engine: the order of sums of R87 and R88, sparse operands (R248, R280, R282), and
the moment product (R139 to R141). Values of a pan are f32 encodings. -/

namespace Sys2Proof.Machine

/-- A pan's new value and the R285 summary bits of the operations. -/
abbrev Acc2 := Nat × Nat

/-- Bits [3:0] of an exception summary from SR flags (R285). -/
def sumBits (f : Word) : Nat :=
  b2n (f &&& flIV != 0) + 2 * b2n (f &&& flOF != 0) + 4 * b2n (f &&& flUF != 0) + 8 * b2n (f &&& flNX != 0)

/-- A result with its summary bits joined to what stands. -/
def Acc2.step (sum : Nat) (r : FRes) : Acc2 := (r.1, sum ||| sumBits r.2)

/-- C := round_ne_f32(C + t) (R87, R140). -/
def addTerm (c : Acc2) (t : FRes) : Acc2 := Acc2.step (c.2 ||| sumBits t.2) (f32.add 0 false false c.1 t.1)

/-- Mantissa of an element of a BFP run. -/
def ElemRun.mant (a : ElemRun) (i : Nat) : Int := mantOf (fmtW a.fmt) (a.elems.getD i ⟨0, 0, none⟩).raw

/-- Exponent byte of the block of an element. -/
def ElemRun.expByte (a : ElemRun) (i : Nat) : Nat := (a.elems.getD i ⟨0, 0, none⟩).e

/-- An element of a floating run as f32 bits. -/
def ElemRun.f32At (a : ElemRun) (i : Nat) : Nat := widen a.fmt (a.elems.getD i ⟨0, 0, none⟩).raw

/-- E − 127 − (w − 1) of a block (R87, R141). -/
def expOff (fmt e : Nat) : Int := (e : Int) - 127 - (fmtW fmt - 1 : Nat)

/-- S × 2^x rounded to f32 (R87). -/
def scaledSum (v : Int) (x : Int) : FRes := f32.round 0 false (decide (v < 0)) v.natAbs x

/-- Which kept element of A stands at each of the 256 positions of a step; none where it was not kept (R248, R282). -/
abbrev KeptMap := Array (Option Nat)

/-- Every element stands at its own position. -/
def denseMap : KeptMap := ((List.range 256).map some).toArray

/-- One sub-block's exact sum over positions [g, g + n) (R87). -/
def blockSum (a b : ElemRun) (pos : KeptMap) (g n : Nat) : Int :=
  (List.range n).foldl (fun (acc : Int) i =>
    match pos.getD (g + i) none with
    | some j => acc + a.mant j * b.mant (g + i)
    | none => acc) 0

/-- One K-step of an output element on BFP operands in sub-blocks of s (R87); `ea` gives the exponent byte of the A block of a
position. -/
def bfpChain (a b : ElemRun) (pos : KeptMap) (s : Nat) (ea : Nat → Nat) (c : Acc2) : Acc2 :=
  (List.range (256 / s)).foldl (fun c g =>
    let x := ea (g * s)
    let y := b.expByte (g * s)
    let t : FRes := if x = 255 ∨ y = 255 then (0x7FC00000, 0)
      else scaledSum (blockSum a b pos (g * s) s) (expOff a.fmt x + expOff b.fmt y)
    addTerm c t) c

/-- One K-step of an output element on floating operands (R88): an element that is not kept counts as +0 (R248). -/
def floatChain (a b : ElemRun) (pos : KeptMap) (c : Acc2) : Acc2 :=
  (List.range 256).foldl (fun c k =>
    match pos.getD k none with
    | some j => Acc2.step c.2 (f32.fma 0 false false false (a.f32At j) (b.f32At k) c.1)
    | none => addTerm c (0, 0)) c

/-- Kept elements and group length of a pattern (R282); dense is 1:1. -/
def patN : Nat → Nat | 0 => 2 | 1 => 1 | _ => 4
@[inherit_doc patN] def patM : Nat → Nat | 0 => 4 | 1 => 4 | _ => 8
/-- Index width, field width and metadata bytes of a step (R282). -/
def patIW : Nat → Nat | 0 | 1 => 2 | _ => 3
@[inherit_doc patIW] def patF : Nat → Nat | 0 => 4 | 1 => 2 | _ => 12
@[inherit_doc patIW] def patMB : Nat → Nat | 0 => 32 | 1 => 16 | _ => 48

/-- Indices of a metadata group. -/
def groupIdx (pat : Nat) (meta_ : Nat) (g : Nat) : List Nat :=
  (List.range (patN pat)).map fun n => bits meta_ (g * patF pat + n * patIW pat) (patIW pat)

/-- Whether indices rise strictly. -/
def rising : List Nat → Bool
  | a :: b :: r => decide (a < b) && rising (b :: r)
  | _ => true

/-- The kept map of a row's step, and whether a group is out of order (R282). -/
def sparseMap (pat : Nat) (meta_ : List Byte) : KeptMap × Bool :=
  let m := leNat meta_
  let gs := (List.range (256 / patM pat)).map fun g => groupIdx pat m g
  let pos := (gs.zipIdx.map fun x =>
    (List.range (patM pat)).map fun i =>
      if rising x.1 then (x.1.findIdx? (· == i)).map fun n => x.2 * patN pat + n else none).flatten
  (pos.toArray, gs.any fun g => !rising g)

/-- An operand row of A with its kept map and its pattern: `den` kept of every `num` along k. -/
structure ARow where
  run  : ElemRun
  pos  : KeptMap
  num  : Nat
  den  : Nat

/-- k spanned by a block of A (R280). -/
def ARow.span (a : ARow) : Nat := blLen a.run.bl * a.num / a.den

/-- Exponent byte of the A block at a position of the step (R280). -/
def ARow.ea (a : ARow) (k : Nat) : Nat := a.run.expByte (k * a.den / a.num)

/-- Whether formats are allowed together (R88, R139): all BFP, or all one floating format. -/
def fmtsAgree (fs : List Nat) : Bool :=
  fs.all fmtBfp || match fs with | [] => true | f :: r => !fmtBfp f && r.all (· == f)

/-- One K-step of an output element of MMT or MMTS; rows and columns outside the limits give +0 terms (R280). -/
def mmtChain (a : Option ARow) (b : Option ElemRun) (c : Acc2) : Acc2 :=
  match a, b with
  | some a, some b =>
    if fmtBfp a.run.fmt then bfpChain a.run b a.pos (Nat.min a.span (blLen b.bl)) a.ea c else floatChain a.run b a.pos c
  | _, _ => addTerm c (0, 0)

/-- A variance element of a floating plane: a negative number is read as +0 and recorded (R139). -/
def varElem (x : Nat) : Nat × Bool :=
  if f32.isNan x || !f32.sign x then (x, false) else (0, !f32.isZero x)

/-- The variance term of one k on floating planes (R140). -/
def varTerm (am av bm bv : Nat) : FRes :=
  match f32.nanOf [am, av, bm, bv] with
  | some r => r
  | none =>
    let n := f32.num
    let mul3 (x y z : Nat) : Option Num := ((n x).mul (n y)).bind fun p => p.mul (n z)
    match mul3 am am bv, mul3 bm bm av, (n av).mul (n bv) with
    | some p, some q, some r => f32.sum 0 false [p, q, r]
    | _, _, _ => f32.invalid

/-- One K-step of a variance element on floating planes (R140). -/
def varFloatChain (am av bm bv : ElemRun) (c : Acc2) : Acc2 :=
  (List.range 256).foldl (fun c k =>
    let x := varElem (av.f32At k)
    let y := varElem (bv.f32At k)
    let c : Acc2 := (c.1, c.2 ||| 16 * b2n (x.2 || y.2))
    addTerm c (varTerm (am.f32At k) x.1 (bm.f32At k) y.1)) c

/-- A variance mantissa: a negative one is read as 0 (R141). -/
def varMant (m : Int) : Int := if m < 0 then 0 else m

/-- One K-step of a variance element on BFP planes (R141). -/
def varBfpChain (am av bm bv : ElemRun) (c : Acc2) : Acc2 :=
  let s := [am, av, bm, bv].foldl (fun s r => Nat.min s (blLen r.bl)) 128
  (List.range (256 / s)).foldl (fun c g =>
    let ks := List.range' (g * s) s
    let k0 := g * s
    let neg := ks.any fun k => (decide (av.mant k < 0) && av.expByte k != 255) || (decide (bv.mant k < 0) && bv.expByte k != 255)
    let sum (f : Nat → Int) : Int := ks.foldl (fun (acc : Int) k => acc + f k) 0
    let s1 := sum fun k => am.mant k * am.mant k * varMant (bv.mant k)
    let s2 := sum fun k => bm.mant k * bm.mant k * varMant (av.mant k)
    let s3 := sum fun k => varMant (av.mant k) * varMant (bv.mant k)
    let e (r : ElemRun) : Int := expOff r.fmt (r.expByte k0)
    let t : FRes := if [am, av, bm, bv].any fun r => r.expByte k0 == 255 then (0x7FC00000, 0)
      else f32.sum 0 false [.fin false s1.natAbs (2 * e am + e bv), .fin false s2.natAbs (2 * e bm + e av),
        .fin false s3.natAbs (e av + e bv)]
    addTerm (c.1, c.2 ||| 16 * b2n neg) t) c

/-- The four planes of a moment product for an output element. -/
structure MRow where
  mean : ElemRun
  var  : ElemRun

/-- One K-step of the variance of an output element (R139 to R141). -/
def mmmVar (a b : Option MRow) (c : Acc2) : Acc2 :=
  match a, b with
  | some a, some b =>
    if fmtBfp a.mean.fmt then varBfpChain a.mean a.var b.mean b.var c else varFloatChain a.mean a.var b.mean b.var c
  | _, _ => addTerm c (0, 0)

/-- One K-step of the mean of an output element (R139). -/
def mmmMean (a b : Option MRow) (c : Acc2) : Acc2 :=
  mmtChain (a.map fun r => { run := r.mean, pos := denseMap, num := 1, den := 1 }) (b.map (·.mean)) c

/-- Every element of a pan of 128 × 128 f32 values through a function of its row and column. -/
def panMap (pan : Array Nat) (f : Nat → Nat → Acc2 → Acc2) : Array Nat × Nat :=
  let rs := (List.range 16384).map fun x => f (x / 128) (x % 128) (pan.getD x 0, 0)
  ((rs.map (·.1)).toArray, rs.foldl (fun a r => a ||| r.2) 0)

/-- Cycles of one K-step (R238): the narrower width, or the element size of a floating format. -/
def stepCycles (moment : Bool) (fmts : List Nat) (num den : Nat) : Nat :=
  let base := match fmts with
    | [] => 256
    | f :: r => if fmtBfp f then 4 * (r.foldl (fun w g => Nat.min w (fmtW g)) (fmtW f)) else if f = 10 then 256 else 64
  (if moment then 4 * base else base) * den / num

/-- The weigh counters of one merged K-step (R247): index and amount. -/
def stepCounts (moment : Bool) (fmts : List Nat) (num den : Nat) : List (Nat × Nat) :=
  let full := 4194304
  let idx := match fmts with
    | [] => 9
    | f :: r => if fmtBfp f then r.foldl (fun w g => Nat.min w (fmtW g)) (fmtW f) - 2 else if f = 9 then 7 else if f = 8 then 8 else 9
  if moment then [(11, full)]
  else if num = den then [(idx, full)]
  else [(idx, full * den / num), (10, full - full * den / num)]

end Sys2Proof.Machine
end

