-- ==== Sys2Proof/Machine/Engine.lean ====
section
/-! DEFINITION. Format E in common (R274 to R277): the argument group, records read at acceptance, results, ordered numbers
and operations in flight. -/

namespace Sys2Proof.Machine

/-- Whether an argument group lies below the declared count (R275). -/
def groupOk (regs : Nat) (x : RegNo) : Bool := x.toNat % 2 == 0 && decide (x.toNat + 4 ≤ regs)

/-- An argument register (R275). -/
def State.arg (s : State) (l : Lane) (x : RegNo) (i : Nat) : Nat := ((s.rdReg i (regPlus x i)).lane l).toNat

/-- The argument pair x, x+1 (R275). -/
def State.arg64 (s : State) (l : Lane) (x : RegNo) : Nat := (s.argPair l 0 x).toNat

/-- What every format E instruction does first: legality, nothing with no active lane, uncorrectable argument registers (those
at these offsets, in the argument lane), which a cause that the entry's record or object meets precedes (R157); then the entry runs
on the active lanes and the argument lane. -/
def State.engineOn (s : State) (u : Bool) (x : RegNo) (args : List Nat) (first : Lane → Option Res)
    (k : State → Mask → Lane → Res) : Res :=
  if !groupOk s.blk.hdr.regs x then .next (s.takeTrap 1 0 0)
  else
    let act := s.active
    if act = 0 then .next s.done
    else
      let l := argLane u act
      match args.findSome? fun i => s.srcBroken (1 <<< l.val) (.reg (regPlus x i) 0, 1) with
      | some fa => (first l).getD (.next (s.sramError.takeTrap 11 0 fa))
      | none => k s act l

/-- The same for an entry that names no record and no object. -/
def State.engineEntry (s : State) (u : Bool) (x : RegNo) (args : List Nat) (k : State → Mask → Lane → Res) : Res :=
  s.engineOn u x args (fun _ => none) k

/-- TASK with an address (R277). -/
def State.taskTrap (s : State) (faddr : Nat) : Res := .next (s.takeTrap 15 0 faddr)

/-- The bytes that are read at once of a record of n bytes: all of it, or 64 where it reaches into another page. -/
def recPiece (va n : Nat) : Nat := if va % 2 ^ 18 + n ≤ 2 ^ 18 then n else 64

/-- The pieces of a record that an instruction names, translated. -/
def State.recordLanes (s : State) (l : Lane) (va n : Nat) : List (Nat × Nat × Xl) :=
  let p := recPiece va n
  (List.range (n / p)).map fun i => (l.val, va + p * i, translate s s.st.core s.blk.ctx (wrap64 (va + p * i)) .read)

/-- What stops the reading of a record before its bytes are read (R157, R276, R277): ALIGN, a translation, FMT_PARTIAL on a formatted
page, which R85 gives and the table of R277 does not (DESIGN CHOICE, log entry 77), or WATCH. -/
def State.recordStop (s : State) (l : Lane) (va n align : Nat) : Option Res :=
  if va % align != 0 then some (.next (s.takeTrap 3 0 va))
  else
    let xs := s.recordLanes l va n
    match firstFault xs, firstFmt (laneAccs xs) with
    | some x, _ => some (s.xlStop x)
    | none, some a => some (.next (s.takeTrap 4 0 a))
    | none, none => if s.watched false l.val 0 1 va n then some (.next (s.watchTrap va)) else none

/-- A record that an instruction names is read (R276, R277), after the stores of every lane and the reductions
that the street has sent (R254, R308, R327). -/
def State.readRecord (s : State) (l : Lane) (va n align : Nat) (k : State → List Byte → Res) : Res :=
  match s.recordStop l va n align with
  | some r => r
  | none =>
    let heard (n : Nat) (t : State) : State := t.onSt fun u => { u with heard := n }
    match (heard (s.clock + 1) s.released).loadAll (laneAccs (s.recordLanes l va n)) (recPiece va n) false true with
    | .error t => .next (heard s.st.heard t)
    | .ok (rs, t) => k (heard s.st.heard t) (rs.flatMap (·.2))

/-- Write a result word into x or x+1: every active lane, or all 64 lanes under U = 1 (R275). -/
def State.putResult (s : State) (u : Bool) (act : Mask) (x : RegNo) (vs : List SVec) : State :=
  (s.rewrote x vs.length (if u then Mask.all else act)).onSt fun t => t.setRegs x (if u then Mask.all else act) vs

/-- The instruction is over: its window opens (R27, R276). -/
def State.accepted (s : State) (before : Street) (la : Nat) (u : Bool) (act : Mask) (rs : List Nat) : State :=
  (s.onSt fun t => t.openWin before la rs (if u then Mask.all else act)).done

/-- The ordered number that an operation on selector q takes (R250): none for selector 32. -/
def State.orderedNumber (s : State) (q : RegNo) : Option (Nat × Nat) × State :=
  if 32 ≤ q.toNat then (none, s) else let r := s.takeNumber q.toNat; (some (q.toNat, r.1), r.2)

/-- An operation of the issuing street is in flight (R147). -/
def State.addOp (s : State) (id : Nat) (kind : OpKind) : State :=
  s.onSt fun t => { t with ops := t.ops ++ [{ id := id, kind := kind, depth := t.path.depth, lanes := t.path.mask }] }

/-- Whether an engine issue waits for its release: remote accesses not yet acknowledged (R272, R388). -/
def State.issueWaits (s : State) : Bool := s.remotePending s.st.sid

/-- Number of operations in flight of the issuing street, of some kinds. -/
def State.opsOf (s : State) (p : OpKind → Bool) : Nat := (s.st.ops.filter fun o => p o.kind).length

/-- Fields of a record that must be zero. -/
def recZero (r : List Byte) (off n : Nat) : Bool := recNat r off n == 0

end Sys2Proof.Machine
end

