-- ==== Sys2Proof/Machine/Fabric.lean ====
section
/-! DEFINITION. COLL and COLLSTAT (R384, R386), the reduction of contributions (R385), and the completion of a collective
(R382, R386). -/

namespace Sys2Proof.Machine

/-- KIND, RED, TYPE and ROOT of a collective descriptor (R384). -/
def collKind (r : List Byte) : Nat := bits (recNat r 0x18 8) 0 3
@[inherit_doc collKind] def collRed (r : List Byte) : Nat := bits (recNat r 0x18 8) 4 2
@[inherit_doc collKind] def collType (r : List Byte) : Nat := bits (recNat r 0x18 8) 8 4
@[inherit_doc collKind] def collRoot (r : List Byte) : Nat := bits (recNat r 0x18 8) 16 11
/-- COUNT of a collective descriptor. -/
def collCount (r : List Byte) : Nat := recNat r 0x10 4

/-- Element size of a TYPE (R384). -/
def collElem (ty : Nat) : Nat := if 10 ≤ ty then 2 else 4

/-- The checks of COLL at acceptance (R384). -/
def collOk (r : List Byte) : Bool :=
  let c := recNat r 0x18 8
  let ty := collType r
  bits c 3 1 == 0 && bits c 6 2 == 0 && bits c 12 4 == 0 && bits c 27 37 == 0 && recZero r 0x14 4 && recZero r 0x30 16
    && decide (collKind r ≤ 4) && [0, 1, 2, 10, 11].contains ty && collCount r != 0
    && (decide (collKind r ≤ 1) || collRed r == 0)
    && recNat r 0 8 % collElem ty == 0 && recNat r 8 8 % collElem ty == 0 && recNat r 0x20 8 % 8 == 0

/-- Bytes of SRC and of DST (R384). -/
def collSrcBytes (r : List Byte) (n : Nat) : Nat :=
  let k := collCount r * collElem (collType r)
  if collKind r = 1 ∨ collKind r = 4 then k * n else k
@[inherit_doc collSrcBytes] def collDstBytes (r : List Byte) (n : Nat) : Nat :=
  let k := collCount r * collElem (collType r)
  if collKind r = 2 ∨ collKind r = 4 then k * n else k

/-- Whether some page of a buffer has FMT ≠ 0 or RH = 1, whatever it permits (R384 reason 3). -/
def State.badBuffer (s : State) (ctx : CtxDesc) (va n : Nat) : Bool :=
  (List.range' (va / 2 ^ 18) ((va + n - 1) / 2 ^ 18 - va / 2 ^ 18 + 1)).any fun p =>
    match walkTable s.mem (Nat.max va (p * 2 ^ 18) % 2 ^ 57) ptLevels ctx.ptroot with
    | .leaf pte _ _ _ _ => pteFMT pte != 0 || pteRH pte
    | _ => false

/-- Whether SRC or DST of a collective descriptor lies on such a page, with n members (R384 reason 3). -/
def State.badBuffers (s : State) (ctx : CtxDesc) (r : List Byte) (n : Nat) : Bool :=
  s.badBuffer ctx (recNat r 0 8) (collSrcBytes r n) || s.badBuffer ctx (recNat r 8 8) (collDstBytes r n)

/-- Why a COLL is refused (R384): 0 where it is not. -/
def State.collRefusal (s : State) (ctx : CtxDesc) (r : List Byte) : Nat :=
  match s.jobOf ctx with
  | none => 1
  | some (slot, base) =>
    if (s.job slot).joined.contains (recNat r 0x28 8) then 2
    else if s.badBuffers ctx r (s.jobN base) then 3
    else 0

/-- The stamp address of a descriptor, when it has one. -/
def stampOf (r : List Byte) (off : Nat) : Option Nat := if recNat r off 8 = 0 then none else some (recNat r off 8)

/-- A collective is over with a status: stamp, then advance (R386); its record stays for COLLSTAT. -/
def State.collOver (s : State) (c : Coll) (st : CollStatus) : State :=
  let s : State := { s with colls := s.colls.map fun (k : Coll) => if k.id = c.id then { k with status := st } else k }
  let s := s.onJob c.slot fun j => j.seqOver c.seq
  match s.block? c.block with
  | some b => (s.complete (opCompletion b (agentColl (coreDie b.core)) c.tl (stampOf c.desc 0x20) none c.id c.sid)).drainCheck b.id
  | none => s.endOp c.sid c.id

/-- A collective is accepted, or completes as refused, or with MISMATCH where another member has aborted it (R384, R386). -/
def State.startColl (s : State) (q : RegNo) (addr : Nat) (r : List Byte) : State :=
  let (tl, s) := s.orderedNumber q
  let (id, s) := s.fresh
  let s := s.released.addOp id .coll
  let why := s.collRefusal s.blk.ctx r
  let jb := s.jobOf s.blk.ctx
  let base := (jb.map (·.2)).getD 0
  let slot := (jb.map (·.1)).getD 0
  let ms := if jb.isSome then s.members base else []
  let c : Coll := { id := id, sid := s.st.sid, block := s.blk.id, ctx := s.blk.ctx, slot := slot, desc := r, addr := addr
                    seq := recNat r 0x28 8, rank := if jb.isSome then (s.ownRank base).getD 0 else 0, n := ms.length
                    members := ms, shrunk := false, joinedAt := s.timeNs, status := if why = 0 then .running else .refused
                    tl := tl }
  let s := { s with colls := s.colls ++ [c] }.onSt fun t => { t with coll := some id }
  if why = 0 then
    let s := s.onJob slot fun j => { j.join c.seq s.pkg.fabid s.timeNs with joined := addNew j.joined c.seq }
    if (s.job slot).aborted.contains c.seq then s.collOver c .mismatch else s
  else (s.asyncErr s.blk.ctx 16 why s.st.sid addr).complete (opCompletion s.blk (agentColl s.st.die) tl (stampOf r 0x20) none id s.st.sid)

/-- COLL (R386, R387). -/
def execColl (w : FE) (s : State) : Res :=
  s.engineOn w.u w.x [0, 1] (fun l => s.recordStop l (s.arg64 l w.x) 64 64) fun s act l => s.notPaired fun s =>
  if 4 ≤ s.opsOf (· == .coll) || s.issueWaits then .next (s.stalled .mem)
  else
    let va := s.arg64 l w.x
    s.readRecord l va 64 64 fun t r =>
    if !collOk r then t.taskTrap va
    else .next ((t.startColl w.q va r).accepted s.st w.la.toNat w.u act [])

/-- STATUS code (R386); a running collective that needs a held member shows HELD (R383). -/
def CollStatus.code : CollStatus → Nat
  | .running => 1 | .done => 2 | .shrunk => 3 | .mismatch => 4 | .held => 5 | .rootlost => 6 | .refused => 7

/-- Status and N of the street's latest COLL (R386). -/
def State.collState (s : State) : Nat × Nat :=
  let jb := s.jobOf s.blk.ctx
  let n := match jb with | some (_, base) => s.jobN base | none => 0
  match (s.st.coll.bind fun id => s.colls.find? fun c => c.id == id) with
  | none => (0, n)
  | some c =>
    let held := match s.jobTable c.slot with | some base => s.anyHeld base | none => false
    (if c.status == .running && held then CollStatus.held.code else c.status.code, n)

/-- COLLSTAT (R386). -/
def execCollstat (w : FEL) (s : State) : Res :=
  s.engineEntry w.u w.x [] fun s act _ => s.notPaired fun s =>
  let r := s.collState
  let t := s.putResult w.u act w.x [SVec.splat (BitVec.ofNat 32 (r.1 * 2 ^ 28)), SVec.splat (BitVec.ofNat 32 r.2)]
  .next (t.accepted s.st w.la.toNat w.u act [w.x.toNat, w.x.toNat + 1])

/-- Reduce contributions in an order and association of free choice (R89, R385). -/
def freeReduce (tick : Nat) (f : Nat → Nat → Nat) : Nat → List Nat → Nat
  | 0, l => l.headD 0
  | _ + 1, [] => 0
  | _ + 1, [x] => x
  | n + 1, x :: y :: l =>
    let all := x :: y :: l
    let i := Config.freeNat tick (2 * n) % all.length
    let a := nth all i
    let rest := all.eraseIdx i
    let j := Config.freeNat tick (2 * n + 1) % rest.length
    freeReduce tick f n (f a (nth rest j) :: rest.eraseIdx j)

/-- A signed 32-bit number. -/
def s32 (x : Nat) : Int := (BitVec.ofNat 32 x).toInt

/-- The combination of one element of every rank (R385): f32 values for the narrow floating types. -/
def collReduce (tick ty red n : Nat) (xs : List Nat) : Nat :=
  let two (f : Nat → Nat → Nat) : Nat := freeReduce tick f xs.length xs
  match ty with
  | 0 =>
    match red with
    | 0 => (xs.foldl (· + ·) 0) % 2 ^ 32
    | 1 => two fun a b => if s32 a ≤ s32 b then a else b
    | 2 => two fun a b => if s32 b ≤ s32 a then a else b
    | _ => (BitVec.ofInt 32 (Int.tdiv (xs.foldl (fun (acc : Int) x => acc + s32 x) 0) (n : Int))).toNat
  | 1 =>
    match red with
    | 0 => (xs.foldl (· + ·) 0) % 2 ^ 32
    | 1 => two Nat.min
    | 2 => two Nat.max
    | _ => xs.foldl (· + ·) 0 / n
  | _ =>
    let f := if ty = 10 then f16 else if ty = 11 then bf16 else f32
    if red = 1 ∨ red = 2 then two fun a b => (f.minMax false (red == 2) a b).1
    else
      let ws := if ty = 2 then xs else xs.map fun x => (f.convert f32 0 false x).1
      let sum := freeReduce tick (fun a b => (f32.add 0 false false a b).1) ws.length ws
      let v := if red = 3 then (f32.div 0 false sum (f32.ofInt 0 false (n : Int)).1).1 else sum
      if ty = 2 then v else (f32.convert f 0 false v).1

/-- The bytes of slot `j` of a contribution. -/
def slotBytes (k j : Nat) (c : List Byte) : List Byte := (c.drop (j * k)).take k

/-- Reduce slices elementwise. -/
def reduceSlices (tick : Nat) (r : List Byte) (n : Nat) (cs : List (List Byte)) : List Byte :=
  let e := collElem (collType r)
  ((List.range (collCount r)).map fun i =>
    leBytes e (collReduce (tick + i) (collType r) (collRed r) n (cs.map fun c => recNat c (e * i) e))).flatten

/-- The pieces of DST that a collective writes: offset and bytes (R382, R384); `alive` tells the ranks that have not failed. -/
def collResult (tick : Nat) (c : Coll) (alive : List Nat) (contrib : List (List Byte)) : List (Nat × List Byte) :=
  let r := c.desc
  let k := collCount r * collElem (collType r)
  let of (j : Nat) : List Byte := contrib.getD j []
  match collKind r with
  | 0 => [(0, reduceSlices tick r alive.length (alive.map of))]
  | 1 => [(0, reduceSlices tick r alive.length (alive.map fun j => slotBytes k c.rank (of j)))]
  | 2 => alive.map fun j => (j * k, slotBytes k 0 (of j))
  | 3 => [(0, slotBytes k 0 (of (collRoot r)))]
  | _ => alive.map fun j => (j * k, slotBytes k j (of j))

/-- Ranks at acceptance whose device has not failed (R382). -/
def State.aliveRanks (s : State) (c : Coll) (base : Nat) : List Nat :=
  (List.range c.n).filter fun j => s.memberState base (nth c.members j) != 1

/-- The contributions of all ranks: this device's own is its SRC (R384). -/
def collGather (w : EngId) (c : Coll) (contrib : List (List Byte)) : EngM (List (List Byte) × Bool) := do
  let bs ← engRead w (recNat c.desc 0 8) (collSrcBytes c.desc c.n)
  pure ((List.range c.n).map fun j => if j = c.rank then bs.map (·.1) else contrib.getD j [], bs.any fun b => b.2.isSome)

/-- A collective of good standing writes DST (R382, R384, R385). The engine counts the payload it sends, a free value
(log entry 27). Uncorrectable source data leaves DST poisoned. -/
def collWrite (w : EngId) (c : Coll) (alive : List Nat) (contrib : List (List Byte)) : EngM Unit := do
  let g ← if collKind c.desc = 3 ∧ c.rank ≠ collRoot c.desc then pure (contrib, false) else collGather w c contrib
  let s ← get
  (collResult s.freeTick c alive g.1).forM fun p => do
    let va := wrap64 (recNat c.desc 8 8 + p.1)
    engWrite w va p.2
    if g.2 then
      (sectorParts va p.2.length).forM fun q => do
        let x ← engXlate w q.1 .write
        modify fun s => { s with poison := addNew s.poison (sectorOf x.1) }
  modify fun s => s.weigh w.agent w.ctx.ctxid 19 (Config.freeNat s.freeTick c.id)

/-- COLLECTIVE_COMPLETE (R382 to R386): it comes about for a running collective no member of which is held. Pages that have come to be
formatted or of another device since the acceptance refuse it as they do there (R384). -/
def execCollectiveComplete (coll : Nat) (outcome : CollOutcome) (s : State) : Res :=
  match s.colls.find? fun c => c.id == coll && c.status == .running with
  | none => .next s
  | some c =>
    match s.jobTable c.slot with
    | none => .next s
    | some base =>
      if s.anyHeld base then .next s
      else
        match outcome with
        | .mismatch => .next (s.collOver c .mismatch)
        | .complete contrib =>
          let alive := s.aliveRanks c base
          if collKind c.desc = 3 ∧ !alive.contains (collRoot c.desc) then .next (s.collOver c .rootlost)
          else if s.badBuffers c.ctx c.desc c.n then .next ((s.asyncErr c.ctx 16 3 c.sid c.addr).collOver c .refused)
          else
            let die := match s.block? c.block with | some b => coreDie b.core | none => 0
            match collWrite { agent := agentColl die, ctx := c.ctx } c alive contrib s with
            | .ok (_, t) => .next (t.collOver c (if c.shrunk then .shrunk else .done))
            | .error (.fault f) => .next (s.walkFault die f)
            | .error (.hole pa) => .fault (.noMemory pa)
            | .error (.bad _) | .error (.ecc _) | .error .sram => .next s

end Sys2Proof.Machine
end

