-- ==== Sys2Proof/Machine/Copy.lean ====
section
/-! DEFINITION. CPY, CPYRED and CPYSTAT (R292 to R295), SALN and SMETA (R299): descriptors, checks at acceptance, and issue. -/

namespace Sys2Proof.Machine

/-- A layout record (R293). -/
structure Layout where
  base    : Nat
  strides : List Nat
  sizes   : List Nat
  boxes   : List Nat
  dims    : Nat
  type    : Nat
  space   : Bool
deriving DecidableEq, Repr

/-- The layout record at an offset of a descriptor: a dimension at or above DIMS has BOX 1, SIZE 1 and stride 0 (R293). -/
def layoutAt (r : List Byte) (off : Nat) : Layout :=
  let c := recNat r (off + 0x3C) 4
  let dims := bits c 0 4
  { base := recNat r off 8, strides := (List.range 4).map fun i => if i + 1 < dims then recNat r (off + 8 + 8 * i) 8 else 0
    sizes := (List.range 5).map fun i => if i < dims then recNat r (off + 0x28 + 2 * i) 2 else 1
    boxes := (List.range 5).map fun i => if i < dims then recNat r (off + 0x32 + 2 * i) 2 else 1
    dims := dims, type := bits c 4 4, space := bit c 8 }

/-- Whether a TYPE is listed (R293). -/
def typeListed (t : Nat) : Bool := [0, 1, 2, 10, 11, 12, 13, 14].contains t

/-- Bytes of an element of a TYPE on a plain place (R293). -/
def typeBytes (t : Nat) : Nat :=
  match t with
  | 0 | 1 | 2 => 4
  | 12 => 1
  | 14 => 8
  | _ => 2

/-- The own fields of a layout record that R294 checks: reserved bits, DIMS, TYPE, boxes of a source, none of a destination
(log entry 23). -/
def layoutOk (r : List Byte) (off : Nat) (dst : Bool) : Bool :=
  let l := layoutAt r off
  bits (recNat r (off + 0x3C) 4) 9 23 == 0 && decide (1 ≤ l.dims) && decide (l.dims ≤ 5) && typeListed l.type
    && (if dst then recZero r (off + 0x32) 10 else l.boxes.all (· != 0))

/-- The checks of a copy descriptor at acceptance (R292, R294). -/
def copyOk (red : Bool) (r : List Byte) : Bool :=
  let c := recNat r 0x98 8
  layoutOk r 0 false && layoutOk r 0x40 true && bits c 9 55 == 0 && bits c 3 5 == 0
    && (!red || decide (bits c 0 3 ≤ 4)) && recZero r 0xA0 32

/-- The checks of a SALN or SMETA descriptor at acceptance (R299). -/
def salOk (meta_ : Bool) (r : List Byte) : Bool :=
  let c := recNat r 0x38 8
  bits c 0 12 != 0 && bits c 12 2 != 3 && bits c 16 16 != 0 && bits c 14 2 == 0 && bits c 32 32 == 0
    && !recZero r 0 8 && !recZero r 8 8 && !recZero r 0x20 8 && !recZero r 0x28 8
    && (if meta_ then recZero r 0x10 8 && recZero r 0x18 8 && !recZero r 0x30 8
        else !recZero r 0x10 8 && !recZero r 0x18 8 && recZero r 0x30 8)

/-- A signed 16-bit coordinate (R292). -/
def coord (v : Nat) : Int := (BitVec.ofNat 16 v).toInt

/-- The outer indices b1 to b4 of a box, those that the destination holds. -/
def boxRows (src dst : Layout) : List (List Nat) :=
  let ext (d : Nat) : List Nat := List.range (Nat.min (nth src.boxes d) (nth dst.sizes d))
  (ext 4).flatMap fun b4 => (ext 3).flatMap fun b3 => (ext 2).flatMap fun b2 => (ext 1).map fun b1 => [b1, b2, b3, b4]

/-- Elements of a row that are written: those below both extents of dimension 0. -/
def rowLen (src dst : Layout) : Nat := Nat.min (nth src.boxes 0) (nth dst.sizes 0)

/-- Address of element 0 of a row of a layout, at coordinates c1 to c4 (R293). -/
def Layout.row (l : Layout) (cs : List Int) : Nat :=
  addrPlus l.base ((cs.zip l.strides).foldl (fun (acc : Int) p => acc + p.1 * (p.2 : Int)) 0)

/-- Widen the recorded range of a core by another one (R184). -/
def addRange (core lo hi : Nat) : List (Nat × Nat × Nat) → List (Nat × Nat × Nat)
  | [] => [(core, lo, hi)]
  | r :: rs => if r.1 = core then (core, Nat.min lo r.2.1, Nat.max hi r.2.2) :: rs else r :: addRange core lo hi rs

/-- The byte ranges of core scratchpads that the elements of a copy's destination lie in, one for each core (R184, R259). -/
def copyRanges (s : State) (b : Block) (r : List Byte) : List (Nat × Nat × Nat) :=
  let src := layoutAt r 0
  let dst := layoutAt r 0x40
  let z := typeBytes dst.type
  if !dst.space then []
  else (boxRows src dst).foldl (fun rs k =>
    (List.range (rowLen src dst)).foldl (fun rs i =>
      match spadPlace s b (wrap64 (dst.row (k.map fun (x : Nat) => (x : Int)) + i * z)) z 2 with
      | .spad k off => match s.spadPhys k off with | some p => addRange p.1 p.2 (p.2 + z) rs | none => rs
      | _ => rs) rs) []

/-- Whether some range cannot be recorded, as its core holds 16 (R184). -/
def State.rangesFull (s : State) (gs : List (Nat × Nat × Nat)) : Bool := gs.any fun g => decide (16 ≤ (s.core g.1).ranges.length)

/-- Record the ranges of a copy (R184). -/
def State.recordRanges (s : State) (id : Nat) (gs : List (Nat × Nat × Nat)) : State :=
  gs.foldl (fun s g => s.onCore g.1 fun c => { c with ranges := c.ranges ++ [({ copy := id, lo := g.2.1, hi := g.2.2 } : SpadRange)] }) s

/-- The copy engine of a cluster that takes the next operation: the one with fewer in flight (R259, log entry 9). -/
def State.copyEngine (s : State) (cluster : Nat) : Nat :=
  let n (e : Nat) : Nat := (s.copies.filter fun c => c.agent == agentCopy cluster e).length
  agentCopy cluster (if n 1 < n 0 then 1 else 0)

/-- The street's copies and SAL operations in flight (R294, R295). -/
def isCopyKind : OpKind → Bool
  | .copy | .sal => true
  | _ => false

/-- An operation of the copy engines is accepted (R250, R259, R272). -/
def State.startCopy (s : State) (kind : CopyKind) (ok : OpKind) (q : RegNo) (addr : Nat) (r : List Byte) (coords : List Int)
    (gs : List (Nat × Nat × Nat)) : State :=
  let (tl, s) := s.orderedNumber q
  let (id, s) := s.fresh
  let s := (s.released.addOp id ok).recordRanges id gs
  let op : CopyOp := { id := id, kind := kind, sid := s.st.sid, block := s.blk.id, ctx := s.blk.ctx, core := s.blk.core
                       desc := r, addr := addr, coords := coords, tl := tl, task := none, fault := none
                       agent := s.copyEngine s.blk.cluster }
  { s with copies := s.copies ++ [op] }

/-- What holds an issue to the copy engines back (R272, R294). -/
def State.copyHeld (s : State) : Bool := decide (16 ≤ s.opsOf isCopyKind) || s.issueWaits

/-- CPY and CPYRED (R294). -/
def State.copyIssue (s : State) (red : Bool) (w : FE) : Res :=
  s.engineOn w.u w.x [0, 1, 2, 3] (fun l => s.recordStop l (s.arg64 l w.x) 192 64) fun s act l => s.notPaired fun s =>
  if s.copyHeld then .next (s.stalled .mem)
  else
    let va := s.arg64 l w.x
    let a := s.arg l w.x 2
    let b := s.arg l w.x 3
    s.readRecord l va 192 64 fun t r =>
    if !copyOk red r then t.taskTrap va
    else
      let g := copyRanges t s.blk r
      if t.rangesFull g then .next (s.stalled .mem)
      else
        let cs := [coord a, coord (a / 65536), coord b, coord (b / 65536), 0]
        .next ((t.startCopy (if red then .cpyred else .cpy) .copy w.q va r cs g).accepted s.st w.la.toNat w.u act [])

/-- CPY (R294). -/
def execCpy (w : FE) (s : State) : Res := s.copyIssue false w

/-- CPYRED (R262, R294). -/
def execCpyred (w : FE) (s : State) : Res := s.copyIssue true w

/-- CPYSTAT (R295). -/
def execCpystat (w : FEL) (s : State) : Res :=
  s.engineEntry w.u w.x [] fun s act _ => s.notPaired fun s =>
  let n := s.opsOf isCopyKind
  let e := s.st.copyErr
  let t := s.onSt fun t => { t with copyErr := 0 }
  let t := t.putResult w.u act w.x [SVec.splat (BitVec.ofNat 32 n), SVec.splat (BitVec.ofNat 32 e)]
  .next (t.accepted s.st w.la.toNat w.u act [w.x.toNat, w.x.toNat + 1])

/-- SALN and SMETA (R299). -/
def State.salIssue (s : State) (meta_ : Bool) (w : FE) : Res :=
  s.engineOn w.u w.x [0, 1] (fun l => s.recordStop l (s.arg64 l w.x) 64 64) fun s act l => s.notPaired fun s =>
  if s.copyHeld then .next (s.stalled .mem)
  else
    let va := s.arg64 l w.x
    s.readRecord l va 64 64 fun t r =>
    if !salOk meta_ r then t.taskTrap va
    else .next ((t.startCopy (if meta_ then .smeta else .saln) .sal w.q va r [] []).accepted s.st w.la.toNat w.u act [])

/-- SALN (R299, R300). -/
def execSaln (w : FE) (s : State) : Res := s.salIssue false w

/-- SMETA (R299, R301). -/
def execSmeta (w : FE) (s : State) : Res := s.salIssue true w

end Sys2Proof.Machine
end

