-- ==== Sys2Proof/WellFormed.lean ====
section
/-! DEFINITION. The checks of R40 that an instruction word decides by itself: reserved field values (R34 to R38), operand
classes and parities (R10, R21, R23), and the limits of the entries. The checks that also need the declared register count
or MD are made by the meanings (Machine/Operands.lean). -/

namespace Sys2Proof

/-- An even index, as every pair operand needs (R10). -/
def evenIdx (r : RegNo) : Bool := !r.getLsbD 0

/-- An index that is a multiple of 4, as every quad operand needs (R23). -/
def quadIdx (r : RegNo) : Bool := !r.getLsbD 0 && !r.getLsbD 1

/-- R21: a channel source a pops (0b10) or peeks (0b00). -/
def SrcA.ok (a : SrcA) : Bool := !a.chan || a.p == 0 || a.p == 2

/-- R92, R110: format A. -/
def FA.ok (w : FA) : Bool := w.a.ok

/-- R92, R110: format A with a register d. -/
def FA3.ok (w : FA3) : Bool := w.a.ok

/-- R100, R117: format B with one source. -/
def FB.ok (w : FB) : Bool := w.a.ok

/-- R101, R103: BALLOT's register destination is a pair. -/
def FB.okBallot (w : FB) : Bool := w.a.ok && (w.d.chan || evenIdx w.d.idx)

/-- R104: fill `.old` reads d, which is then a register. -/
def FSlide.ok (w : FSlide) : Bool := w.a.ok && (w.fill != .old || !w.d.chan)

/-- R106: the shift immediates of SHLI, SHRI and SARI are 0 to 31. -/
def FK.okShift (w : FK) : Bool := w.imm.toNat < 32

/-- R117: CVT's target is one of the type codes 0 to 11. -/
def FCvt.ok (w : FCvt) : Bool := w.a.ok && w.t.toNat ≤ 11

/-- R123: format L of XCEND. -/
def FL.ok (w : FL) : Bool := w.a.ok

/-- R136: moment operands have even indices. -/
def FML.ok (w : FML) : Bool := evenIdx w.d && evenIdx w.a.idx

/-- R132. -/
def FM2.ok (w : FM2) : Bool := evenIdx w.d && evenIdx w.a.idx && evenIdx w.b.idx

/-- R132: b of MSCL names any register or a channel. -/
def FMScl.ok (w : FMScl) : Bool := evenIdx w.d && evenIdx w.a.idx

/-- R138. -/
def FMColl.ok (w : FMColl) : Bool := evenIdx w.d && evenIdx w.a.idx

/-- R138. -/
def FMUcb.ok (w : FMUcb) : Bool := evenIdx w.d && evenIdx w.a.idx

/-- R23, R191: the data operand of a format M access of this size. -/
def dataOk (size : MSize) (r : RegNo) : Bool :=
  match size with
  | .b64 => evenIdx r
  | .b128 => quadIdx r
  | _ => true

/-- R194: the sizes whose load may push a channel. -/
def MSize.chanOk : MSize → Bool
  | .b8 | .b16 | .b32 | .raw => true
  | _ => false

/-- R35, R194: LD. -/
def FM.okLoad (w : FM) : Bool :=
  evenIdx w.addr &&
  (match w.size with | .keepexp | .reserved7 => false | _ => true) &&
  (match w.ord with | .plain => true | .acq => w.str | _ => false) &&
  (if w.data.chan then w.size.chanOk else dataOk w.size w.data.idx)

/-- R35, R194: ST. -/
def FM.okStore (w : FM) : Bool :=
  evenIdx w.addr &&
  (match w.size with | .raw | .reserved7 => false | _ => true) &&
  (match w.ord with | .plain => true | .rel => w.str | _ => false) &&
  (!w.data.chan && dataOk w.size w.data.idx)

/-- R35, R197: the sizes of LDS and STS. -/
def MSize.spadOk : MSize → Bool
  | .b8 | .b16 | .b32 | .b64 | .b128 => true
  | _ => false

/-- R35, R194, R197: LDS. -/
def FMS.okLoad (w : FMS) : Bool :=
  evenIdx w.addr && w.size.spadOk &&
  (match w.ord with | .plain => true | .acq => w.str | _ => false) &&
  (if w.data.chan then w.size.chanOk else dataOk w.size w.data.idx)

/-- R35, R194, R197: STS. -/
def FMS.okStore (w : FMS) : Bool :=
  evenIdx w.addr && w.size.spadOk &&
  (match w.ord with | .plain => true | .rel => w.str | _ => false) &&
  (!w.data.chan && dataOk w.size w.data.idx)

/-- R36: an allocated operation code of ATOM and MATOM. -/
def Aop.atomOk : Aop → Bool
  | .reserved11 | .reserved12 | .reserved13 | .reserved14 | .reserved15 => false
  | _ => true

/-- R36: an operation code of MRED and SCAT. -/
def Aop.redOk : Aop → Bool
  | .xchg | .cas => false
  | a => a.atomOk

/-- R36, R198: ATOM and MATOM. -/
def FMA.ok (w : FMA) : Bool :=
  evenIdx w.addr && w.aop.atomOk && (w.aop != .fadd || !w.w) &&
  (match w.aop, w.w with
   | .cas, false => evenIdx w.data
   | .cas, true => quadIdx w.data
   | _, true => evenIdx w.data
   | _, false => true)

/-- R36, R326: MRED. -/
def FMRed.ok (w : FMRed) : Bool :=
  evenIdx w.addr && w.aop.redOk && (w.aop != .fadd || !w.w) &&
  (match w.ord with | .plain | .rel => true | _ => false) &&
  (!w.w || evenIdx w.data)

/-- R23, R329: LDX's base is a pair. -/
def FX.ok (w : FX) : Bool := evenIdx w.base

/-- R330: SCAT. -/
def FScat.ok (w : FScat) : Bool := evenIdx w.base && w.red.redOk

/-- R37: FENCE's scope code and kind. -/
def FFence.ok (w : FFence) : Bool := w.f.toNat ≤ 6 && w.kind != 0

/-- R224: CLRQ; the owner form writes a pair. -/
def FClrq.ok (w : FClrq) : Bool := evenIdx w.a

/-- R38: the value of each MODE field. -/
def FMode.ok (w : FMode) : Bool :=
  let v := w.val.toNat
  match w.f.toNat with
  | 0 => v ≤ 11
  | 1 => v ≤ 3
  | 2 => v < 256 && (bit v 7 || v % 128 == 0)
  | 3 => v ≤ 3
  | 4 | 5 | 6 => v < 256
  | 7 => v ≤ 6
  | 8 => v ≤ 3
  | 9 => v < 64
  | 10 => v ≤ 1
  | 11 => v < 4096
  | _ => false

/-- R153: the listed special registers. -/
def FSread.ok (w : FSread) : Bool := w.n.toNat ≤ 26

/-- R151, R153: the special registers that SWRITE may name. -/
def FSwrite.ok (w : FSwrite) : Bool :=
  let n := w.n.toNat
  w.a.ok && (n == 1 || n == 2 || n == 3 || (16 ≤ n && n ≤ 25))

/-- R23, R274: x of format E. -/
def xOk (x : RegNo) : Bool := evenIdx x && x.toNat ≤ 60

/-- R275, R279: q names a timeline or is 32. -/
def FE.okTl (w : FE) : Bool := xOk w.x && w.q.toNat ≤ 32

/-- R296: TLREAD's q names a timeline. -/
def FE.okRead (w : FE) : Bool := xOk w.x && w.q.toNat ≤ 31

/-- R297: q of the barrier instructions is 32 or 33. -/
def FE.okBar (w : FE) : Bool := xOk w.x && (w.q.toNat == 32 || w.q.toNat == 33)

/-- R290: q of TPOST and LAUNCH is 0 or 32 to 63. -/
def FEN.ok (w : FEN) : Bool := xOk w.x && (w.q.toNat == 0 || 32 ≤ w.q.toNat)

/-- R296. -/
def FEQ.okWait (w : FEQ) : Bool := xOk w.x && w.q.toNat ≤ 31

/-- R297. -/
def FEQ.okBar (w : FEQ) : Bool := xOk w.x && (w.q.toNat == 32 || w.q.toNat == 33)

/-- R32, R34: the major opcode is unallocated, or the sub-op or f field holds an unlisted value. Major opcode 0x00 is not
among them: it is the row ILL. -/
def unlisted (w : Word) : Bool :=
  let op := (w.extractLsb' 25 7).toNat
  let s8 := (w.extractLsb' 0 8).toNat
  let s5 := (w.extractLsb' 0 5).toNat
  let s4 := (w.extractLsb' 0 4).toNat
  let f := (w.extractLsb' 20 4).toNat
  if op ≤ 0x1C then false
  else if op == 0x20 then 10 < s8
  else if op ≤ 0x1F then true
  else if op ≤ 0x2A then false
  else if op ≤ 0x2F then true
  else if op ≤ 0x3F then false
  else if op == 0x40 then !(s8 ≤ 4 || (s4 == 5 && s8 / 16 ≤ 11))
  else if op ≤ 0x47 then true
  else if op == 0x48 then 9 < s4
  else if op == 0x49 then 4 < s4
  else if op ≤ 0x4E then false
  else if op == 0x4F then true
  else if op == 0x5B then 2 < s8
  else if op == 0x5D then 1 < s8
  else if op ≤ 0x5C then false
  else if op ≤ 0x5F then true
  else if op == 0x60 then false
  else if op == 0x61 then 2 < s8
  else if op == 0x62 then s4 != 0
  else if op == 0x63 then 1 < s8
  else if op == 0x64 then s8 != 0
  else if op ≤ 0x67 then true
  else if op ≤ 0x6A then false
  else if op == 0x6B then 5 < s8
  else if op == 0x6C then 4 < f
  else if op ≤ 0x6F then true
  else if op == 0x70 then false
  else if op ≤ 0x72 then 26 < s8
  else if op ≤ 0x77 then true
  else if op == 0x78 then 8 < s5
  else if op == 0x79 then 2 < s5
  else if op == 0x7A then 2 < s5
  else if op == 0x7B then 6 < s5
  else if op == 0x7F then true
  else 1 < s5

/-- R40: whether the instruction, as a term, passes every check its word decides by itself. Events have no word and pass. -/
def Instr.wf : Instr → Bool
  | .imad w | .sel w | .bfi w | .fma w | .fms w | .fnma w | .dot2 w | .dot4 w => w.ok
  | .iadd w | .isub w | .imul w | .imulh w | .nmulh w | .imin w | .imax w | .nmin w | .nmax w | .and w | .or w | .xor w
  | .andn w | .shl w | .shr w | .sar w | .rotl w | .iseq w | .isne w | .islt w | .isle w | .nslt w | .nsle w | .bfx w
  | .perm w | .add w | .sub w | .mul w | .min w | .max w | .ceq w | .cne w | .clt w | .cle w | .cun w | .rshr w => w.ok
  | .mov w | .not w | .ineg w | .iabs w | .popc w | .clz w | .brev w | .voteany w | .voteall w | .nnz w
  | .abs w | .neg w | .fract w | .rndi w | .satp w => w.ok
  | .ballot w => w.okBallot
  | .slide w => w.ok
  | .shli w | .shri w | .sari w => w.okShift
  | .cvt w => w.ok
  | .rcp w | .rsq w | .sqrt w | .exp2 w | .log2 w | .sin w | .cos w | .tanh w | .ncdf w | .npdf w => w.ok
  | .mrelu w | .msig w | .mexp w | .mgelu w | .msqr w => w.ok
  | .madd w | .msub w | .mmul w => w.ok
  | .mscl w => w.ok
  | .mcollMean w | .mcollStd w | .mcollVar w => w.ok
  | .mcollUcb w => w.ok
  | .ld w => w.okLoad
  | .st w => w.okStore
  | .lds w => w.okLoad
  | .sts w => w.okStore
  | .atom w | .matom w => w.ok
  | .mred w => w.ok
  | .ldx w => w.ok
  | .scat w => w.ok
  | .waita w => evenIdx w.addr
  | .pref w => evenIdx w.addr
  | .fence w => w.ok
  | .cacheWb w | .cacheInv w | .cacheWbinv w | .clrnoteOne w | .clrnoteAll w | .clrclean w | .brx w | .callx w => evenIdx w.a
  | .clrqHeld w | .clrqDepth w => w.ok
  | .clrqOwner w => w.ok && evenIdx w.d
  | .clrwait w => evenIdx w.a
  | .mode w => w.ok
  | .sread w => w.ok
  | .swrite w => w.ok
  | .mmt w | .mmts w | .mmm w | .panz w | .panld w | .panst w | .cpy w | .cpyred w | .tladv w | .trav w | .coll w | .saln w
  | .smeta w => w.okTl
  | .tlread w => w.okRead
  | .bara w | .barinit w | .barinv w => w.okBar
  | .tpost w | .launch w => w.ok
  | .panrd w | .panwr w | .panstat w | .tqstat w | .cpystat w | .collstat w => xOk w.x
  | .tlwait w => w.okWait
  | .bar w => w.okBar
  | .travw w => xOk w.x
  | .illegalWord w => unlisted w
  | _ => true

end Sys2Proof
end

