-- ==== Sys2Proof/Decode.lean ====
section
/-! DEFINITION. Decoding of Ezwin words (R19 to R40), total on any bytes and rejecting by name, and after it the encoder
written from the same formats. A word whose fields fit a row of the opcode map decodes to that row's constructor, reserved
values included; the checks of R40 on the fields are `Instr.wf` and the meanings'. -/

namespace Sys2Proof

/-- Why bytes are no row of the opcode map. Each reason but `truncated` is a cause of trap ILLEGAL (R40). -/
inductive Reject where
  /-- fewer than four bytes: a word is 32 bits (R19) -/
  | truncated
  /-- a class or permutation bit that must be 0 for the operand's role (R23, R206) -/
  | operandClass
  /-- a field that the entry marks unused, or that R34 to R38 require to be zero, is nonzero -/
  | unusedField
  /-- MODE with U = 0 (R26) -/
  | modeNotUniform
deriving DecidableEq, Repr

/-- Bits [lo + n - 1 : lo] of a word. -/
def fld (w : Word) (lo n : Nat) : BitVec n := w.extractLsb' lo n

/-- Bit `i` of a word. -/
def flag (w : Word) (i : Nat) : Bool := w.getLsbD i

/-- R20. -/
def dstOf (w : Word) : Dst := ⟨flag w 23, fld w 17 6⟩

/-- R21. -/
def srcAOf (w : Word) : SrcA := ⟨flag w 16, fld w 10 6, fld w 8 2⟩

/-- R22. -/
def srcBOf (w : Word) : SrcB := ⟨flag w 7, fld w 1 6, flag w 0⟩

/-- Source a of an instruction that takes no channel there (R23). -/
def regPOf (w : Word) : RegP := ⟨fld w 10 6, fld w 8 2⟩

/-- R35. -/
def sizeOf3 (v : BitVec 3) : MSize :=
  match v.toNat with
  | 0 => .b8 | 1 => .b16 | 2 => .b32 | 3 => .b64 | 4 => .b128 | 5 => .raw | 6 => .keepexp | _ => .reserved7

/-- R35. -/
def ordOf2 (v : BitVec 2) : MOrd :=
  match v.toNat with
  | 0 => .plain | 1 => .acq | 2 => .rel | _ => .ar

/-- R36. -/
def aopOf4 (v : BitVec 4) : Aop :=
  match v.toNat with
  | 0 => .add | 1 => .smin | 2 => .smax | 3 => .nmin | 4 => .nmax | 5 => .and | 6 => .or | 7 => .xor | 8 => .xchg
  | 9 => .cas | 10 => .fadd | 11 => .reserved11 | 12 => .reserved12 | 13 => .reserved13 | 14 => .reserved14
  | _ => .reserved15

/-- R36. -/
def remapOf2 (v : BitVec 2) : Remap :=
  match v.toNat with
  | 0 => .none | 1 => .mod | 2 => .hash | _ => .tab

/-- R34, R104. -/
def fillOf2 (v : BitVec 2) : Fill :=
  match v.toNat with
  | 0 => .zero | 1 => .edge | 2 => .old | _ => .wrap

/-- Bit 24. -/
def uOf (w : Word) : Bool := flag w 24

/-- `k` where the listed bits are all zero; the named rejection otherwise. -/
def needZero (w : Word) (lo n : Nat) (r : Reject) (k : Except Reject Instr) : Except Reject Instr :=
  if fld w lo n = 0 then k else .error r

/-- Format A (R19). -/
def fa (w : Word) : FA := ⟨uOf w, dstOf w, srcAOf w, srcBOf w⟩
/-- Format A with a register d. -/
def fa3 (w : Word) : FA3 := ⟨uOf w, fld w 17 6, srcAOf w, srcBOf w⟩
/-- Format B. -/
def fb (w : Word) : FB := ⟨uOf w, dstOf w, srcAOf w⟩
/-- SLIDE (R104). -/
def fslide (w : Word) : FSlide := ⟨uOf w, dstOf w, srcAOf w, flag w 7, fillOf2 (fld w 5 2), fld w 0 5⟩
/-- Format I (R105). -/
def fi (w : Word) : FI := ⟨uOf w, fld w 18 6, flag w 17, fld w 0 17⟩
/-- Format K (R106). -/
def fk (w : Word) : FK := ⟨uOf w, fld w 18 6, fld w 12 6, fld w 0 12⟩
/-- CVT (R117). -/
def fcvt (w : Word) : FCvt := ⟨uOf w, dstOf w, srcAOf w, fld w 4 4⟩
/-- XCEND (R123). -/
def fl (w : Word) : FL := ⟨uOf w, dstOf w, srcAOf w, fld w 4 4⟩
/-- MOMNL (R136). -/
def fml (w : Word) : FML := ⟨uOf w, fld w 17 6, regPOf w, fld w 4 4⟩
/-- MADD, MSUB, MMUL (R132). -/
def fm2 (w : Word) : FM2 := ⟨uOf w, fld w 17 6, regPOf w, ⟨fld w 1 6, flag w 0⟩⟩
/-- MSCL (R132). -/
def fmscl (w : Word) : FMScl := ⟨uOf w, fld w 17 6, regPOf w, srcBOf w⟩
/-- MCOLL (R138). -/
def fmcoll (w : Word) : FMColl := ⟨uOf w, fld w 17 6, regPOf w⟩
/-- MCOLL.UCB (R138). -/
def fmucb (w : Word) : FMUcb := ⟨uOf w, fld w 17 6, regPOf w, fld w 0 6⟩
/-- Format M (R196). -/
def fm (w : Word) : FM :=
  ⟨uOf w, dstOf w, fld w 11 6, fld w 7 4, sizeOf3 (fld w 4 3), ordOf2 (fld w 2 2), flag w 1, flag w 0⟩
/-- Format M of LDS and STS (R197). -/
def fms (w : Word) : FMS := ⟨uOf w, dstOf w, fld w 11 6, fld w 7 4, sizeOf3 (fld w 4 3), ordOf2 (fld w 2 2), flag w 1⟩
/-- Format MA (R198). -/
def fma (w : Word) : FMA :=
  ⟨uOf w, fld w 17 6, fld w 11 6, fld w 7 4, aopOf4 (fld w 3 4), flag w 2, ordOf2 (fld w 0 2)⟩
/-- MRED (R326). -/
def fmred (w : Word) : FMRed := ⟨uOf w, fld w 17 6, fld w 11 6, aopOf4 (fld w 3 4), flag w 2, ordOf2 (fld w 0 2)⟩
/-- LDX (R329). -/
def fx (w : Word) : FX := ⟨uOf w, fld w 18 6, fld w 12 6, fld w 6 6, fld w 2 4, remapOf2 (fld w 0 2)⟩
/-- SCAT (R330). -/
def fscat (w : Word) : FScat := ⟨uOf w, fld w 18 6, fld w 12 6, fld w 6 6, aopOf4 (fld w 2 4), remapOf2 (fld w 0 2)⟩
/-- WAITA (R200). -/
def fwait (w : Word) : FWait := ⟨uOf w, fld w 11 6, fld w 7 4⟩
/-- PREF (R204). -/
def fpref (w : Word) : FPref := ⟨uOf w, fld w 11 6, fld w 7 4, flag w 0⟩
/-- FENCE (R202). -/
def ffence (w : Word) : FFence := ⟨uOf w, fld w 20 4, fld w 0 2⟩
/-- A pair operand in a (R23). -/
def fpair (w : Word) : FPair := ⟨uOf w, fld w 10 6⟩
/-- CHMAP (R206). -/
def fchmap (w : Word) : FChan := ⟨uOf w, fld w 17 6, fld w 10 6⟩
/-- CHSTAT (R206): the channel is a, the register d. -/
def fchstat (w : Word) : FChan := ⟨uOf w, fld w 10 6, fld w 17 6⟩
/-- CLRQ (R224). -/
def fclrq (w : Word) : FClrq := ⟨uOf w, fld w 17 6, fld w 10 6⟩
/-- CLRWAIT (R225). -/
def fclrw (w : Word) : FClrw := ⟨uOf w, fld w 17 6, fld w 10 6, fld w 4 4⟩
/-- BRA, CALL (R143, R146). -/
def fc (w : Word) : FC := ⟨uOf w, fld w 0 24⟩
/-- BRP (R143). -/
def fbrp (w : Word) : FBrp := ⟨uOf w, fld w 18 6, flag w 17, fld w 0 17⟩
/-- TRAP, BKPT, TRMARK (R154). -/
def fval (w : Word) : FVal := ⟨uOf w, fld w 0 20⟩
/-- MODE (R150). -/
def fmode (w : Word) : FMode := ⟨fld w 20 4, fld w 0 20⟩
/-- SREAD (R151). -/
def fsread (w : Word) : FSread := ⟨uOf w, fld w 17 6, fld w 0 8⟩
/-- SWRITE (R151). -/
def fswrite (w : Word) : FSwrite := ⟨uOf w, srcAOf w, fld w 0 8⟩
/-- Format E (R274). -/
def fe (w : Word) : FE := ⟨uOf w, fld w 20 4, fld w 14 6, fld w 8 6⟩
/-- Format E with NB (R290). -/
def fen (w : Word) : FEN := ⟨uOf w, fld w 20 4, fld w 14 6, fld w 8 6, flag w 5⟩
/-- Format E with q = 0. -/
def fel (w : Word) : FEL := ⟨uOf w, fld w 20 4, fld w 14 6⟩
/-- Format E with LA = 0. -/
def feq (w : Word) : FEQ := ⟨uOf w, fld w 14 6, fld w 8 6⟩
/-- TRAVW (R338). -/
def fe0 (w : Word) : FE0 := ⟨uOf w, fld w 14 6⟩

/-- The group of major opcode 0x20 (R34). -/
def decode20 (w : Word) : Except Reject Instr :=
  match (fld w 0 8).toNat with
  | 0 => .ok (.mov (fb w))
  | 1 => .ok (.not (fb w))
  | 2 => .ok (.ineg (fb w))
  | 3 => .ok (.iabs (fb w))
  | 4 => .ok (.popc (fb w))
  | 5 => .ok (.clz (fb w))
  | 6 => .ok (.brev (fb w))
  | 7 => .ok (.voteany (fb w))
  | 8 => .ok (.voteall (fb w))
  | 9 => .ok (.ballot (fb w))
  | _ => .ok (.nnz (fb w))

/-- The group of major opcode 0x40 (R34). -/
def decode40 (w : Word) : Except Reject Instr :=
  match (fld w 0 4).toNat with
  | 0 => needZero w 4 3 .unusedField <| needZero w 7 1 .operandClass <| .ok (.abs (fb w))
  | 1 => needZero w 4 3 .unusedField <| needZero w 7 1 .operandClass <| .ok (.neg (fb w))
  | 2 => needZero w 4 3 .unusedField <| needZero w 7 1 .operandClass <| .ok (.fract (fb w))
  | 3 => needZero w 4 3 .unusedField <| needZero w 7 1 .operandClass <| .ok (.rndi (fb w))
  | 4 => needZero w 4 3 .unusedField <| needZero w 7 1 .operandClass <| .ok (.satp (fb w))
  | _ => .ok (.cvt (fcvt w))

/-- The group of major opcode 0x48 (R34). -/
def decode48 (w : Word) : Except Reject Instr :=
  match (fld w 0 4).toNat with
  | 0 => .ok (.rcp (fl w))
  | 1 => .ok (.rsq (fl w))
  | 2 => .ok (.sqrt (fl w))
  | 3 => .ok (.exp2 (fl w))
  | 4 => .ok (.log2 (fl w))
  | 5 => .ok (.sin (fl w))
  | 6 => .ok (.cos (fl w))
  | 7 => .ok (.tanh (fl w))
  | 8 => .ok (.ncdf (fl w))
  | _ => .ok (.npdf (fl w))

/-- The group of major opcode 0x49 (R34). -/
def decode49 (w : Word) : Except Reject Instr :=
  match (fld w 0 4).toNat with
  | 0 => needZero w 16 1 .operandClass <| needZero w 23 1 .operandClass <| .ok (.mrelu (fml w))
  | 1 => needZero w 16 1 .operandClass <| needZero w 23 1 .operandClass <| .ok (.msig (fml w))
  | 2 => needZero w 16 1 .operandClass <| needZero w 23 1 .operandClass <| .ok (.mexp (fml w))
  | 3 => needZero w 16 1 .operandClass <| needZero w 23 1 .operandClass <| .ok (.mgelu (fml w))
  | _ => needZero w 16 1 .operandClass <| needZero w 23 1 .operandClass <| .ok (.msqr (fml w))

/-- The group of major opcode 0x4E (R34). -/
def decode4E (w : Word) : Except Reject Instr :=
  match (fld w 6 2).toNat with
  | 0 => needZero w 0 6 .unusedField <| needZero w 16 1 .operandClass <| needZero w 23 1 .operandClass <| .ok (.mcollMean (fmcoll w))
  | 1 => needZero w 0 6 .unusedField <| needZero w 16 1 .operandClass <| needZero w 23 1 .operandClass <| .ok (.mcollStd (fmcoll w))
  | 2 => needZero w 0 6 .unusedField <| needZero w 16 1 .operandClass <| needZero w 23 1 .operandClass <| .ok (.mcollVar (fmcoll w))
  | _ => needZero w 16 1 .operandClass <| needZero w 23 1 .operandClass <| .ok (.mcollUcb (fmucb w))

/-- The group of major opcode 0x5B (R34). -/
def decode5B (w : Word) : Except Reject Instr :=
  match (fld w 0 8).toNat with
  | 0 => needZero w 8 2 .unusedField <| needZero w 16 1 .operandClass <| needZero w 17 6 .unusedField <| needZero w 23 1 .operandClass <| .ok (.cacheWb (fpair w))
  | 1 => needZero w 8 2 .unusedField <| needZero w 16 1 .operandClass <| needZero w 17 6 .unusedField <| needZero w 23 1 .operandClass <| .ok (.cacheInv (fpair w))
  | _ => needZero w 8 2 .unusedField <| needZero w 16 1 .operandClass <| needZero w 17 6 .unusedField <| needZero w 23 1 .operandClass <| .ok (.cacheWbinv (fpair w))

/-- The group of major opcode 0x5D (R34). -/
def decode5D (w : Word) : Except Reject Instr :=
  match (fld w 0 8).toNat with
  | 0 => needZero w 8 2 .unusedField <| needZero w 16 1 .operandClass <| (fun k => if flag w 23 then k else .error .operandClass) <| .ok (.chmap (fchmap w))
  | _ => needZero w 8 2 .unusedField <| (fun k => if flag w 16 then k else .error .operandClass) <| needZero w 23 1 .operandClass <| .ok (.chstat (fchstat w))

/-- The group of major opcode 0x61 (R34). -/
def decode61 (w : Word) : Except Reject Instr :=
  match (fld w 0 8).toNat with
  | 0 => needZero w 8 2 .unusedField <| needZero w 16 1 .operandClass <| needZero w 23 1 .operandClass <| .ok (.clrqHeld (fclrq w))
  | 1 => needZero w 8 2 .unusedField <| needZero w 16 1 .operandClass <| needZero w 23 1 .operandClass <| .ok (.clrqOwner (fclrq w))
  | _ => needZero w 8 2 .unusedField <| needZero w 16 1 .operandClass <| needZero w 23 1 .operandClass <| .ok (.clrqDepth (fclrq w))

/-- The group of major opcode 0x63 (R34). -/
def decode63 (w : Word) : Except Reject Instr :=
  match (fld w 0 8).toNat with
  | 0 => needZero w 8 2 .unusedField <| needZero w 16 1 .operandClass <| needZero w 17 6 .unusedField <| needZero w 23 1 .operandClass <| .ok (.clrnoteOne (fpair w))
  | _ => needZero w 8 2 .unusedField <| needZero w 16 1 .operandClass <| needZero w 17 6 .unusedField <| needZero w 23 1 .operandClass <| .ok (.clrnoteAll (fpair w))

/-- The group of major opcode 0x6B (R34). -/
def decode6B (w : Word) : Except Reject Instr :=
  match (fld w 0 8).toNat with
  | 0 => needZero w 8 2 .unusedField <| needZero w 16 1 .operandClass <| needZero w 17 6 .unusedField <| needZero w 23 1 .operandClass <| .ok (.brx (fpair w))
  | 1 => needZero w 8 2 .unusedField <| needZero w 16 1 .operandClass <| needZero w 17 6 .unusedField <| needZero w 23 1 .operandClass <| .ok (.callx (fpair w))
  | 2 => needZero w 8 16 .unusedField <| .ok (.ret (uOf w))
  | 3 => needZero w 8 16 .unusedField <| .ok (.exit (uOf w))
  | 4 => needZero w 8 16 .unusedField <| .ok (.yield (uOf w))
  | _ => needZero w 8 16 .unusedField <| .ok (.nop (uOf w))

/-- The group of major opcode 0x6C (R34). -/
def decode6C (w : Word) : Except Reject Instr :=
  match (fld w 20 4).toNat with
  | 0 => .ok (.trap (fval w))
  | 1 => needZero w 1 19 .unusedField <| .ok (.tret (uOf w) (flag w 0))
  | 2 => .ok (.bkpt (fval w))
  | 3 => .ok (.trmark (fval w))
  | _ => needZero w 1 19 .unusedField <| .ok (.halt (uOf w) (flag w 0))

/-- The group of major opcode 0x78 (R34). -/
def decode78 (w : Word) : Except Reject Instr :=
  match (fld w 0 5).toNat with
  | 0 => needZero w 5 3 .unusedField <| .ok (.mmt (fe w))
  | 1 => needZero w 5 3 .unusedField <| .ok (.mmts (fe w))
  | 2 => needZero w 5 3 .unusedField <| .ok (.mmm (fe w))
  | 3 => needZero w 5 3 .unusedField <| .ok (.panz (fe w))
  | 4 => needZero w 5 3 .unusedField <| .ok (.panld (fe w))
  | 5 => needZero w 5 3 .unusedField <| .ok (.panst (fe w))
  | 6 => needZero w 5 9 .unusedField <| .ok (.panrd (fel w))
  | 7 => needZero w 5 9 .unusedField <| .ok (.panwr (fel w))
  | _ => needZero w 5 9 .unusedField <| .ok (.panstat (fel w))

/-- The group of major opcode 0x79 (R34). -/
def decode79 (w : Word) : Except Reject Instr :=
  match (fld w 0 5).toNat with
  | 0 => needZero w 6 2 .unusedField <| .ok (.tpost (fen w))
  | 1 => needZero w 6 2 .unusedField <| .ok (.launch (fen w))
  | _ => needZero w 5 9 .unusedField <| .ok (.tqstat (fel w))

/-- The group of major opcode 0x7A (R34). -/
def decode7A (w : Word) : Except Reject Instr :=
  match (fld w 0 5).toNat with
  | 0 => needZero w 5 3 .unusedField <| .ok (.cpy (fe w))
  | 1 => needZero w 5 3 .unusedField <| .ok (.cpyred (fe w))
  | _ => needZero w 5 9 .unusedField <| .ok (.cpystat (fel w))

/-- The group of major opcode 0x7B (R34). -/
def decode7B (w : Word) : Except Reject Instr :=
  match (fld w 0 5).toNat with
  | 0 => needZero w 5 3 .unusedField <| needZero w 20 4 .unusedField <| .ok (.tlwait (feq w))
  | 1 => needZero w 5 3 .unusedField <| .ok (.tlread (fe w))
  | 2 => needZero w 5 3 .unusedField <| .ok (.tladv (fe w))
  | 3 => needZero w 5 3 .unusedField <| needZero w 20 4 .unusedField <| .ok (.bar (feq w))
  | 4 => needZero w 5 3 .unusedField <| .ok (.bara (fe w))
  | 5 => needZero w 5 3 .unusedField <| .ok (.barinit (fe w))
  | _ => needZero w 5 3 .unusedField <| .ok (.barinv (fe w))

/-- The group of major opcode 0x7C (R34). -/
def decode7C (w : Word) : Except Reject Instr :=
  match (fld w 0 5).toNat with
  | 0 => needZero w 5 3 .unusedField <| .ok (.trav (fe w))
  | _ => needZero w 5 9 .unusedField <| needZero w 20 4 .unusedField <| .ok (.travw (fe0 w))

/-- The group of major opcode 0x7D (R34). -/
def decode7D (w : Word) : Except Reject Instr :=
  match (fld w 0 5).toNat with
  | 0 => needZero w 5 3 .unusedField <| .ok (.coll (fe w))
  | _ => needZero w 5 9 .unusedField <| .ok (.collstat (fel w))

/-- The group of major opcode 0x7E (R34). -/
def decode7E (w : Word) : Except Reject Instr :=
  match (fld w 0 5).toNat with
  | 0 => needZero w 5 3 .unusedField <| .ok (.saln (fe w))
  | _ => needZero w 5 3 .unusedField <| .ok (.smeta (fe w))

/-- The instruction of a word, or why the word is none (R32 to R38). An unallocated major opcode and an unlisted sub-op are
the row ILLEGAL_WORD, and major opcode 0x00 is the row ILL (R40). -/
def decode (w : Word) : Except Reject Instr :=
  if unlisted w then .ok (.illegalWord w)
  else match (fld w 25 7).toNat with
  | 0x00 => .ok (.ill (fld w 0 25))
  | 0x01 => .ok (.iadd (fa w))
  | 0x02 => .ok (.isub (fa w))
  | 0x03 => .ok (.imul (fa w))
  | 0x04 => .ok (.imulh (fa w))
  | 0x05 => .ok (.nmulh (fa w))
  | 0x06 => needZero w 23 1 .operandClass <| .ok (.imad (fa3 w))
  | 0x07 => .ok (.imin (fa w))
  | 0x08 => .ok (.imax (fa w))
  | 0x09 => .ok (.nmin (fa w))
  | 0x0A => .ok (.nmax (fa w))
  | 0x0B => .ok (.and (fa w))
  | 0x0C => .ok (.or (fa w))
  | 0x0D => .ok (.xor (fa w))
  | 0x0E => .ok (.andn (fa w))
  | 0x0F => .ok (.shl (fa w))
  | 0x10 => .ok (.shr (fa w))
  | 0x11 => .ok (.sar (fa w))
  | 0x12 => .ok (.rotl (fa w))
  | 0x13 => needZero w 23 1 .operandClass <| .ok (.sel (fa3 w))
  | 0x14 => .ok (.iseq (fa w))
  | 0x15 => .ok (.isne (fa w))
  | 0x16 => .ok (.islt (fa w))
  | 0x17 => .ok (.isle (fa w))
  | 0x18 => .ok (.nslt (fa w))
  | 0x19 => .ok (.nsle (fa w))
  | 0x1A => .ok (.bfx (fa w))
  | 0x1B => needZero w 23 1 .operandClass <| .ok (.bfi (fa3 w))
  | 0x1C => .ok (.perm (fa w))
  | 0x20 => decode20 w
  | 0x21 => .ok (.slide (fslide w))
  | 0x22 => .ok (.li (fi w))
  | 0x23 => .ok (.iaddi (fk w))
  | 0x24 => .ok (.andi (fk w))
  | 0x25 => .ok (.ori (fk w))
  | 0x26 => .ok (.xori (fk w))
  | 0x27 => .ok (.shli (fk w))
  | 0x28 => .ok (.shri (fk w))
  | 0x29 => .ok (.sari (fk w))
  | 0x2A => .ok (.islti (fk w))
  | 0x30 => .ok (.add (fa w))
  | 0x31 => .ok (.sub (fa w))
  | 0x32 => .ok (.mul (fa w))
  | 0x33 => needZero w 23 1 .operandClass <| .ok (.fma (fa3 w))
  | 0x34 => needZero w 23 1 .operandClass <| .ok (.fms (fa3 w))
  | 0x35 => needZero w 23 1 .operandClass <| .ok (.fnma (fa3 w))
  | 0x36 => .ok (.min (fa w))
  | 0x37 => .ok (.max (fa w))
  | 0x38 => .ok (.ceq (fa w))
  | 0x39 => .ok (.cne (fa w))
  | 0x3A => .ok (.clt (fa w))
  | 0x3B => .ok (.cle (fa w))
  | 0x3C => .ok (.cun (fa w))
  | 0x3D => needZero w 23 1 .operandClass <| .ok (.dot2 (fa3 w))
  | 0x3E => needZero w 23 1 .operandClass <| .ok (.dot4 (fa3 w))
  | 0x3F => .ok (.rshr (fa w))
  | 0x40 => decode40 w
  | 0x48 => decode48 w
  | 0x49 => decode49 w
  | 0x4A => needZero w 7 1 .operandClass <| needZero w 16 1 .operandClass <| needZero w 23 1 .operandClass <| .ok (.madd (fm2 w))
  | 0x4B => needZero w 7 1 .operandClass <| needZero w 16 1 .operandClass <| needZero w 23 1 .operandClass <| .ok (.msub (fm2 w))
  | 0x4C => needZero w 7 1 .operandClass <| needZero w 16 1 .operandClass <| needZero w 23 1 .operandClass <| .ok (.mmul (fm2 w))
  | 0x4D => needZero w 16 1 .operandClass <| needZero w 23 1 .operandClass <| .ok (.mscl (fmscl w))
  | 0x4E => decode4E w
  | 0x50 => .ok (.ld (fm w))
  | 0x51 => .ok (.st (fm w))
  | 0x52 => needZero w 0 1 .unusedField <| .ok (.lds (fms w))
  | 0x53 => needZero w 0 1 .unusedField <| .ok (.sts (fms w))
  | 0x54 => needZero w 23 1 .operandClass <| .ok (.atom (fma w))
  | 0x55 => needZero w 23 1 .operandClass <| .ok (.matom (fma w))
  | 0x56 => needZero w 7 1 .operandClass <| needZero w 8 3 .unusedField <| needZero w 23 1 .operandClass <| .ok (.mred (fmred w))
  | 0x57 => .ok (.ldx (fx w))
  | 0x58 => .ok (.scat (fscat w))
  | 0x59 => needZero w 0 7 .unusedField <| needZero w 17 7 .unusedField <| .ok (.waita (fwait w))
  | 0x5A => needZero w 2 18 .unusedField <| .ok (.fence (ffence w))
  | 0x5B => decode5B w
  | 0x5C => needZero w 1 6 .unusedField <| needZero w 17 7 .unusedField <| .ok (.pref (fpref w))
  | 0x5D => decode5D w
  | 0x60 => needZero w 0 24 .unusedField <| .ok (.clrsync (uOf w))
  | 0x61 => decode61 w
  | 0x62 => needZero w 8 2 .unusedField <| needZero w 16 1 .operandClass <| needZero w 23 1 .operandClass <| .ok (.clrwait (fclrw w))
  | 0x63 => decode63 w
  | 0x64 => needZero w 8 2 .unusedField <| needZero w 16 1 .operandClass <| needZero w 17 6 .unusedField <| needZero w 23 1 .operandClass <| .ok (.clrclean (fpair w))
  | 0x68 => .ok (.bra (fc w))
  | 0x69 => .ok (.brp (fbrp w))
  | 0x6A => .ok (.call (fc w))
  | 0x6B => decode6B w
  | 0x6C => decode6C w
  | 0x70 => if uOf w then .ok (.mode (fmode w)) else .error .modeNotUniform
  | 0x71 => needZero w 8 8 .unusedField <| needZero w 16 1 .operandClass <| needZero w 23 1 .operandClass <| .ok (.sread (fsread w))
  | 0x72 => needZero w 17 6 .unusedField <| needZero w 23 1 .operandClass <| .ok (.swrite (fswrite w))
  | 0x78 => decode78 w
  | 0x79 => decode79 w
  | 0x7A => decode7A w
  | 0x7B => decode7B w
  | 0x7C => decode7C w
  | 0x7D => decode7D w
  | _ => decode7E w

/-- The word at the head of a list of bytes, lowest address first (R2). -/
def wordOfBytes : List Byte → Option (Word × List Byte)
  | b0 :: b1 :: b2 :: b3 :: rest => some (b3 ++ b2 ++ b1 ++ b0, rest)
  | _ => none

/-- The bytes of a word, lowest address first (R2). -/
def bytesOfWord (w : Word) : List Byte := [fld w 0 8, fld w 8 8, fld w 16 8, fld w 24 8]

/-- The instruction at the head of a list of bytes, with the rest of the list. -/
def decodeBytes (bs : List Byte) : Except Reject (Instr × List Byte) :=
  match wordOfBytes bs with
  | none => .error .truncated
  | some (w, rest) => (decode w).map fun i => (i, rest)

/-- What the decoder reads from an instruction given as a number in the numbering of the opcode table. -/
def decodeTableWord (nbits w : Nat) : Option Instr :=
  match decodeBytes (bytesOfWord (BitVec.ofNat 32 (w % 2 ^ nbits))) with
  | .ok (i, _) => some i
  | .error _ => none

/-! The encoder, from the same formats (R19 to R23). -/

/-- One bit. -/
def b1 (b : Bool) : BitVec 1 := BitVec.ofBool b

/-- R20. -/
def Dst.enc (d : Dst) : BitVec 7 := b1 d.chan ++ d.idx

/-- R21. -/
def SrcA.enc (a : SrcA) : BitVec 9 := b1 a.chan ++ a.idx ++ a.p

/-- R22. -/
def SrcB.enc (b : SrcB) : BitVec 8 := b1 b.chan ++ b.idx ++ b1 b.p

/-- R21 with C = 0. -/
def RegP.enc (a : RegP) : BitVec 9 := b1 false ++ a.idx ++ a.p

/-- R22 with C = 0. -/
def RegB.enc (b : RegB) : BitVec 8 := b1 false ++ b.idx ++ b1 b.p

/-- R35. -/
def MSize.enc : MSize → BitVec 3
  | .b8 => 0 | .b16 => 1 | .b32 => 2 | .b64 => 3 | .b128 => 4 | .raw => 5 | .keepexp => 6 | .reserved7 => 7

/-- R35. -/
def MOrd.enc : MOrd → BitVec 2
  | .plain => 0 | .acq => 1 | .rel => 2 | .ar => 3

/-- R36. -/
def Aop.enc : Aop → BitVec 4
  | .add => 0 | .smin => 1 | .smax => 2 | .nmin => 3 | .nmax => 4 | .and => 5 | .or => 6 | .xor => 7 | .xchg => 8
  | .cas => 9 | .fadd => 10 | .reserved11 => 11 | .reserved12 => 12 | .reserved13 => 13 | .reserved14 => 14
  | .reserved15 => 15

/-- R36. -/
def Remap.enc : Remap → BitVec 2
  | .none => 0 | .mod => 1 | .hash => 2 | .tab => 3

/-- R34. -/
def Fill.enc : Fill → BitVec 2
  | .zero => 0 | .edge => 1 | .old => 2 | .wrap => 3

/-- Format A. -/
def FA.enc (op : BitVec 7) (w : FA) : Word := op ++ b1 w.u ++ w.d.enc ++ w.a.enc ++ w.b.enc
/-- Format A with a register d. -/
def FA3.enc (op : BitVec 7) (w : FA3) : Word := op ++ b1 w.u ++ b1 false ++ w.d ++ w.a.enc ++ w.b.enc
/-- Format B. -/
def FB.enc (op : BitVec 7) (sub : BitVec 8) (w : FB) : Word := op ++ b1 w.u ++ w.d.enc ++ w.a.enc ++ sub
/-- SLIDE. -/
def FSlide.enc (w : FSlide) : Word :=
  (0x21 : BitVec 7) ++ b1 w.u ++ w.d.enc ++ w.a.enc ++ b1 w.up ++ w.fill.enc ++ w.k
/-- Format I. -/
def FI.enc (w : FI) : Word := (0x22 : BitVec 7) ++ b1 w.u ++ w.d ++ b1 w.h ++ w.imm
/-- Format K. -/
def FK.enc (op : BitVec 7) (w : FK) : Word := op ++ b1 w.u ++ w.d ++ w.a ++ w.imm
/-- CVT. -/
def FCvt.enc (w : FCvt) : Word := (0x40 : BitVec 7) ++ b1 w.u ++ w.d.enc ++ w.a.enc ++ w.t ++ (5 : BitVec 4)
/-- XCEND. -/
def FL.enc (sub : BitVec 4) (w : FL) : Word := (0x48 : BitVec 7) ++ b1 w.u ++ w.d.enc ++ w.a.enc ++ w.la ++ sub
/-- MOMNL. -/
def FML.enc (sub : BitVec 4) (w : FML) : Word :=
  (0x49 : BitVec 7) ++ b1 w.u ++ b1 false ++ w.d ++ w.a.enc ++ w.la ++ sub
/-- MADD, MSUB, MMUL. -/
def FM2.enc (op : BitVec 7) (w : FM2) : Word := op ++ b1 w.u ++ b1 false ++ w.d ++ w.a.enc ++ w.b.enc
/-- MSCL. -/
def FMScl.enc (w : FMScl) : Word := (0x4D : BitVec 7) ++ b1 w.u ++ b1 false ++ w.d ++ w.a.enc ++ w.b.enc
/-- MCOLL.MEAN, STD, VAR. -/
def FMColl.enc (kind : BitVec 2) (w : FMColl) : Word :=
  (0x4E : BitVec 7) ++ b1 w.u ++ b1 false ++ w.d ++ w.a.enc ++ kind ++ (0 : BitVec 6)
/-- MCOLL.UCB. -/
def FMUcb.enc (w : FMUcb) : Word := (0x4E : BitVec 7) ++ b1 w.u ++ b1 false ++ w.d ++ w.a.enc ++ (3 : BitVec 2) ++ w.k
/-- Format M. -/
def FM.enc (op : BitVec 7) (w : FM) : Word :=
  op ++ b1 w.u ++ w.data.enc ++ w.addr ++ w.la ++ w.size.enc ++ w.ord.enc ++ b1 w.str ++ b1 w.nc
/-- Format M of LDS and STS. -/
def FMS.enc (op : BitVec 7) (w : FMS) : Word :=
  op ++ b1 w.u ++ w.data.enc ++ w.addr ++ w.la ++ w.size.enc ++ w.ord.enc ++ b1 w.str ++ b1 false
/-- Format MA. -/
def FMA.enc (op : BitVec 7) (w : FMA) : Word :=
  op ++ b1 w.u ++ b1 false ++ w.data ++ w.addr ++ w.la ++ w.aop.enc ++ b1 w.w ++ w.ord.enc
/-- MRED. -/
def FMRed.enc (w : FMRed) : Word :=
  (0x56 : BitVec 7) ++ b1 w.u ++ b1 false ++ w.data ++ w.addr ++ (0 : BitVec 4) ++ w.aop.enc ++ b1 w.w ++ w.ord.enc
/-- LDX. -/
def FX.enc (w : FX) : Word := (0x57 : BitVec 7) ++ b1 w.u ++ w.d ++ w.base ++ w.idx ++ w.la ++ w.remap.enc
/-- SCAT. -/
def FScat.enc (w : FScat) : Word := (0x58 : BitVec 7) ++ b1 w.u ++ w.data ++ w.base ++ w.idx ++ w.red.enc ++ w.remap.enc
/-- WAITA. -/
def FWait.enc (w : FWait) : Word := (0x59 : BitVec 7) ++ b1 w.u ++ (0 : BitVec 7) ++ w.addr ++ w.la ++ (0 : BitVec 7)
/-- PREF. -/
def FPref.enc (w : FPref) : Word :=
  (0x5C : BitVec 7) ++ b1 w.u ++ (0 : BitVec 7) ++ w.addr ++ w.la ++ (0 : BitVec 6) ++ b1 w.nc
/-- FENCE. -/
def FFence.enc (w : FFence) : Word := (0x5A : BitVec 7) ++ b1 w.u ++ w.f ++ (0 : BitVec 18) ++ w.kind
/-- An instruction with one pair operand. -/
def FPair.enc (op : BitVec 7) (sub : BitVec 8) (w : FPair) : Word :=
  op ++ b1 w.u ++ (0 : BitVec 8) ++ w.a ++ (0 : BitVec 2) ++ sub
/-- CHMAP. -/
def FChan.encMap (w : FChan) : Word :=
  (0x5D : BitVec 7) ++ b1 w.u ++ b1 true ++ w.c ++ b1 false ++ w.i ++ (0 : BitVec 10)
/-- CHSTAT. -/
def FChan.encStat (w : FChan) : Word :=
  (0x5D : BitVec 7) ++ b1 w.u ++ b1 false ++ w.i ++ b1 true ++ w.c ++ (1 : BitVec 10)
/-- CLRQ. -/
def FClrq.enc (sub : BitVec 8) (w : FClrq) : Word :=
  (0x61 : BitVec 7) ++ b1 w.u ++ b1 false ++ w.d ++ b1 false ++ w.a ++ (0 : BitVec 2) ++ sub
/-- CLRWAIT. -/
def FClrw.enc (w : FClrw) : Word :=
  (0x62 : BitVec 7) ++ b1 w.u ++ b1 false ++ w.d ++ b1 false ++ w.a ++ (0 : BitVec 2) ++ w.la ++ (0 : BitVec 4)
/-- BRA, CALL. -/
def FC.enc (op : BitVec 7) (w : FC) : Word := op ++ b1 w.u ++ w.off
/-- BRP. -/
def FBrp.enc (w : FBrp) : Word := (0x69 : BitVec 7) ++ b1 w.u ++ w.p ++ b1 w.pol ++ w.off
/-- RET, EXIT, YIELD, NOP. -/
def encCtl (sub : BitVec 8) (u : Bool) : Word := (0x6B : BitVec 7) ++ b1 u ++ (0 : BitVec 16) ++ sub
/-- TRP group. -/
def encTrp (f : BitVec 4) (u : Bool) (val : BitVec 20) : Word := (0x6C : BitVec 7) ++ b1 u ++ f ++ val
/-- MODE. -/
def FMode.enc (w : FMode) : Word := (0x70 : BitVec 7) ++ b1 true ++ w.f ++ w.val
/-- SREAD. -/
def FSread.enc (w : FSread) : Word := (0x71 : BitVec 7) ++ b1 w.u ++ b1 false ++ w.d ++ (0 : BitVec 9) ++ w.n
/-- SWRITE. -/
def FSwrite.enc (w : FSwrite) : Word := (0x72 : BitVec 7) ++ b1 w.u ++ (0 : BitVec 7) ++ w.a.enc ++ w.n
/-- Format E. -/
def encE (op : BitVec 7) (sub : BitVec 5) (u : Bool) (la : BitVec 4) (x q : RegNo) (nb : Bool) : Word :=
  op ++ b1 u ++ la ++ x ++ q ++ (0 : BitVec 2) ++ b1 nb ++ sub

/-- The word of an instruction; none for an event. -/
def encode : Instr → Option Word
  | .ill z => some ((0 : BitVec 7) ++ z)
  | .iadd w => some (w.enc 0x01)
  | .isub w => some (w.enc 0x02)
  | .imul w => some (w.enc 0x03)
  | .imulh w => some (w.enc 0x04)
  | .nmulh w => some (w.enc 0x05)
  | .imad w => some (w.enc 0x06)
  | .imin w => some (w.enc 0x07)
  | .imax w => some (w.enc 0x08)
  | .nmin w => some (w.enc 0x09)
  | .nmax w => some (w.enc 0x0A)
  | .and w => some (w.enc 0x0B)
  | .or w => some (w.enc 0x0C)
  | .xor w => some (w.enc 0x0D)
  | .andn w => some (w.enc 0x0E)
  | .shl w => some (w.enc 0x0F)
  | .shr w => some (w.enc 0x10)
  | .sar w => some (w.enc 0x11)
  | .rotl w => some (w.enc 0x12)
  | .sel w => some (w.enc 0x13)
  | .iseq w => some (w.enc 0x14)
  | .isne w => some (w.enc 0x15)
  | .islt w => some (w.enc 0x16)
  | .isle w => some (w.enc 0x17)
  | .nslt w => some (w.enc 0x18)
  | .nsle w => some (w.enc 0x19)
  | .bfx w => some (w.enc 0x1A)
  | .bfi w => some (w.enc 0x1B)
  | .perm w => some (w.enc 0x1C)
  | .mov w => some (w.enc 0x20 0)
  | .not w => some (w.enc 0x20 1)
  | .ineg w => some (w.enc 0x20 2)
  | .iabs w => some (w.enc 0x20 3)
  | .popc w => some (w.enc 0x20 4)
  | .clz w => some (w.enc 0x20 5)
  | .brev w => some (w.enc 0x20 6)
  | .voteany w => some (w.enc 0x20 7)
  | .voteall w => some (w.enc 0x20 8)
  | .ballot w => some (w.enc 0x20 9)
  | .nnz w => some (w.enc 0x20 10)
  | .slide w => some w.enc
  | .li w => some w.enc
  | .iaddi w => some (w.enc 0x23)
  | .andi w => some (w.enc 0x24)
  | .ori w => some (w.enc 0x25)
  | .xori w => some (w.enc 0x26)
  | .shli w => some (w.enc 0x27)
  | .shri w => some (w.enc 0x28)
  | .sari w => some (w.enc 0x29)
  | .islti w => some (w.enc 0x2A)
  | .add w => some (w.enc 0x30)
  | .sub w => some (w.enc 0x31)
  | .mul w => some (w.enc 0x32)
  | .fma w => some (w.enc 0x33)
  | .fms w => some (w.enc 0x34)
  | .fnma w => some (w.enc 0x35)
  | .min w => some (w.enc 0x36)
  | .max w => some (w.enc 0x37)
  | .ceq w => some (w.enc 0x38)
  | .cne w => some (w.enc 0x39)
  | .clt w => some (w.enc 0x3A)
  | .cle w => some (w.enc 0x3B)
  | .cun w => some (w.enc 0x3C)
  | .dot2 w => some (w.enc 0x3D)
  | .dot4 w => some (w.enc 0x3E)
  | .rshr w => some (w.enc 0x3F)
  | .abs w => some (w.enc 0x40 0)
  | .neg w => some (w.enc 0x40 1)
  | .fract w => some (w.enc 0x40 2)
  | .rndi w => some (w.enc 0x40 3)
  | .satp w => some (w.enc 0x40 4)
  | .cvt w => some w.enc
  | .rcp w => some (w.enc 0)
  | .rsq w => some (w.enc 1)
  | .sqrt w => some (w.enc 2)
  | .exp2 w => some (w.enc 3)
  | .log2 w => some (w.enc 4)
  | .sin w => some (w.enc 5)
  | .cos w => some (w.enc 6)
  | .tanh w => some (w.enc 7)
  | .ncdf w => some (w.enc 8)
  | .npdf w => some (w.enc 9)
  | .mrelu w => some (w.enc 0)
  | .msig w => some (w.enc 1)
  | .mexp w => some (w.enc 2)
  | .mgelu w => some (w.enc 3)
  | .msqr w => some (w.enc 4)
  | .madd w => some (w.enc 0x4A)
  | .msub w => some (w.enc 0x4B)
  | .mmul w => some (w.enc 0x4C)
  | .mscl w => some w.enc
  | .mcollMean w => some (w.enc 0)
  | .mcollStd w => some (w.enc 1)
  | .mcollVar w => some (w.enc 2)
  | .mcollUcb w => some w.enc
  | .ld w => some (w.enc 0x50)
  | .st w => some (w.enc 0x51)
  | .lds w => some (w.enc 0x52)
  | .sts w => some (w.enc 0x53)
  | .atom w => some (w.enc 0x54)
  | .matom w => some (w.enc 0x55)
  | .mred w => some w.enc
  | .ldx w => some w.enc
  | .scat w => some w.enc
  | .waita w => some w.enc
  | .fence w => some w.enc
  | .cacheWb w => some (w.enc 0x5B 0)
  | .cacheInv w => some (w.enc 0x5B 1)
  | .cacheWbinv w => some (w.enc 0x5B 2)
  | .pref w => some w.enc
  | .chmap w => some w.encMap
  | .chstat w => some w.encStat
  | .clrsync u => some ((0x60 : BitVec 7) ++ b1 u ++ (0 : BitVec 24))
  | .clrqHeld w => some (w.enc 0)
  | .clrqOwner w => some (w.enc 1)
  | .clrqDepth w => some (w.enc 2)
  | .clrwait w => some w.enc
  | .clrnoteOne w => some (w.enc 0x63 0)
  | .clrnoteAll w => some (w.enc 0x63 1)
  | .clrclean w => some (w.enc 0x64 0)
  | .bra w => some (w.enc 0x68)
  | .brp w => some w.enc
  | .call w => some (w.enc 0x6A)
  | .brx w => some (w.enc 0x6B 0)
  | .callx w => some (w.enc 0x6B 1)
  | .ret u => some (encCtl 2 u)
  | .exit u => some (encCtl 3 u)
  | .yield u => some (encCtl 4 u)
  | .nop u => some (encCtl 5 u)
  | .trap w => some (encTrp 0 w.u w.val)
  | .tret u r => some (encTrp 1 u ((0 : BitVec 19) ++ b1 r))
  | .bkpt w => some (encTrp 2 w.u w.val)
  | .trmark w => some (encTrp 3 w.u w.val)
  | .halt u r => some (encTrp 4 u ((0 : BitVec 19) ++ b1 r))
  | .mode w => some w.enc
  | .sread w => some w.enc
  | .swrite w => some w.enc
  | .mmt w => some (encE 0x78 0 w.u w.la w.x w.q false)
  | .mmts w => some (encE 0x78 1 w.u w.la w.x w.q false)
  | .mmm w => some (encE 0x78 2 w.u w.la w.x w.q false)
  | .panz w => some (encE 0x78 3 w.u w.la w.x w.q false)
  | .panld w => some (encE 0x78 4 w.u w.la w.x w.q false)
  | .panst w => some (encE 0x78 5 w.u w.la w.x w.q false)
  | .panrd w => some (encE 0x78 6 w.u w.la w.x 0 false)
  | .panwr w => some (encE 0x78 7 w.u w.la w.x 0 false)
  | .panstat w => some (encE 0x78 8 w.u w.la w.x 0 false)
  | .tpost w => some (encE 0x79 0 w.u w.la w.x w.q w.nb)
  | .launch w => some (encE 0x79 1 w.u w.la w.x w.q w.nb)
  | .tqstat w => some (encE 0x79 2 w.u w.la w.x 0 false)
  | .cpy w => some (encE 0x7A 0 w.u w.la w.x w.q false)
  | .cpyred w => some (encE 0x7A 1 w.u w.la w.x w.q false)
  | .cpystat w => some (encE 0x7A 2 w.u w.la w.x 0 false)
  | .tlwait w => some (encE 0x7B 0 w.u 0 w.x w.q false)
  | .tlread w => some (encE 0x7B 1 w.u w.la w.x w.q false)
  | .tladv w => some (encE 0x7B 2 w.u w.la w.x w.q false)
  | .bar w => some (encE 0x7B 3 w.u 0 w.x w.q false)
  | .bara w => some (encE 0x7B 4 w.u w.la w.x w.q false)
  | .barinit w => some (encE 0x7B 5 w.u w.la w.x w.q false)
  | .barinv w => some (encE 0x7B 6 w.u w.la w.x w.q false)
  | .trav w => some (encE 0x7C 0 w.u w.la w.x w.q false)
  | .travw w => some (encE 0x7C 1 w.u 0 w.x 0 false)
  | .coll w => some (encE 0x7D 0 w.u w.la w.x w.q false)
  | .collstat w => some (encE 0x7D 1 w.u w.la w.x 0 false)
  | .saln w => some (encE 0x7E 0 w.u w.la w.x w.q false)
  | .smeta w => some (encE 0x7E 1 w.u w.la w.x w.q false)
  | .illegalWord w => some w
  | _ => none

end Sys2Proof
end

