-- ==== Sys2Proof/Machine/Issue.lean ====
section
/-! DEFINITION. What a step does around an instruction: which agent moves (log entry 1), which street and path issue (R58,
R166), fetching and checking the word (R40, R161), closing windows (R27), and after it the ageing (R59), the merging (R60)
and the counting of windows. -/

namespace Sys2Proof.Machine

/-- The OFFSET words of a block's safe points at or after index `i`: whether one names this offset, and which (R48). -/
def safeScan (s : State) (b : Block) (off : Nat) : Nat → Nat → Option Nat
  | 0, _ => none
  | n + 1, i =>
    if s.virtNat? b.ctx (b.safetab + 8 * i) 4 = some off then some i else safeScan s b off n (i + 1)

/-- The safe point at an address of a block, as its index in the tables (R48). -/
def State.safePoint (s : State) (b : Block) (pc : Addr) : Option Nat :=
  if b.safetab = 0 ∨ pc.toNat < b.text then none else safeScan s b (pc.toNat - b.text) b.hdr.safecount b.hdr.safefirst

/-- Whether a save request has waited 65,536 cycles (R172). -/
def Block.saveLate (b : Block) (clock : Nat) : Bool := b.save.any fun q => decide (q.since + 65536 ≤ clock)

/-- Whether a load or an atomic of an entry of a street waits for another device, or has its answer to take (R378). -/
def State.readsFar (s : State) (t : Street) (e : PathEntry) : Bool :=
  s.remote.any fun r => r.sid == t.sid && returnBytes r.op != 0 && !r.detached && e.mask.getLsbD r.lane

/-- The entries a street may run now: runnable ones, less those held at a safe point under a pre-emption request (R171), and once that
has waited 65,536 cycles only those whose older long-latency instruction is to complete (R172); an access that its compare point has
let through is made (R368). -/
def State.mayRun (s : State) (b : Block) (t : Street) : List (Fin 8 × PathEntry) :=
  match b.save with
  | none => t.runnable
  | some _ => t.runnable.filter fun e => t.pair.any (·.go)
      || if b.saveLate s.clock then s.readsFar t e.2 else t.tlevel || (s.safePoint b e.2.pc).isNone

/-- Whether a halt asked for takes place at the street's next instruction boundary: in a handler only a forced one, and none before an
access that its compare point has let through (R155, R375). -/
def Street.haltDue (t : Street) : Bool := (t.haltReq && !t.tlevel || t.haltForce) && !t.pair.any (·.go)

/-- Whether a save area that a trap of a street has written on another device has still to be complete there (R158, R378). -/
def State.areaSent (s : State) (t : Street) : Bool :=
  s.remote.any fun r => r.sid == t.sid && r.reply.isNone && match r.op with | .store d => d.length == 256 | _ => false

/-- Whether a street may issue now (R166): it runs, waits for no service and no pair, is past a YIELD, stands at no window's end
(R27), its save area is complete (R158), its die's clock runs (R352), and it has a path. The commit buffer of R29 fills with a window's fifteenth instruction, which
is its last. -/
def State.eligible (s : State) (b : Block) (t : Street) : Bool :=
  t.life == .running && t.svc.isNone && decide (t.yieldUntil ≤ s.clock) && !t.windowEnd && !s.areaSent t && !(s.die t.die).still
    && (match t.pair with | some p => p.waiting.isNone || p.go | none => true)
    && (t.haltDue || !(s.mayRun b t).isEmpty)

/-- R27: count an executed instruction in every open window. At its end a window waits for its fault point (R29). -/
def Street.countWindows (t : Street) : Street := { t with windows := t.windows.map fun w => { w with left := w.left - 1 } }

/-- Emit a MERGE packet for each merge (R374). -/
def State.traceMerges (s : State) (is : List (Fin 8)) : State :=
  is.foldl (fun s i => s.traceIf (·.paths) (leBytes 1 (0x50 + s.st.slot) ++ leBytes 1 i.val
    ++ leBytes 8 (s.st.paths.get i).mask.toNat)) s

/-- Whether an instruction has ended in a trap or in containment. -/
def Street.trapped (t before : Street) : Bool := t.life == .contained || (t.tlevel && !before.tlevel)

/-- The street is held back in this cycle: its turn is over, and nothing has issued. -/
def State.heldBack (s : State) (r : Stall) : State := (s.stalled r).onSt fun t => { t with tried := some s.clock }

/-- Of the lanes that WATCH lets pass at an instruction, those that still stand at it (R372). -/
def Street.watchLeft (t : Street) : Street :=
  { t with watchSkip := t.watchSkip.bind fun w =>
      let m := w.2 &&& (t.liveEntries.filter fun e => e.2.pc == w.1).foldl (fun m e => m ||| e.2.mask) 0
      if m = 0 then none else some (w.1, m) }

/-- What the issue of an instruction adds after it has executed (R27, R59, R60). A stalled or trapping instruction issues
nothing: it ages no entry. One that traps while an older one has not passed its fault point waits (R29). -/
def State.issued (before s : State) : State :=
  let s := { s with freeTick := s.freeTick + 1 }
  if before.st.panWaits && s.st.trapped before.st then { before.heldBack .mem with freeTick := before.freeTick + 1 }
  else if !s.st.there || s.st.sid != before.st.sid then
    s.onCore before.st.core fun c => { c with left := before.st.slot :: c.left }
  else
    let s := s.onSt fun t => { t with tried := some s.clock }
    if s.st.stall.isSome || s.st.svc.isSome || s.st.trapped before.st then s
    else
      let s := s.onSt fun t => { ((Street.aged before.st t before.st.sel).countWindows).watchLeft with
        lastIssue := some s.clock, ready := s.clock + 1 }
      let ms := s.st.merging
      (s.onSt Street.merge).traceMerges ms

/-- R27: the instructions that end every open window: CALL, CALLX, BRX, RET, EXIT and the TRP group. -/
def endsWindows : Instr → Bool
  | .call _ | .callx _ | .brx _ | .ret _ | .exit _ | .trap _ | .tret _ _ | .bkpt _ | .trmark _ | .halt _ _ => true
  | _ => false

/-- What a step is about to do. -/
inductive Plan where
  /-- the outcome is decided without an instruction -/
  | over (r : Res)
  /-- another agent's event comes about -/
  | event (i : Instr) (s : State)
  /-- the street in focus issues an instruction -/
  | issue (i : Instr) (s : State)

/-- Select a path (R58): rule 2 grants 64 instructions; a path switch closes every window (R27). -/
def Street.choose (t : Street) (i : Fin 8) (rule2 : Bool) : Street :=
  let t : Street := if rule2 then t.onPath i fun e => { e with grant := 64 } else t
  let ws := match t.lastSel with | some j => if j = i then t.windows else [] | none => t.windows
  { t with sel := i, lastSel := some i, passOver := none, windows := ws }

/-- An instruction word as fetched is checked and issued, or takes ILLEGAL (R40). One that ends every window waits for an access to a
pan that stands in one (R27). -/
def State.issueWord (s : State) (bs : List Byte) : Plan :=
  match decodeBytes bs with
  | .error _ => .over (.next (State.issued s (s.takeTrap 1 0 0)))
  | .ok (i, _) =>
    if i.wf then
      if !endsWindows i then .issue i s
      else if s.st.panWaits then .over (.next (s.heldBack .mem))
      else .issue i (s.onSt fun t => { t with windows := [] })
    else .over (.next (State.issued s (s.takeTrap 1 0 0)))

/-- Fetch and check the word at the selected path's PC (R40, R161, R316, R378); an access to a formatted page takes FMT_PARTIAL (R85). -/
def State.fetch (s : State) : Plan :=
  let va := s.st.path.pc.toNat
  match translate s s.st.core s.blk.ctx va .fetch with
  | .fault f => .over (.next (s.service f .fetch))
  | .hole pa => .over (.fault (.noMemory pa))
  | .ok pa pte ea base size =>
    if pteFMT pte != 0 then .over (.next (State.issued s (s.takeTrap 4 0 va)))
    else
    let s := touch s s.st.core s.blk.ctx .fetch pa pte ea base size
    match s.readSelf va pa pte 4 with
    | .wait t => .over (.next (t.heldBack .fetch))
    | .broken t fa => .over (.next (State.issued s (t.takeTrap 11 0 fa)))
    | .bytes bs t => t.issueWord bs

/-- The records of a paired street have reached 64 since its last compare point (R367). -/
def Street.pairFull (t : Street) : Bool := match t.pair with | some p => !p.go && decide (64 ≤ p.count) | none => false

/-- The street waits at the compare point that its 64th record is (R367). -/
def State.countPoint (s : State) : State := match s.st.pair with | some p => s.pairWait p 1 | none => s

/-- Whether a street may issue in the cycle and has not. -/
def State.canIssue (s : State) (u : Street) : Bool :=
  u.tried != some s.clock && match s.block? u.block with | some b => s.eligible b u | none => false

/-- The street that a scheduler grants in this cycle: of those that may issue the one of oldest readiness, then of the lower slot (R168);
none where its vector port may still be taken by an instruction that it issued earlier (R167). -/
def State.granted? (s : State) (core parity : Nat) : Option Street :=
  let ts := s.allStreets.filter fun u => u.core == core && u.slot % 2 == parity
  if ts.any fun u => u.lastIssue.any fun c => decide (s.clock < c + 4) then none
  else (ts.filter s.canIssue).foldl (fun best u =>
    match best with
    | none => some u
    | some b => if u.ready < b.ready ∨ (u.ready = b.ready ∧ u.slot < b.slot) then some u else some b) none

/-- Streets of a core issue in ascending slot order within one cycle: no street of a higher slot has issued in it, and no street of a
lower slot that the other scheduler grants in it is still to issue (R13, R209, R374, log entry 61). -/
def State.inSlotTurn (s : State) (t : Street) : Bool :=
  (s.allStreets.all fun u => !(u.core == t.core && decide (t.slot < u.slot) && u.lastIssue == some s.clock))
    && !((s.granted? t.core (1 - t.slot % 2)).any fun u => decide (u.slot < t.slot))

/-- Whether the street in focus is the one named and may issue. -/
def State.mayIssue (s : State) (sid : StreetId) : Bool :=
  s.st.there && s.st.sid == sid && s.eligible s.blk s.st && s.inSlotTurn s.st

/-- Whether a load or an atomic that the street in focus has issued waits for another device: a halt lets it complete (R155). -/
def State.awaitsReply (s : State) : Bool :=
  s.remote.any fun r => r.sid == s.st.sid && returnBytes r.op != 0 && !r.detached

/-- The entry that issues, and whether rule 2 of R58 grants it its turn: one whose load or atomic waits for another device before every
other, for none issues ahead of its completion (R27, R194, R232). -/
def State.nextEntry (s : State) : Option (Fin 8 × Bool) :=
  let es := s.mayRun s.blk s.st
  match if s.awaitsReply then s.st.lastSel.filter fun i => es.any fun e => e.1 == i else none with
  | some i => some (i, false)
  | none => s.st.selectFrom es

/-- A street is to issue. A halt takes place once its older long-latency instructions are complete (R155). -/
def State.issuePlan (s : State) (sid : StreetId) : Plan :=
  let s := s.focus sid
  if !s.mayIssue sid then .over (.next s)
  else if s.st.haltDue && !s.st.panWaits && !s.awaitsReply then .over (.next s.haltStop.freePosts)
  else if s.st.pairFull then .over (.next s.countPoint)
  else
    match s.nextEntry with
    | none => .over (.next (s.heldBack .mem))
    | some (i, rule2) =>
      if s.st.panWaits && s.st.lastSel != some i then .over (.next (s.heldBack .mem))
      else (s.onSt fun t => t.choose i rule2).fetch

/-- The street that issues next where nothing is scheduled: eligible, not yet issued this cycle and in slot turn, of the lowest
slot, then of oldest readiness (R167, R168, R209, log entries 1 and 61). -/
def State.nextStreet (s : State) : Option Street :=
  let ts := s.allStreets.filter fun t => s.canIssue t && s.inSlotTurn t
  ts.foldl (fun (best : Option Street) t =>
    match best with
    | none => some t
    | some b => if t.slot < b.slot ∨ (t.slot = b.slot ∧ t.ready < b.ready) then some t else best) none

/-- A timeline on which a completed operation waits for its turn that has come (R250). -/
def State.dueAdvance (s : State) : Option Instr :=
  s.allBlocks.findSome? fun b => (List.range 32).findSome? fun k =>
    match (b.tl k).next? with | some _ => some (.timelineAdvance b.id k) | none => none

/-- The background event that comes about where nothing is scheduled, at most one a cycle (log entry 1): completions of
engine operations first, then the schedulers. -/
def State.background (s : State) : Option Instr :=
  let engines : List Instr := (s.engines.filter fun e => e.run.isSome).map fun e => .merge e.idx
  let choose : List Instr := ((List.range 16).filter fun c =>
    (s.engine c).run.isNone && ((s.allBlocks.any fun b => coreCluster b.core == c && !b.mxq.isEmpty)
      || !(s.engine c).ops.isEmpty)).map fun c => .engineChoose c
  let copies : List Instr := (s.copies.filter fun c => c.fault.isNone).map fun c => .copyComplete c.id
  let walks : List Instr := (s.walks.filter fun w => w.ended.isNone && w.fault.isNone).map fun w => .walkStep w.id
  let reds : List Instr := s.mreds.map fun r => .mredPerform r.id
  let points : List Instr := s.allStreets.filterMap fun t =>
    (t.windows.findIdx? fun w => w.left == 0 || w.pan.isSome).map fun i => .faultPoint t.sid i
  let saves : List Instr := (s.allBlocks.filter fun b => b.save.isSome).flatMap fun b => [.blockSave b.id, .forcedSave b.id]
  let swaps : List Instr := (s.allBlocks.filter fun b => b.waitSince.isSome && !b.candidate).map fun b => .swapCandidate b.id
  let restores : List Instr := (s.allBlocks.filter fun b => b.life == .saved && b.imageKind == 2).map fun b => .restore b.id
  let pairs : List Instr := (s.allStreets.filter fun t => t.pair.any fun p => p.waiting.isSome).flatMap fun t =>
    [.comparePoint t.sid, .compareTimeout t.sid]
  let reserves : List Instr := ((List.range 4).filter fun d =>
    (s.die d).pool.any fun r => decide (64 ≤ r.passed) && !r.reserved && r.state == .ready).map fun d => .launchReservation d
  let windows : List Instr := (if s.pkg.wbusy then [.wctlRequestComplete] else [])
    ++ ((List.range 4).filter fun d => (s.die d).tlbi.busy).map fun d => .tlbiComplete d
  let ingests : List Instr := ((List.range 4).filter fun d =>
    s.allBlocks.any fun b => coreDie b.core == d && b.posted?.isSome).map fun d => .ingestion d
  let dispatches : List Instr := ((List.range 4).filter fun d =>
    (s.die d).pool.any fun r => r.state == .ready || r.state == .pending).map fun d => .dispatch d
  let all := points ++ engines ++ copies ++ walks ++ reds ++ saves ++ swaps ++ restores ++ pairs ++ choose ++ reserves ++ dispatches
    ++ ingests ++ windows
  all[s.clock % all.length]?

/-- What comes about where the agenda is empty (log entry 1). -/
def State.defaultPlan (s : State) : Plan :=
  match s.dueAdvance with
  | some i => .event i s
  | none =>
    match s.nextStreet with
    | some t => s.issuePlan t.sid
    | none =>
      match s.bgDone, s.background with
      | false, some i => .event i { s with bgDone := true }
      | _, _ => .event .arithmeticCycle s

/-- What the next step does: the head of the agenda, else the default. With its power removed the package does nothing but
RESET (R352, R360). -/
def State.plan (s : State) : Plan :=
  match s.agenda with
  | .event i :: rest =>
    let s := { s with agenda := rest }
    if s.pkg.powered || i == .reset then .event i s else .over (.next s)
  | .issue sid :: rest =>
    let s := { s with agenda := rest }
    if s.pkg.powered then s.issuePlan sid else .over (.next s)
  | [] => if s.pkg.powered then s.defaultPlan else .over (.next s)

/-- What follows an event: a fresh tick for the free values. -/
def State.afterEvent (s : State) : State := { s with freeTick := s.freeTick + 1 }

end Sys2Proof.Machine
end

