-- ==== Sys2Proof/Machine/Sync.lean ====
section
/-! DEFINITION. The SYNC group: TLWAIT, TLREAD and TLADV (R296), BAR, BARA, BARINIT and BARINV (R263 to R266, R297, R298). -/

namespace Sys2Proof.Machine

/-- The two words of a 64-bit number in every lane. -/
def splat64 (n : Nat) : List SVec := [SVec.splat (BitVec.ofNat 32 n), SVec.splat (BitVec.ofNat 32 (n / 2 ^ 32))]

/-- The lanes that a format E result is written to (R275). -/
def resultMask (u : Bool) (act : Mask) : Mask := if u then Mask.all else act

/-- The issuing path waits as one entry (R61). -/
def State.pathWaits (s : State) (w : Wait) : State :=
  let s := s.leaveEntry s.st.path.mask .wait w
  { s with st := { s.st with stall := none } }

/-- A path whose wait was over at once has not left the runnable state: it keeps its grant (R59). -/
def State.keepGrant (s : State) (before : Street) : State :=
  s.onSt fun t => t.onPath before.sel fun e => if e.reason == .branch then { e with grant := before.path.grant } else e

/-- TLWAIT (R251, R296): the path waits, and resumes at once when VALUE is reached already; n = 0 only reads VALUE. -/
def execTlwait (w : FEQ) (s : State) : Res :=
  s.engineEntry w.u w.x [0, 1] fun s act l =>
  let n := s.arg64 l w.x
  let k := w.q.toNat
  if n = 0 then .next (s.putResult w.u act w.x (splat64 (s.blk.tl k).value)).done
  else .next (((s.pathWaits (.tl k n w.x (resultMask w.u act))).settleBlock s.blk.id false).keepGrant s.st)

/-- TLREAD (R296). -/
def execTlread (w : FE) (s : State) : Res :=
  s.engineEntry w.u w.x [] fun s act _ =>
  .next ((s.putResult w.u act w.x (splat64 (s.blk.tl w.q.toNat).value)).accepted s.st w.la.toNat w.u act
    [w.x.toNat, w.x.toNat + 1])

/-- An unordered advance by a handle (R250, R252): one that names no timeline drops it with ASYNC_TL_GONE. -/
def State.handleAdvance (s : State) (h : Nat) : State :=
  match s.blockOfSid? (BitVec.ofNat 32 h) with
  | some b =>
    if h / 2 ^ 37 = 0 then s.advance b.id (bits h 32 5) (b.id != s.blk.id)
    else s.asyncErr s.blk.ctx 3 0 s.st.sid h
  | none => s.asyncErr s.blk.ctx 3 0 s.st.sid h

/-- Whether the street in focus is the twin that performs nothing for its pair (R368). -/
def State.secondTwin (s : State) : Bool := s.st.pair.any fun p => !p.primary

/-- TLADV (R296): a release at package scope, then an ordered advance of its own timeline or an unordered one by handle. -/
def execTladv (w : FE) (s : State) : Res :=
  s.engineEntry w.u w.x (if w.q.toNat = 32 then [0, 1] else []) fun s act l =>
  s.paired 2 fun s =>
  if s.issueWaits then .next (s.stalled .mem)
  else
    let h := s.arg64 l w.x
    let before := s.st
    let s := s.released
    let s := if w.q.toNat < 32 then
        let r := s.takeNumber w.q.toNat
        r.2.completeOrdered w.q.toNat
          { opCompletion s.blk s.st.core (some (w.q.toNat, r.1)) none none 0 s.st.sid with far := false }
      else if s.secondTwin then s
      else s.handleAdvance h
    .next (s.accepted before w.la.toNat w.u act [])

/-- Where the object of a barrier instruction lies: a scratchpad-space address out of range (R183); a place of this device (R263); on
another device, as an access of the argument lane (R378); or in another street's frame stack or hold table, where unspecified values pass
(R145, R220). -/
inductive BarSite where
  | out
  | here (p : BarPlace)
  | far (l : LaneAcc)
  | strange (pa : Nat) (ms : Bool)

/-- What keeps a barrier instruction from its object (R277, R297): ALIGN, translation with R and W, FMT_PARTIAL. -/
def State.barStop (s : State) (va : Nat) (spad : Bool) : Option Res :=
  if va % 16 != 0 then some (.next (s.takeTrap 3 0 va))
  else if spad then none
  else
    match translate s s.st.core s.blk.ctx va .atomic with
    | .fault f => some (.next (s.service f .mem))
    | .hole pa => some (.fault (.noMemory pa))
    | .ok _ pte _ _ _ => if pteFMT pte != 0 then some (.next (s.takeTrap 4 0 va)) else none

/-- Find the object a barrier instruction names (R277, R297). -/
def State.barAt (s : State) (l : Lane) (x : RegNo) (spad : Bool) (k : State → Nat → BarSite → Res) : Res :=
  let va := s.arg64 l x
  match s.barStop va spad with
  | some r => r
  | none =>
    if spad then
      match spadPlace s s.blk va 16 1 with
      | .spad b off => k s va (.here (.spad b off))
      | _ => k s va .out
    else
      match translate s s.st.core s.blk.ctx va .atomic with
      | .ok pa pte ea base size =>
        if pteRH pte then k s va (.far { lane := l.val, va := va, pa := pa, pte := pte, eaddr := ea, base := base, size := size })
        else k (touch s s.st.core s.blk.ctx .atomic pa pte ea base size) va
          (if s.foreign va pa then .strange pa (pteMS pte) else .here (.global pa))
      | _ => k s va .out

/-- PHASE as the bytes of an object that is not in service hold it (R263, R298). -/
def State.barPhase (s : State) (p : BarPlace) : Nat :=
  match p with
  | .global pa => s.mem.nat (pa + 8) 4
  | .spad b off => match s.block? b with | some k => leNat (s.spadRead k (off + 8) 4) | none => 0
  | .far _ _ => 0

/-- ASYNC_SPAD_RANGE for a barrier out of range (R297). -/
def State.barRange (s : State) (va : Nat) : State := s.asyncErr s.blk.ctx 1 0 s.st.sid va

/-- The barrier in service at a place. -/
def State.barValid? (s : State) (p : BarPlace) : Option Barrier := (s.bar? p).bind fun b => if b.valid then some b else none

/-- STATUS or PHASE of an object that lies in another street's frame stack or hold table, or on a device that cannot be reached: nothing
constrains it (R145; log entries 10 and 24). -/
def State.barFree (s : State) (i : Nat) : Nat := (Config.freeWord s.freeTick (2 ^ 66 + i)).toNat

/-- Unspecified bytes reach an object in another street's frame stack or hold table (R145). -/
def State.barSmear (s : State) (va pa : Nat) (ms : Bool) : State := s.store none pa (s.freeBytes va 16) s.blk.ctx.ctxid ms

/-- Ask a barrier of another device and wait for its answer (R378): its bytes, or none where the device cannot be reached. A second twin
asks nothing, for its primary does (R368). -/
def State.barAsk (s : State) (l : LaneAcc) (req : BarReq) (k : State → Option (List Byte) → Res) : Res :=
  let op (_ : LaneAcc) : RemoteOp := .bar req
  if s.secondTwin then k s none
  else
    match s.remoteReads [l] op true with
    | .wait t => .next (t.stalled .mem)
    | .lost _ => k ((s.remoteTaken [l] op).touchAll .atomic [l]) none
    | .ready => k ((s.remoteTaken [l] op).touchAll .atomic [l]) (some (s.remoteBytes l (op l)))

/-- The compare point of a barrier instruction (R367): a value from outside for a global object, else a barrier. -/
def barCause (spad : Bool) : Nat := if spad then 4 else 6

/-- BAR (R264 to R266, R297, R298). The PHASE of a scratchpad-space address out of range, of which the spec gives none, is 0 (DESIGN CHOICE,
log entry 81). -/
def execBar (w : FEQ) (s : State) : Res :=
  s.engineOn w.u w.x [0, 1] (fun l => s.barStop (s.arg64 l w.x) (w.q.toNat == 33)) fun s act l =>
  s.paired (barCause (w.q.toNat == 33)) fun s =>
  if s.issueWaits then .next (s.stalled .mem)
  else
    s.barAt l w.x (w.q.toNat == 33) fun s va p =>
    let now (s : State) (status phase : Nat) : Res :=
      .next (s.putResult w.u act w.x [SVec.splat (BitVec.ofNat 32 status), SVec.splat (BitVec.ofNat 32 phase)]).done
    match p with
    | .out => now (s.barRange va) 2 0
    | .strange _ _ => now s (s.barFree 0) (s.barFree 1)
    | .far a =>
      if s.secondTwin then now s 0 0
      else
        let (id, t) := (s.released.touchAll .atomic [a]).sendTo s.st.core (homeDevice a.pa)
          [{ id := 0, sid := s.st.sid, lane := a.lane, pa := a.pa, va := va, ctx := s.blk.ctx, op := .bar (.arrive true), strong := true
             reply := none }]
        .next ((t.pathWaits (.bar (.far id a.pa) 0 w.x (resultMask w.u act) none)).barReplies.keepGrant s.st)
    | .here q =>
      match s.barValid? q with
      | some b =>
        if b.aband then now s 1 b.phase
        else .next (((s.released.pathWaits (.bar q b.phase w.x (resultMask w.u act) none)).barArrive b (some s.blk.id)).keepGrant s.st)
      | none => now s 2 (s.barPhase q)

/-- BARA (R264 to R266, R297). -/
def execBara (w : FE) (s : State) : Res :=
  s.engineOn w.u w.x [0, 1] (fun l => s.barStop (s.arg64 l w.x) (w.q.toNat == 33)) fun s act l =>
  s.paired (barCause (w.q.toNat == 33)) fun s =>
  if s.issueWaits then .next (s.stalled .mem)
  else
    s.barAt l w.x (w.q.toNat == 33) fun s va p =>
    let fin (t : State) (status : Nat) : Res :=
      .next ((t.putResult w.u act w.x [SVec.splat (BitVec.ofNat 32 status)]).accepted s.st w.la.toNat w.u act [w.x.toNat])
    match p with
    | .out => fin (s.barRange va) 2
    | .strange _ _ => fin s (s.barFree 0)
    | .far a => s.released.barAsk a (.arrive false) fun s v => fin s (match v with | some v => recNat v 0 4 | none => s.barFree 0)
    | .here q =>
      match s.barValid? q with
      | some b => if b.aband then fin s 1 else fin (s.released.barArrive b (some s.blk.id)) 0
      | none => fin s 2

/-- One side of a quarter as a power of two (R236): a size above 5 is read as 5. -/
def quarterSide (n : Nat) : Nat := Nat.min n 5

/-- Whether two blocks of a district lie in one quarter under QSZ (R236). -/
def sameQuarter (qsz : Nat) (a b : Block) : Bool :=
  a.dx / 2 ^ quarterSide (qsz % 16) == b.dx / 2 ^ quarterSide (qsz % 16)
    && a.dy / 2 ^ quarterSide (qsz / 16) == b.dy / 2 ^ quarterSide (qsz / 16)

/-- The blocks of a barrier's members (R265). -/
def State.barMembers (s : State) (scope qsz : Nat) : List Nat :=
  if scope = 1 then [s.blk.id]
  else ((s.district s.blk).filter fun b => scope == 3 || sameQuarter qsz s.blk b).map (·.id)

/-- BARINIT (R266, R297, R298). -/
def execBarinit (w : FE) (s : State) : Res :=
  s.engineOn w.u w.x [0, 1, 2, 3] (fun l => s.barStop (s.arg64 l w.x) (w.q.toNat == 33)) fun s act l =>
  s.paired (barCause (w.q.toNat == 33)) fun s =>
  s.barAt l w.x (w.q.toNat == 33) fun t va p =>
  let expected := s.arg l w.x 2
  let v := s.arg l w.x 3
  let scope := bits v 0 2
  let qsz := bits v 8 8
  let busy : Bool := match p with | .here q => (t.barValid? q).isSome && t.barWaiters q | _ => false
  let fin (t : State) : Res := .next (t.accepted s.st w.la.toNat w.u act [])
  if busy then .next (t.takeTrap 13 0 va)
  else if expected = 0 || scope = 0 || bits v 2 6 != 0 || bits v 16 16 != 0 then t.taskTrap 0
  else
    match p with
    | .out => fin (t.barRange va)
    | .strange pa ms => fin (t.barSmear va pa ms)
    | .far a => t.barAsk a (.init scope qsz expected) fun t r =>
      match r with
      | some r => if recNat r 0 4 = 1 then .next (t.takeTrap 13 0 va) else fin t
      | none => fin (if t.secondTwin then t else t.asyncErr t.blk.ctx 17 (homeDevice a.pa) t.st.sid va)
    | .here q => fin (t.putBar { place := q, valid := true, aband := false, scope := scope, qsz := qsz
                                 phase := ((t.barValid? q).map (·.phase)).getD 0, expected := expected, arrived := 0
                                 members := t.barMembers scope qsz, off := false, far := false })

/-- BARINV (R266, R297, R298). -/
def execBarinv (w : FE) (s : State) : Res :=
  s.engineOn w.u w.x [0, 1] (fun l => s.barStop (s.arg64 l w.x) (w.q.toNat == 33)) fun s act l =>
  s.paired (barCause (w.q.toNat == 33)) fun s =>
  s.barAt l w.x (w.q.toNat == 33) fun t va p =>
  let fin (t : State) : Res := .next (t.accepted s.st w.la.toNat w.u act [])
  match p with
  | .out => fin (t.barRange va)
  | .strange pa ms => fin (t.barSmear va pa ms)
  | .far a => fin (if t.secondTwin then t else (t.touchAll .atomic [a]).remoteSend [a] (fun _ => .bar .inv) true)
  | .here q =>
    match t.barValid? q with
    | some b => let b' := { b with valid := false, far := false }; fin ((t.putBar b').barResume b' 1 b.phase)
    | none => fin t

end Sys2Proof.Machine
end

