-- ==== Sys2Proof/Machine/Save.lean ====
section
/-! DEFINITION. Saving and restoring blocks (R171 to R176): readiness, the block image, the resources of a core (R163), and the
events of pre-emption and swap-out. -/

namespace Sys2Proof.Machine

/-- The streets of a block in ascending street index. -/
def State.streetsOf (s : State) (b : Block) : List (Option Street) := (List.range b.hdr.streets).map (s.streetAt b.id)

/-- Whether an entry is held at a safe point (R48, R171). -/
def State.atSafePoint (s : State) (b : Block) (t : Street) (e : PathEntry) : Bool :=
  e.reason == .branch && !t.tlevel && (s.safePoint b e.pc).isSome

/-- Whether an entry waits on a colour, TLWAIT or BAR (R171, R175). -/
def PathEntry.parked (e : PathEntry) : Bool :=
  match e.reason, e.wait with
  | .colourPark, _ => true
  | .wait, .colour _ | .wait, .tl _ _ _ _ | .wait, .bar _ _ _ _ _ => true
  | _, _ => false

/-- Whether a long-latency instruction of a street is outstanding (R171): a window stands open, or a remote access stands out. -/
def State.longPending (s : State) (t : Street) : Bool := !t.windows.isEmpty || s.remote.any fun r => r.sid == t.sid

/-- Whether a street is ready for a save (R171). -/
def State.streetReady (s : State) (b : Block) (t : Street) : Bool :=
  match t.life with
  | .exited | .contained | .absent => true
  | .running | .debugStop | .halted => !t.tlevel && t.svc.isNone && !s.longPending t && t.liveEntries.all fun e => e.2.parked || s.atSafePoint b t e.2
  | _ => false

/-- Whether a recorded copy range names a block's scratchpad (R171). -/
def State.rangeNames (s : State) (b : Block) : Bool :=
  (s.core b.core).ranges.any fun r => decide (r.lo < b.spadBase + b.spadBytes) && decide (b.spadBase < r.hi)

/-- Whether a block is ready to be saved (R171). A pre-emption of a block without safe points is made under R172 only (R48). -/
def State.saveReady (s : State) (b : Block) : Bool :=
  !(b.safetab == 0 && b.save.any fun q => q.kind == 1) && ((s.streetsOf b).all fun t => match t with | some t => s.streetReady b t | none => true) && !s.rangeNames b

/-- The live mask of a safe point (R48). -/
def State.liveMask (s : State) (b : Block) (i : Nat) : Nat :=
  (s.virtNat? b.ctx (b.livetab + 8 * i) 8).getD (2 ^ 64 - 1)

/-- REGMASK of a street (R173). -/
def State.regMask (s : State) (b : Block) (kind : Nat) (t : Street) : Nat :=
  let all := 2 ^ b.hdr.regs - 1
  if kind = 3 || !(t.liveEntries.all fun e => s.atSafePoint b t e.2) then all
  else
    (t.liveEntries.foldl (fun m e => m ||| match s.safePoint b e.2.pc with | some i => s.liveMask b i | none => 0) 0) % 2 ^ b.hdr.regs

/-- The bytes of a street vector, lane by lane. -/
def SVec.bytes (v : SVec) : List Byte := (allLanes.map fun l => leBytes 4 (v.lane l).toNat).flatten

/-- A street vector from bytes. -/
def vecOfBytes (m : Memory) (a : Nat) : SVec := SVec.gen fun l => BitVec.ofNat 32 (m.nat (a + 4 * l.val) 4)

/-- Kind, timeline, and address or value of a wait in a street record (R173). Which address stands there, and kind 0 of a TRAVW, are a
DESIGN CHOICE (log entry 80). -/
def Wait.bytes (w : Wait) : List Byte :=
  let r (k tl v : Nat) : List Byte := leBytes 1 k ++ leBytes 1 tl ++ leBytes 6 0 ++ leBytes 8 v
  match w with
  | .none => r 0 0 0
  | .colour va => r 1 0 va
  | .tl k n _ _ => r 2 k n
  | .bar p _ _ _ _ => r 3 0 (match p with | .global pa | .far _ pa => pa | .spad _ off => off)
  | .waita ls _ => r 4 0 (128 * ls.headD 0)
  | .trav _ _ _ _ => r 0 0 0

/-- A street record of 512 bytes (R173). -/
def Street.record (t : Street) (mask : Nat) : List Byte :=
  let head := leBytes 8 t.md.toNat ++ leBytes 4 t.sr.toNat ++ leBytes 1 (b2n t.tlevel) ++ leBytes 3 0 ++ leBytes 8 mask
    ++ List.replicate 40 0
  let paths := (t.entries.map fun e => e.2.bytes).flatten
  let waits := (t.entries.map fun e => e.2.wait.bytes).flatten
  let chans := t.chans.toList.map fun c => match c with | some q => BitVec.ofNat 8 (0x80 + q) | none => 0
  head ++ paths ++ waits ++ chans ++ List.replicate 64 0

/-- The 128 bytes of queue heads and counts, then each queue's entries from its head (R173); the head is written as 0 (DESIGN CHOICE, log
entry 80). -/
def queueArea (b : Block) : List Byte :=
  ((b.queues.toList.map fun q => leBytes 1 0 ++ leBytes 1 q.entries.length ++ leBytes 6 0).flatten)
    ++ (b.queues.toList.map fun q =>
      (q.entries.map SVec.bytes).flatten ++ List.replicate (2048 - 256 * q.entries.length) 0).flatten

/-- The head of an image and the timelines (R173). -/
def Block.imageHead (b : Block) (kind : Nat) : List Byte :=
  leBytes 4 kind ++ leBytes 4 b.hdr.streets ++ leBytes 4 b.hdr.regs ++ leBytes 4 b.spadBytes
    ++ leBytes 4 (b2n (b.hdr.chans != 0)) ++ List.replicate 236 0
    ++ (b.tls.toList.map fun t => leBytes 8 t.value ++ leBytes 8 t.issued).flatten

/-- HSCR0 to HSCR3 and the registers of a mask (R173). -/
def Street.area (t : Street) (mask : Nat) : List Byte :=
  (t.hscr.toList.map SVec.bytes).flatten ++ ((maskRegs mask).map fun r => SVec.bytes (t.regs.toArray.getD r SVec.zero)).flatten

/-- The whole image of a block (R173). -/
def State.imageBytes (s : State) (b : Block) (kind : Nat) : List Byte :=
  let ts := (s.streetsOf b).map fun t => t.map fun t => (t, s.regMask b kind t)
  let recs := (ts.map fun t => match t with | some t => t.1.record t.2 | none => List.replicate 512 0).flatten
  let areas := (ts.map fun t => match t with | some t => t.1.area t.2 | none => List.replicate 1024 0).flatten
  let qs := if b.hdr.chans = 0 then [] else queueArea b ++ List.replicate 128 0
  b.imageHead kind ++ recs ++ areas ++ qs ++ b.spad.readN 0 b.spadBytes

/-- Write the image of a block (R173): the monitors of its lines fire (R186), and barrier objects in service stay as they are (R263). -/
def State.writeImage (s : State) (b : Block) (kind image : Nat) : State :=
  let bs := s.imageBytes b kind
  let keep (m : Memory) (k : Barrier) : Memory := match k.valid, k.place with
    | true, .global o => if image < o + 16 ∧ o < image + bs.length then m.writeN o (s.mem.readN o 16) else m
    | _, _ => m
  { s with mem := s.bars.foldl keep (s.mem.splice image bs) }.wrote image bs.length

/-- Save a block (R172 to R175): its image is written and its slots, granules and scratchpad are free. A post that waits for its record
is squashed, and reserves again after the restore (R304). -/
def State.saveBlock (s : State) (b : Block) (kind image : Nat) : State :=
  let s := s.writeImage b kind image
  let s := s.mapStreets fun t => if t.there && t.block == b.id && !t.over then
    { t with life := if t.life == .running then .saved else t.life, windows := [], stall := none } else t
  let s := s.onBlock b.id fun b => { b with
    life := .saved, save := none, image := image, imageKind := kind, candidate := false, waitSince := none, spad := []
    queues := Vector.replicate 16 { entries := [] }, plq := b.plq.filter fun e => e.rec_.isSome }
  s.onCore b.core fun c => { c with ranges := c.ranges.filter fun r =>
    !(decide (r.lo < b.spadBase + b.spadBytes) && decide (b.spadBase < r.hi)) }

/-- Blocks that take resources of a core (R163). -/
def State.placedOn (s : State) (core : Nat) : List Block := s.allBlocks.filter fun b => b.core == core && b.life == .placed

/-- The free slots of a core in ascending order. -/
def State.freeSlots (s : State) (core : Nat) : List Nat :=
  let used := (s.placedOn core).map fun b => ((s.allStreets.filter fun t => t.block == b.id).map (·.slot))
  (List.range 16).filter fun i => !used.flatten.contains i

/-- Granules a block takes (R163). -/
def KHeader.granules (h : KHeader) : Nat := h.streets * (h.regs / 8) + if h.chans = 0 then 0 else 16

/-- The lowest free aligned range of a core's scratchpad (R163; DESIGN CHOICE lowest, log entry 26). -/
def spadFit (used : List (Nat × Nat)) (n : Nat) : Option Nat :=
  ((List.range 1025).map (· * 256)).find? fun a =>
    decide (a + n ≤ 262144) && used.all fun u => decide (a + n ≤ u.1) || decide (u.2 ≤ a)

/-- The scratchpad ranges that a core's blocks hold (R163). -/
def State.spadUsed (s : State) (core : Nat) : List (Nat × Nat) :=
  ((s.placedOn core).map fun b => (b.spadBase, b.spadBase + b.spadBytes)).filter fun u => decide (u.1 < u.2)

/-- A place for a block on a core besides its pans: slots and scratchpad start, when every amount is free (R164). -/
def State.coreFit (s : State) (core : Nat) (h : KHeader) : Option (List Nat × Nat) :=
  let slots := s.freeSlots core
  let gran := (s.placedOn core).foldl (fun n b => n + b.hdr.granules) 0
  if slots.length < h.streets || 128 < gran + h.granules then none
  else (spadFit (s.spadUsed core) (h.spad * 256)).map fun a => (slots.take h.streets, a)

/-- Whether a wait of a saved entry is met (R174, R175). -/
def waitMet (b : Block) (e : PathEntry) : Bool :=
  match e.reason, e.wait with
  | .branch, _ => true
  | .wait, .tl k n _ _ => decide (n ≤ (b.tl k).value)
  | .wait, .bar _ _ _ _ (some _) => true
  | _, _ => false

/-- Whether a swapped-out block's restore is due (R175). -/
def State.restoreDue (s : State) (b : Block) : Bool :=
  b.life == .saved && b.imageKind == 2
    && (s.streetsOf b).any fun t => match t with | some t => t.liveEntries.any fun e => waitMet b e.2 | none => false

/-- REASON of a code of the save-area layout (R64). -/
def reasonOf (n : Nat) : Reason := match n with | 1 => .branch | 2 => .colourPark | 3 => .wait | _ => .free

/-- What a restored entry waits for: the kind, timeline and value of its image, with what the entry itself kept beside them. A
WAITA is over (R174). -/
def Wait.restored (w : Wait) (kind tl v : Nat) : Wait :=
  match kind, w with
  | 1, _ => .colour v
  | 2, .tl _ _ x m => .tl tl v x m
  | 4, .waita ls _ => .waita ls true
  | _, w => w

/-- Path entry `i` reloaded from a street record at `r` (R64, R173). One that a handover or poison has woken meanwhile stays awake
(R174, R176, R217, R218). -/
def restoreEntry (m : Memory) (r i : Nat) (e : PathEntry) : PathEntry :=
  let p := r + 0x40 + 24 * i
  let q := r + 0x100 + 16 * i
  let old := reasonOf (m.nat (p + 18) 1)
  let woken := e.reason == .branch && (old == .colourPark || (old == .wait && m.nat q 1 == 1))
  { pc := BitVec.ofNat 64 (m.nat p 8), mask := BitVec.ofNat 64 (m.nat (p + 8) 8), depth := m.nat (p + 16) 2
    reason := if woken then .branch else old, grant := m.nat (p + 19) 1, age := m.nat (p + 20) 2
    wait := if woken then .none else e.wait.restored (m.nat q 1) (m.nat (q + 1) 1) (m.nat (q + 8) 8) }

/-- A street reloaded from its image (R173, R174). -/
def restoreStreet (m : Memory) (b : Block) (clock : Nat) (slot i : Nat) (t : Street) : Street :=
  let r := b.image + 0x300 + 0x200 * i
  let mask := imageMask m b.image i
  let area := b.image + imageStreetOff m b.image b.hdr.streets i
  let place (k : Nat) : Option Nat := (maskRegs mask).findIdx? (· == k)
  { t with
    life := if t.life == .saved then .running else t.life
    slot := slot, placed := clock, lastSel := none, ready := clock
    md := BitVec.ofNat 64 (m.nat r 8), sr := BitVec.ofNat 32 (m.nat (r + 8) 4) &&& srMask, tlevel := bit (m.nat (r + 12) 1) 0
    hscr := Vector.ofFn fun j => vecOfBytes m (area + 256 * j.val)
    regs := Vector.ofFn fun k => match place k.val with | some j => vecOfBytes m (area + 1024 + 256 * j) | none => SVec.zero
    paths := Vector.ofFn fun k => restoreEntry m r k.val (t.paths.get k)
    chans := Vector.ofFn fun c => let v := m.nat (r + 0x180 + c.val) 1; if bit v 7 then some (v % 16) else none }

/-- The copies in flight that write into a block's scratchpad have their ranges recorded where it lies now, those that were accepted
while it was saved among them (R176, R184). -/
def State.rangesBack (s : State) (b : Block) : State :=
  s.copies.foldl (fun s c =>
    if c.kind = .cpy ∨ c.kind = .cpyred then
      s.recordRanges c.id ((copyRanges s ((s.block? c.block).getD Block.absent) c.desc).filter fun g =>
        g.1 == b.core && decide (g.2.1 < b.spadBase + b.spadBytes) && decide (b.spadBase < g.2.2))
    else s) s

/-- Reload a saved block onto its core (R174). -/
def State.restoreBlock (s : State) (b : Block) (slots : List Nat) (base : Nat) : State :=
  let m := s.mem
  let q0 := b.image + imageStreetOff m b.image b.hdr.streets b.hdr.streets
  let sp := b.image + imageSpadOff m b.image b.hdr
  let s := s.mapStreets fun t => if t.there && t.block == b.id then
    restoreStreet m b s.clock (slots.getD t.sindex 0) t.sindex t else t
  let s := (s.freshWords b base b.sids).onBlock b.id fun b => { b with
    life := .placed, spadBase := base
    spad := (m.window sp b.spadBytes).map fun c => (c.1 - sp, c.2)
    queues := if b.hdr.chans = 0 then b.queues else Vector.ofFn fun i =>
      { entries := (List.range (Nat.min (m.nat (q0 + 8 * i.val + 1) 1) 8)).map fun j =>
          vecOfBytes m (q0 + 128 + 2048 * i.val + 256 * j) }
    tls := Vector.ofFn fun k => { b.tls.get k with
      value := m.nat (b.image + 0x100 + 16 * k.val) 8, issued := m.nat (b.image + 0x108 + 16 * k.val) 8 } }
  ((match s.block? b.id with | some k => s.rangesBack k | none => s)).settleBlock b.id true

/-- PREEMPTION_REQUEST (R171, R176): a draining block saves nothing; an image that is not 256-byte aligned is no request. -/
def execPreemptionRequest (block image : Nat) (s : State) : Res :=
  match s.block? block with
  | some b =>
    if b.life == .placed && b.save.isNone && image % 256 == 0 then
      .next (s.onBlock block fun b => { b with save := some { kind := 1, image := image, since := s.clock } })
    else .next s
  | none => .next s

/-- The block of the other twin, when a block is paired. -/
def State.twinOf (s : State) (b : Block) : Option Block := b.twin.bind s.block?

/-- Whether a save may be made now, as far as a pair is concerned: both twins, or neither (R368). -/
def State.twinSaves (s : State) (b : Block) (forced : Bool) : Bool :=
  match s.twinOf b with
  | some k => k.save.isSome && (forced || s.saveReady k)
  | none => true

/-- Make the save that a block has been asked for, and its twin's (R171, R172, R368). -/
def State.makeSave (s : State) (b : Block) (forced : Bool) : State :=
  let one (s : State) (b : Block) : State := match b.save with
    | some q => s.saveBlock b (if forced then 3 else q.kind) q.image
    | none => s
  match s.twinOf b with
  | some k => one (one s b) k
  | none => one s b

/-- BLOCK_SAVE (R171, R173). -/
def execBlockSave (block : Nat) (s : State) : Res :=
  match s.block? block with
  | some b =>
    if b.life == .placed && b.save.isSome && s.saveReady b && !b.saveLate s.clock && s.twinSaves b false then .next (s.makeSave b false) else .next s
  | none => .next s

/-- FORCED_SAVE (R172): a request that the block did not meet in 65,536 cycles; every older long-latency instruction completes first. -/
def execForcedSave (block : Nat) (s : State) : Res :=
  match s.block? block with
  | some b =>
    let waits := (s.streetsOf b).any fun t => t.any fun t => t.life == .running && s.longPending t
    if b.life == .placed && b.saveLate s.clock && !waits && s.twinSaves b true then .next (s.makeSave b true)
    else .next s
  | none => .next s

/-- SWAP_CANDIDATE (R175). -/
def execSwapCandidate (block : Nat) (s : State) : Res :=
  match s.block? block with
  | some b =>
    match b.waitSince with
    | some c => if b.life == .placed && decide (c + 4096 < s.clock) then
        .next (s.onBlock block fun b => { b with candidate := true }) else .next s
    | none => .next s
  | none => .next s

/-- RESTORE (R174, R175): of a block swapped out when a wait is met; the resident OS orders that of another. It waits while its core would
hold more than 16 ranges of copies (R184). -/
def execRestore (block : Nat) (s : State) : Res :=
  match s.block? block with
  | some b =>
    if b.life == .saved && (b.imageKind != 2 || s.restoreDue b) then
      match s.coreFit b.core b.hdr with
      | some (slots, base) =>
        let t := s.restoreBlock b slots base
        .next (if (t.core b.core).ranges.length ≤ 16 then t else s)
      | none => .next s
    else .next s
  | none => .next s

end Sys2Proof.Machine
end

