-- ==== Sys2Proof/Machine/CopyEvents.lean ====
section
/-! DEFINITION. The work of the copy engines and its completion (R259 to R262, R292 to R294, R299 to R301): a whole operation
is performed in one step, and an attempt that meets a translation fault has no other effect. -/

namespace Sys2Proof.Machine

/-- One element on its way: its bytes on a plain place, or its f32 bytes from a formatted one, and whether its source is
uncorrectable. -/
structure CElem where
  bytes : List Byte
  ecc   : Bool
deriving DecidableEq, Repr

/-- What a copy has done: bytes of destination elements written, the lowest scratchpad-space address out of range, and whether
uncorrectable data, or an over-full SMETA group, was met. -/
structure CopyOut where
  bytes : Nat
  out   : Option Nat
  ecc   : Bool
  full  : Bool
deriving DecidableEq, Repr

/-- Nothing done. -/
def CopyOut.zero : CopyOut := { bytes := 0, out := none, ecc := false, full := false }

/-- The lower of two addresses, where there is one. -/
def lowest (a b : Option Nat) : Option Nat :=
  match a, b with
  | some x, some y => some (Nat.min x y)
  | some x, none => some x
  | none, y => y

/-- Join what two parts of a copy have done. -/
def CopyOut.join (a b : CopyOut) : CopyOut :=
  { bytes := a.bytes + b.bytes, out := lowest a.out b.out, ecc := a.ecc || b.ecc, full := a.full || b.full }

/-- Cut a list into pieces of n. -/
def chunks {α : Type} (n : Nat) : Nat → List α → List (List α)
  | 0, _ => []
  | k + 1, xs => xs.take n :: chunks n k (xs.drop n)

/-- The pages of some bytes are all plain (R293). -/
def checkPlain (w : EngId) (va n : Nat) (acc : Acc) : EngM Unit :=
  (sectorParts va n).forM fun p => do
    let q ← engLeaf w p.1 acc
    if pteFMT q != 0 then throw (.bad 4)

/-- The leaf entry of the page on which element `k` of a row lies: element k of a row of a format lies at its container's place (R77,
R293), so the format is the one whose place for it is a page of that format, the plain one first. -/
def elemLeaf (s : State) (w : EngId) (z row k : Nat) (acc : Acc) : Option Nat :=
  (List.range 11).findSome? fun f =>
    match translate s w.agent w.ctx (wrap64 (row + if f = 0 then k * z else elemByte f k)) acc with
    | .ok _ pte _ _ _ => if pteFMT pte = f then some pte else none
    | _ => none

/-- Elements of a row that lie on pages of one FMT and BL: the leaf entry of the first, which one that does not translate lacks, its
index and how many they are. -/
structure ElemPart where
  pte : Option Nat
  lo  : Nat
  n   : Nat
deriving DecidableEq, Repr

/-- The FMT of a leaf entry, and its BL where the format has blocks. -/
def pageKey (pte : Option Nat) : Option (Nat × Nat) := pte.map fun p => (pteFMT p, if fmtBfp (pteFMT p) then pteBL p else 0)

/-- Put an element before the parts that follow it. -/
def ElemPart.cons (pte : Option Nat) (k : Nat) : List ElemPart → List ElemPart
  | p :: ps => if pageKey p.pte == pageKey pte then { pte := pte, lo := k, n := p.n + 1 } :: ps else { pte := pte, lo := k, n := 1 } :: p :: ps
  | [] => [{ pte := pte, lo := k, n := 1 }]

/-- Elements [lo, lo + n) of a row, each by the page that it lies on (R293): one part where the row, whatever its format, stays within
256 KiB, the smallest page (R314). -/
def elemParts (s : State) (w : EngId) (z row lo n : Nat) (acc : Acc) : List ElemPart :=
  if n = 0 then []
  else if row / 2 ^ 18 = (row + (lo + n) * Nat.max z 4 - 1) / 2 ^ 18 then [{ pte := elemLeaf s w z row lo acc, lo := lo, n := n }]
  else (List.range' lo n).foldr (fun k ps => ElemPart.cons (elemLeaf s w z row k acc) k ps) []

/-- Where a part of a row begins: at the container of its first element (R77, R293). -/
def ElemPart.start (p : ElemPart) (z row : Nat) : Nat :=
  let f := match p.pte with | some q => pteFMT q | none => 0
  wrap64 (row + if f = 0 then p.lo * z else elemByte f p.lo)

/-- The leaf entry of a part, or the fault of its first element. -/
def ElemPart.leaf (p : ElemPart) (w : EngId) (z row : Nat) (acc : Acc) : EngM Nat :=
  match p.pte with
  | some q => pure q
  | none => engLeaf w (p.start z row) acc

/-- Elements [lo, lo + n) of a source row in global memory, and whether one of their pages is formatted (R293). A record of another TYPE
than f32 on a formatted page refuses the copy with reason 4 (DESIGN CHOICE, log entry 83). -/
def srcGlobal (w : EngId) (l : Layout) (row lo n : Nat) : EngM (List CElem × Bool) := do
  let z := typeBytes l.type
  let rs ← (elemParts (← get) w z row lo n .read).mapM fun p => do
    let pte ← p.leaf w z row .read
    if pteFMT pte = 0 then
      let start := wrap64 (row + p.lo * z)
      checkPlain w start (p.n * z) .read
      let bs ← engRead w start (p.n * z)
      pure ((chunks z p.n bs).map fun c => ({ bytes := c.map (·.1), ecc := c.any fun b => b.2.isSome } : CElem), false)
    else
      if l.type != 2 then throw (.bad 4)
      let r ← fetchAs w pte row p.lo p.n
      pure (r.elems.toList.map fun e => ({ bytes := leBytes 4 (decodeElem r.fmt e).1, ecc := e.ecc.isSome } : CElem), true)
  pure ((rs.map (·.1)).flatten, rs.any (·.2))

/-- The uncorrectable SRAM word of a place that an engine has met: counted at a scratchpad's core, with a record of KIND 3 on its die
(R346, R362, R365). -/
def State.sramMet (s : State) (ctx : CtxDesc) (p : Place) : State :=
  let core (b : Nat) : Nat := ((s.block? b).map (·.core)).getD 0
  let rec_ (b : Nat) : State := s.machineCheck (coreDie (core b)) 3 ctx.ctxid 0 0xFFFFFFFF 0
  match p with
  | .spad b _ => (rec_ b).onCore (core b) fun c => { c with uecnt := satAdd 16 c.uecnt 1 }
  | .regs b _ | .pans b _ => rec_ b
  | .out => s

/-- One element of a source in scratchpad space; out of range it reads zero (R183). -/
def srcSpad (s : State) (b : Block) (a z : Nat) : CElem × Option Nat :=
  match spadPlace s b a z 0 with
  | .out => ({ bytes := leBytes z 0, ecc := false }, some a)
  | p => ({ bytes := s.readPlace p z, ecc := match s.spadState p z false with | .ecc | .recon => true | _ => false }, none)

/-- A source row of `n` elements from coordinate c0 on: elements outside the tensor are zero of the type (R294). -/
def srcRow (w : EngId) (blk : Block) (l : Layout) (c0 : Int) (cs : List Int) (n : Nat) :
    EngM (List CElem × Bool × Option Nat) := do
  let z := typeBytes l.type
  let nil (k : Nat) : List CElem := List.replicate k { bytes := leBytes z 0, ecc := false }
  let inside := (cs.zip (l.sizes.drop 1)).all fun p => decide (0 ≤ p.1) && decide (p.1 < (p.2 : Int))
  let lo := Nat.min n (-c0).toNat
  let hi := Nat.min n ((nth l.sizes 0 : Int) - c0).toNat
  if !inside || hi ≤ lo then pure (nil n, false, none)
  else
    let row := l.row cs
    let first := (c0 + (lo : Int)).toNat
    if l.space then
      let s ← get
      let as := (List.range (hi - lo)).map fun i => wrap64 (row + (first + i) * z)
      let es := as.map fun a => srcSpad s blk a z
      set ((as.zip es).foldl (fun t e => if e.2.1.ecc then t.sramMet w.ctx (spadPlace s blk e.1 z 0) else t) s)
      pure (nil lo ++ es.map (·.1) ++ nil (n - hi), false, es.foldl (fun a e => lowest a e.2) none)
    else
      let r ← srcGlobal w l row first (hi - lo)
      pure (nil lo ++ r.1 ++ nil (n - hi), r.2, none)

/-- Poison the destination sectors of elements whose source is uncorrectable (R261). -/
def poisonElems (w : EngId) (row : Nat) (c : Nat) (es : List Bool) : EngM Unit :=
  (es.zipIdx).forM fun e => do
    if e.1 then
      let x ← engXlate w (wrap64 (row + e.2 * c / 8)) .write
      modify fun s => if pteRH x.2.1 then s else { s with poison := addNew s.poison (sectorOf x.1) }

/-- The destination of a part of a row in global memory is checked before anything is written (R294): its page, 0 where plain, and BL. One
that ends inside a block, as an extent may where the box does not, refuses the copy with reason 4 (DESIGN CHOICE, log entry 84). -/
def dstCheck (w : EngId) (l : Layout) (row n : Nat) : EngM (Nat × Nat) := do
  if n = 0 then pure (0, 0)
  else
    let pte ← engLeaf w row .write
    if pteFMT pte = 0 then
      checkPlain w row (n * typeBytes l.type) .write
      pure (0, 0)
    else if l.type != 2 then throw (.bad 4)
    else checkRow w row n

/-- Write a row to global memory (R189, R293). -/
def dstGlobal (w : EngId) (l : Layout) (row : Nat) (f : Nat × Nat) (es : List CElem) : EngM CopyOut := do
  let ecc := es.map (·.ecc)
  if f.1 = 0 then
    let bs := (es.map (·.bytes)).flatten
    engWrite w row bs
    poisonElems w row (8 * typeBytes l.type) ecc
    pure { CopyOut.zero with bytes := bs.length, ecc := ecc.any id }
  else
    let _ ← storeRow w row f.1 f.2 (es.map fun e => leNat e.bytes)
    poisonElems w row (fmtC f.1) ecc
    pure { CopyOut.zero with bytes := es.length * fmtC f.1 / 8, ecc := ecc.any id }

/-- Make the next reader of a place meet an uncorrectable word, anywhere in its 32-byte sector (R261); the words of a saved block stand
in its image (R173). -/
def State.breakPlace (s : State) (p : Place) : State :=
  let put (ls : List ErrLoc) : State := { s with upsets := ls.map (·, 0) ++ s.upsets.filter fun u => !ls.contains u.1 }
  match p with
  | .spad b off =>
    match s.spadPhys b (off / 32 * 32) with
    | some x => put ((List.range 4).map fun i => .spad x.1 (x.2 / 8 + i))
    | none =>
      match s.block? b with
      | some k => { s with poison := addNew s.poison (sectorOf (s.imageSpad k off)) }
      | none => s
  | .pans b off => put ((List.range 4).map fun i => .pan b (off / 32 * 4 + i))
  | .regs b off =>
    match ((s.block? b).filter fun k => k.life == .saved).bind fun k => s.imageReg k off, s.streetAt b (off / 4 / 4096) with
    | some a, _ => { s with poison := addNew s.poison (sectorOf a) }
    | none, some t => put ((List.range 8).map fun i => .reg t.sid (off / 4 / 64 % 64) (off / 32 * 8 % 64 + i))
    | none, none => s
  | .out => s

/-- Bytes arrive at a place of a block, of a saved block in its image (R174); of one that has ended they are dropped (R261). -/
def State.copyPut (s : State) (p : Place) (bs : List Byte) : Option State :=
  let put (b : Nat) : Option State :=
    match (s.block? b).map (·.life), p with
    | some BlockLife.placed, _ | some BlockLife.saved, _ | some BlockLife.draining, .pans _ _ => some (s.writePlace p bs)
    | _, _ => none
  match p with
  | .spad b _ | .regs b _ | .pans b _ => put b
  | .out => none

/-- Write a row to scratchpad space, as a whole where it can, else element by element; what is out of range is dropped
(R183, R261). -/
def dstSpad (s : State) (blk : Block) (l : Layout) (row : Nat) (es : List CElem) : State × CopyOut :=
  let z := typeBytes l.type
  let bs := (es.map (·.bytes)).flatten
  let whole := match spadPlace s blk row bs.length 2 with
    | .out => none
    | p => s.copyPut p bs
  let addr (e : CElem × Nat) : Nat := wrap64 (row + e.2 * z)
  let r : State × CopyOut := match whole with
    | some t => (t, { CopyOut.zero with bytes := bs.length })
    | none => (es.zipIdx).foldl (fun (r : State × CopyOut) e =>
        match r.1.copyPut (spadPlace r.1 blk (addr e) z 2) e.1.bytes with
        | some t => (t, r.2.join { CopyOut.zero with bytes := z })
        | none => (r.1, r.2.join { CopyOut.zero with out := some (addr e) })) (s, CopyOut.zero)
  (r.1, { r.2 with ecc := es.any (·.ecc) })

/-- Once every row is written, the next readers of the destination sectors of uncorrectable source data in scratchpad space meet an
uncorrectable word (R261). -/
def breakRow (s : State) (blk : Block) (l : Layout) (row : Nat) (es : List CElem) : State :=
  let z := typeBytes l.type
  (es.zipIdx.filter (·.1.ecc)).foldl (fun t e => t.breakPlace (spadPlace t blk (wrap64 (row + e.2 * z)) z 2)) s

/-- One combination of CPYRED on elements of a TYPE (R262): RED 0 ADD, 1 MIN, 2 MAX, 3 AND, 4 OR. -/
def combine (type red a b : Nat) : Nat :=
  let f := if type = 10 then f16 else if type = 11 then bf16 else f32
  match red with
  | 0 => if type ≤ 1 then (a + b) % 2 ^ 32 else (f.add 0 false false a b).1
  | 1 | 2 =>
    if type = 0 then
      let le := decide ((BitVec.ofNat 32 a).toInt ≤ (BitVec.ofNat 32 b).toInt)
      if le = (red == 1) then a else b
    else if type = 1 then (if red = 1 then Nat.min a b else Nat.max a b)
    else (f.minMax false (red == 2) a b).1
  | 3 => a &&& b
  | _ => a ||| b

/-- Whether a CPYRED of a TYPE and RED is refused (R262). -/
def redRefused (type red : Nat) : Bool :=
  decide (12 ≤ type) || (decide (2 ≤ type) && decide (3 ≤ red))

/-- Combine a row into plain elements of global memory (R262). Data that is uncorrectable stays so. -/
def redPlain (w : EngId) (l : Layout) (red row : Nat) (es : List CElem) : EngM CopyOut := do
  let z := typeBytes l.type
  let old ← engRead w row (es.length * z)
  let now := (chunks z es.length old).map fun c => ({ bytes := c.map (·.1), ecc := c.any fun b => b.2.isSome } : CElem)
  dstGlobal w l row (0, 0) ((es.zip now).map fun p =>
    { bytes := leBytes z (combine l.type red (leNat p.2.bytes) (leNat p.1.bytes)), ecc := p.1.ecc || p.2.ecc })

/-- One combination of CPYRED of an f32 value into an element of an f16 or bf16 page: rounded once, in the format (R262). -/
def combineHalf (g : Fmt) (red old x : Nat) : Nat :=
  if red = 0 then
    if g.isNan old then g.quiet old
    else if f32.isNan x then (f32.convert g 0 false x).1
    else (g.sum 0 false [g.num old, f32.num x]).1
  else (f32.convert g 0 false (f32.minMax false (red == 2) (g.convert f32 0 false old).1 x).1).1

/-- Combine a row into the elements of an f16 or bf16 page (R262). -/
def redHalf (w : EngId) (red row : Nat) (f : Nat × Nat) (es : List CElem) : EngM CopyOut := do
  let g := fmtFloat f.1
  let old ← fetchRun w row 0 es.length
  let rs := (es.zip old.elems.toList).map fun p =>
    (combineHalf g red p.2.raw (leNat p.1.bytes), p.1.ecc || p.2.ecc.isSome)
  engWrite w row (packBits 16 (rs.map (·.1)))
  poisonElems w row 16 (rs.map (·.2))
  pure { CopyOut.zero with bytes := 2 * rs.length, ecc := rs.any (·.2) }

/-- Whether R84 rejects the scale entry of a block of a page's leaf entry, or finds it on a formatted page, among those of elements
[first, first + n) of a row, wherever they translate (R84, R294). -/
def blocksRejected (s : State) (w : EngId) (pte row : Nat) (first : Int) (n : Nat) (acc : Acc) : Bool :=
  fmtBfp (pteFMT pte) && n != 0 &&
    let c := fmtC (pteFMT pte)
    let u := 2 ^ blShift (pteFMT pte) (pteBL pte)
    let lo := addrPlus row (first * c / 8)
    (List.range ((lo % u + (n * c + 7) / 8 + u - 1) / u)).any fun i =>
      let va := wrap64 (lo / u * u + i * u)
      match translate s w.agent w.ctx va acc with
      | .ok _ q _ _ _ => fmtBfp (pteFMT q) &&
        match scaleAddr s w.agent w.ctx q va with
        | none => true
        | some sa => match translate s w.agent w.ctx sa acc with | .ok _ x _ _ _ => pteFMT x != 0 | _ => false
      | _ => false

/-- Whether that holds of a block of `n` elements of a row of a box from element `first` on, elements outside the tensor among them, each
by its own page (R293, R294). -/
def rowRejected (s : State) (w : EngId) (row : Nat) (first : Int) (n : Nat) (acc : Acc) : Bool :=
  let before := Nat.min n (-first).toNat
  ((elemLeaf s w 4 row 0 acc).any fun pte => blocksRejected s w pte row first before acc)
    || (elemParts s w 4 row first.toNat (n - before) acc).any fun p => p.pte.any fun pte => blocksRejected s w pte row p.lo p.n acc

/-- Whether a copy between global places is refused for a block of its source or destination box, or for a box that does not start and end
on block boundaries of its destination along dimension 0 (R294). -/
def boxRejected (s : State) (w : EngId) (src dst : Layout) (coords : List Int) : Bool :=
  let n := nth src.boxes 0
  let whole := boxRows src { dst with sizes := src.boxes }
  let at_ (b : List Nat) : List Int := b.map fun (x : Nat) => (x : Int)
  let odd (row : Nat) : Bool := (elemParts s w (typeBytes dst.type) row 0 n .write).any fun p => p.pte.any fun pte =>
    let u := 2 ^ blShift (pteFMT pte) (pteBL pte)
    fmtBfp (pteFMT pte) && (p.start (typeBytes dst.type) row % u != 0 || p.n * fmtC (pteFMT pte) % (8 * u) != 0)
  (!dst.space && whole.any fun b => odd (dst.row (at_ b)) || rowRejected s w (dst.row (at_ b)) 0 n .write)
    || (!src.space && whole.any fun b =>
      rowRejected s w (src.row (((coords.drop 1).zip (at_ b)).map fun p => p.1 + p.2)) (coords.headD 0) n .read)

/-- A row of a copy, or a part of one on pages of one format, ready to be written: where, on which page, and its elements. -/
structure RowPlan where
  row   : Nat
  page  : Nat × Nat
  elems : List CElem
  out   : Option Nat

/-- Read and check every row of a copy before anything is written (R294): the rows, or the reason of a refusal. Places whose TYPEs do not
meet, a formatted one opposite a plain record of another TYPE than f32 among them, refuse it with reason 3 (DESIGN CHOICE, log entries
23 and 83). -/
def planCopy (w : EngId) (blk : Block) (kind : CopyKind) (r : List Byte) (coords : List Int) :
    EngM (Except Nat (List RowPlan)) := do
  let src := layoutAt r 0
  let dst := layoutAt r 0x40
  let red := bits (recNat r 0x98 8) 0 3
  let n := rowLen src dst
  if kind = .cpyred ∧ (dst.space ∨ redRefused dst.type red ∨ dst.type ≠ src.type) then pure (.error 8)
  else if boxRejected (← get) w src dst coords then pure (.error 4)
  else
    let c0 := coords.headD 0
    let rows ← (if n = 0 then [] else boxRows src dst).mapM fun b => do
      let cs := (coords.drop 1).zip (b.map fun (x : Nat) => (x : Int)) |>.map fun p => p.1 + p.2
      let e ← srcRow w blk src c0 cs n
      let row := dst.row (b.map fun (x : Nat) => (x : Int))
      let z := typeBytes dst.type
      let s ← get
      let parts := if dst.space then [{ pte := none, lo := 0, n := n }] else elemParts s w z row 0 n .write
      (parts.zipIdx).mapM fun p => do
        let at_ := p.1.start z row
        let page ← if dst.space then pure (0, 0) else dstCheck w dst at_ p.1.n
        pure (({ row := at_, page := page, elems := (e.1.drop p.1.lo).take p.1.n, out := if p.2 = 0 then e.2.2 else none } : RowPlan),
          e.2.1)
    let rows := rows.flatten
    let ps := rows.map (·.1)
    if kind = .cpyred ∧ ps.any (fun p => p.page.1 != 0 && (fmtBfp p.page.1 || decide (3 ≤ red))) then pure (.error 8)
    else if rows.any (fun q => (q.2 && dst.type != 2) || (q.1.page.1 != 0 && src.type != 2)
        || (!q.2 && q.1.page.1 = 0 && src.type != dst.type)) then pure (.error 3)
    else pure (.ok ps)

/-- Perform a copy (R294): the reason of a refusal, or what it did. -/
def runCopy (w : EngId) (blk : Block) (kind : CopyKind) (r : List Byte) (coords : List Int) : EngM (Except Nat CopyOut) := do
  let dst := layoutAt r 0x40
  let red := bits (recNat r 0x98 8) 0 3
  match ← planCopy w blk kind r coords with
  | .error n => pure (.error n)
  | .ok ps =>
    let out ← ps.foldlM (fun (acc : CopyOut) p => do
      let o ← if dst.space then do
            let q := dstSpad (← get) blk dst p.row p.elems
            set q.1
            pure q.2
          else if kind = .cpyred then
            (if p.page.1 = 0 ∨ p.page.1 = 10 then redPlain w dst red p.row p.elems else redHalf w red p.row p.page p.elems)
          else dstGlobal w dst p.row p.page p.elems
      pure (acc.join (o.join { CopyOut.zero with out := p.out }))) CopyOut.zero
    if dst.space then modify fun s => ps.foldl (fun t p => breakRow t blk dst p.row p.elems) s
    pure (.ok out)

/-- STEPS, PATTERN and ROWS of a SALN or SMETA descriptor (R299). -/
def salSteps (r : List Byte) : Nat := bits (recNat r 0x38 8) 0 12
@[inherit_doc salSteps] def salPattern (r : List Byte) : Nat := bits (recNat r 0x38 8) 12 2
@[inherit_doc salSteps] def salRows (r : List Byte) : Nat := bits (recNat r 0x38 8) 16 16

/-- |bf16_rne(w × g)| as a number to rank by (R300): a NaN ranks above every number. -/
def saliency (a b : Nat) : Nat :=
  if f32.isNan a || f32.isNan b then 2 ^ 16
  else
    match (f32.num a).mul (f32.num b) with
    | none => 2 ^ 16
    | some (.inf _) => bf16.inf false
    | some (.fin _ m e) => (bf16.round 0 false false m e).1

/-- The kept indices of a group: those whose rank, by saliency and then by lower index, is below n (R300). -/
def keepLargest (n : Nat) (ss : List Nat) : List Nat :=
  (List.range ss.length).filter fun i =>
    decide (((List.range ss.length).filter fun j =>
      decide (nth ss i < nth ss j) || (nth ss j == nth ss i && decide (j < i))).length < n)

/-- The kept indices of a group under SMETA, and whether more than n elements are nonzero (R301). -/
def keepNonzero (n : Nat) (nz : List Bool) : List Nat × Bool :=
  let on := (List.range nz.length).filter fun i => nz.getD i false
  let off := (List.range nz.length).filter fun i => !nz.getD i false
  let sel := (on ++ off.take (n - on.length)).take n
  ((List.range nz.length).filter fun i => sel.contains i, decide (n < on.length))

/-- An element of an input of SALN or SMETA: its f32 bits, whether it counts as nonzero (R81), and whether it is uncorrectable. -/
structure SalElem where
  val : Nat
  nz  : Bool
  ecc : Bool
deriving DecidableEq, Repr

/-- The elements of an input row of SALN or SMETA, each decoded by its own page (R78, R299). -/
def salFetch (w : EngId) (row n : Nat) : EngM (List SalElem) := do
  let rs ← (elemParts (← get) w 4 row 0 n .read).mapM fun p => do
    let r ← fetchAs w (← p.leaf w 4 row .read) row p.lo p.n
    pure (r.elems.toList.map fun e =>
      ({ val := (decodeElem r.fmt e).1, nz := elemNonzero r.fmt e, ecc := e.ecc.isSome } : SalElem))
  pure rs.flatten

/-- Bits of an element of a page format as it is written. -/
def pageBits (f : Nat × Nat) : Nat := if f.1 = 0 then 32 else fmtC f.1

/-- A part of an output row on pages of one format: where, its first element and count, and its page. -/
structure SalPart where
  row  : Nat
  lo   : Nat
  n    : Nat
  page : Nat × Nat

/-- The parts of an output row, checked before anything is written (R294, R299). -/
def salParts (w : EngId) (row n : Nat) : EngM (List SalPart) := do
  (elemParts (← get) w 4 row 0 n .write).mapM fun p => do
    let at_ := p.start 4 row
    let f ← checkRow w at_ p.n
    pure { row := at_, lo := p.lo, n := p.n, page := f }

/-- Write an output row of SALN or SMETA in its pages' formats, poisoned where its inputs were uncorrectable. -/
def salWrite (w : EngId) (ps : List SalPart) (vs : List (Nat × Bool)) : EngM Nat :=
  ps.foldlM (fun k p => do
    let xs := (vs.drop p.lo).take p.n
    let _ ← storeRow w p.row (if p.page.1 = 0 then 10 else p.page.1) p.page.2 (xs.map (·.1))
    poisonElems w p.row (pageBits p.page) (xs.map (·.2))
    pure (k + xs.length * pageBits p.page / 8)) 0

/-- One row of SALN (R300). -/
def salnRow (w : EngId) (r : List Byte) (i : Nat) (ps : List SalPart) : EngM CopyOut := do
  let n := 256 * salSteps r
  let m := patM (salPattern r)
  let ws ← salFetch w (wrap64 (recNat r 0 8 + i * recNat r 8 8)) n
  let gs ← salFetch w (wrap64 (recNat r 0x10 8 + i * recNat r 0x18 8)) n
  let groups := (chunks m (n / m) ws).zip (chunks m (n / m) gs)
  let vs := (groups.map fun g =>
    let keep := keepLargest (patN (salPattern r)) ((g.1.zip g.2).map fun p => saliency p.1.val p.2.val)
    let bad := (g.1 ++ g.2).any (·.ecc)
    g.1.zipIdx.map fun x => (if keep.contains x.2 then x.1.val else 0, bad)).flatten
  let k ← salWrite w ps vs
  pure { CopyOut.zero with bytes := k, ecc := vs.any (·.2) }

/-- One row of SMETA: the kept elements, and their indices in the layout of R282 (R301). -/
def smetaRow (w : EngId) (r : List Byte) (i : Nat) (ps : List SalPart) : EngM CopyOut := do
  let n := 256 * salSteps r
  let pat := salPattern r
  let m := patM pat
  let ws ← salFetch w (wrap64 (recNat r 0 8 + i * recNat r 8 8)) n
  let raw := chunks m (n / m) ws
  let kept := raw.map fun g => keepNonzero (patN pat) (g.map (·.nz))
  let vs := ((raw.zip kept).map fun p =>
    let bad := p.1.any (·.ecc)
    p.2.1.map fun k => ((p.1.getD k ⟨0, false, false⟩).val, bad)).flatten
  let fields := kept.map fun k => (k.1.zipIdx).foldl (fun acc x => acc + x.1 * 2 ^ (patIW pat * x.2)) 0
  let mb := salSteps r * patMB pat
  let k ← salWrite w ps vs
  engWrite w (wrap64 (recNat r 0x30 8 + i * mb)) (packBits (patN pat * patIW pat) fields)
  pure { bytes := k + mb, out := none, ecc := vs.any (·.2), full := kept.any (·.2) }

/-- Perform SALN or SMETA: every output row is checked first (R299). -/
def runSal (w : EngId) (meta_ : Bool) (r : List Byte) : EngM CopyOut := do
  let n := 256 * salSteps r
  let len := if meta_ then n * patN (salPattern r) / patM (salPattern r) else n
  let rows := List.range (salRows r)
  let fs ← rows.mapM fun i => salParts w (wrap64 (recNat r 0x20 8 + i * recNat r 0x28 8)) len
  (rows.zip fs).foldlM (fun (acc : CopyOut) p => do
    let o ← if meta_ then smetaRow w r p.1 p.2 else salnRow w r p.1 p.2
    pure (acc.join o)) CopyOut.zero

/-- The operation of a copy engine: the reason of a refusal, or what it did. -/
def runOp (w : EngId) (blk : Block) (c : CopyOp) : EngM (Except Nat CopyOut) :=
  match c.kind with
  | .cpy | .cpyred => runCopy w blk c.kind c.desc c.coords
  | .saln => do pure (.ok (← runSal w false c.desc))
  | .smeta => do pure (.ok (← runSal w true c.desc))

/-- The stamp address of an operation, when it has one. One that is not 8-byte aligned is taken as it is (R292; DESIGN CHOICE, log entry
81). -/
def CopyOp.stampAddr (c : CopyOp) : Option Nat :=
  match c.kind with
  | .cpy | .cpyred => let a := recNat c.desc 0x80 8; if a = 0 then none else some a
  | _ => none

/-- The barrier an operation arrives on: its address, and whether in scratchpad space. -/
def CopyOp.barrierAddr (c : CopyOp) : Option (Nat × Bool) :=
  match c.kind with
  | .cpy | .cpyred =>
    let a := recNat c.desc 0x88 8
    if a = 0 then none else some (a, bit (recNat c.desc 0x98 8) 8)
  | _ => none

/-- A copy is over: its range is given back, and what completes follows (R184, R250, R256, R260, R294). A refused copy writes
nothing, its stamp left out. -/
def State.copyOver (s : State) (c : CopyOp) (refused : Bool) : State :=
  let s : State := { s with copies := s.copies.filter fun k => k.id != c.id }
  let s := s.mapCores fun k => { k with ranges := k.ranges.filter fun r => r.copy != c.id }
  let stamp := if refused then none else c.stampAddr
  match c.task, s.block? c.block with
  | none, none => s.endOp c.sid c.id
  | _, blk =>
    let b := blk.getD Block.absent
    (s.complete { opCompletion b c.agent c.tl stamp c.barrierAddr c.id c.sid with ctx := c.ctx, task := c.task }).drainCheck b.id

/-- A sticky error of the issuing street, where the operation is a street's own (R295). -/
def State.copyBit (s : State) (c : CopyOp) (b : Nat) : State := if c.task.isSome then s else s.copyErrBit c.sid b

/-- The records and sticky errors of what a copy met (R261, R295, R301). -/
def State.copyReport (s : State) (c : CopyOp) (o : CopyOut) : State :=
  let s := s.weigh c.agent c.ctx.ctxid 18 o.bytes
  let s := match o.out with | some a => (s.asyncErr c.ctx 1 0 c.sid a).copyBit c 0 | none => s
  let s := if o.ecc then s.copyBit c 2 else s
  if o.full then s.copyBit c 4 else s

/-- A copy is refused (R289, R294). -/
def State.copyRefuse (s : State) (c : CopyOp) (reason : Nat) : State :=
  ((s.asyncErr c.ctx 7 reason c.sid c.addr).copyBit c 1).copyOver c true

/-- COPY_COMPLETE (R260, R261, R294). -/
def execCopyComplete (copy : Nat) (s : State) : Res :=
  match s.copies.find? fun c => c.id == copy && c.fault.isNone with
  | none => .next s
  | some c =>
    let w : EngId := { agent := c.agent, ctx := c.ctx }
    let blk := (s.block? c.block).getD { Block.absent with id := c.block }
    match runOp w blk c s with
    | .ok (.ok o, t) => .next ((t.copyReport c o).copyOver c false)
    | .ok (.error n, _) => .next (s.copyRefuse c n)
    | .error (.bad _) | .error (.ecc _) | .error .sram => .next (s.copyRefuse c 4)
    | .error (.hole pa) => .fault (.noMemory pa)
    | .error (.fault f) =>
      .next ({ s with copies := s.copies.map fun (k : CopyOp) => if k.id = c.id then { k with fault := some f } else k }.walkFault
        (coreDie c.core) f)

end Sys2Proof.Machine
end

