-- ==== Sys2Proof/Machine/Mx.lean ====
section
/-! DEFINITION. The MX group (R278 to R285): tile operations into the block's engine queue, the pan port and PANSTAT. -/

namespace Sys2Proof.Machine

/-- A tile operand record (R278). -/
def tileOf (r : List Byte) : TileRec :=
  let c := recNat r 0x38 8
  { abase := recNat r 0 8, astride := recNat r 8 8, bbase := recNat r 0x10 8, bstride := recNat r 0x18 8
    aux1 := recNat r 0x20 8, aux2 := recNat r 0x28 8, auxstride := recNat r 0x30 8, steps := bits c 0 12
    pattern := bits c 12 2, mrows := bits c 16 7 + 1, ncols := bits c 24 7 + 1 }

/-- The AUX fields that an operation needs (R278): AUX1 and AUX2 nonzero, the others zero; AUXSTRIDE of MMTS may be any (R309). -/
def auxOk (kind : MxKind) (t : TileRec) : Bool :=
  match kind with
  | .mmts => t.aux1 != 0 && t.aux2 == 0
  | .mmm => t.aux1 != 0 && t.aux2 != 0 && t.auxstride == 0
  | _ => t.aux1 == 0 && t.aux2 == 0 && t.auxstride == 0

/-- The fields of a tile operand record that acceptance checks (R278). -/
def tileOk (kind : MxKind) (r : List Byte) : Bool :=
  let c := recNat r 0x38 8
  let t := tileOf r
  t.steps != 0 && (if kind = .mmts then t.pattern != 3 else t.pattern == 0)
    && bits c 14 2 == 0 && bits c 23 1 == 0 && bits c 31 33 == 0 && auxOk kind t

/-- A tile record that PANLD, PANST and PANZ leave at zero but for a base and a stride. -/
def rowsRec (base stride : Nat) : TileRec :=
  { abase := base, astride := stride, bbase := 0, bstride := 0, aux1 := 0, aux2 := 0, auxstride := 0, steps := 1
    pattern := 0, mrows := 128, ncols := 128 }

/-- Whether the pan that x+2 names is refused with TASK (R279). -/
def panBad (kind : Option MxKind) (pans v : Nat) : Bool :=
  let p := bits v 0 8
  decide (pans ≤ p) || (kind == some .mmm && (p % 2 == 1 || decide (pans ≤ p + 1)))

/-- An operation enters the block's engine queue (R240, R279). -/
def State.enqueueMx (s : State) (kind : MxKind) (q : RegNo) (tile : TileRec) (addr pan : Nat) : State :=
  let (tl, s) := s.orderedNumber q
  let (id, s) := s.fresh
  let s := s.released.addOp id .mx
  { s with blk := { s.blk with mxq := s.blk.mxq ++ [{
      id := id, kind := kind, tile := tile, recAddr := addr, pan := pan, state := .queued, kprog := 0, phase := 1, summary := 0
      tl := tl, sid := s.st.sid, passed := 0, aged := false, fault := none, task := none, cluster := s.blk.cluster
      c := { cbase := 0, cstride := 0, cvbase := 0, cload := false }, acc := [] }] } }

/-- Whether the block's engine queue or the release holds an issue back (R240, R272). -/
def State.mxFull (s : State) : Bool := decide (16 ≤ s.blk.mxq.length) || s.issueWaits

/-- The accesses to pans of a block that wait inside windows (R241, R283). -/
def State.panWaitsOf (s : State) (block : Nat) : List PanWait :=
  s.allStreets.flatMap fun t => t.windows.filterMap fun w => w.pan.filter fun p => p.block == block

/-- MMT, MMTS and MMM (R278 to R280). -/
def State.mxTile (s : State) (kind : MxKind) (w : FE) : Res :=
  s.engineOn w.u w.x [0, 1, 2] (fun l => s.recordStop l (s.arg64 l w.x) 64 64) fun s act l => s.notPaired fun s =>
  if s.mxFull then .next (s.stalled .mem)
  else
    let va := s.arg64 l w.x
    let v := s.arg l w.x 2
    s.readRecord l va 64 64 fun t r =>
    if v / 256 != 0 || panBad (some kind) s.blk.hdr.pans v then t.taskTrap 0
    else if !tileOk kind r then t.taskTrap va
    else .next ((t.enqueueMx kind w.q (tileOf r) va (bits v 0 8)).accepted s.st w.la.toNat w.u act [])

/-- MMT (R280). -/
def execMmt (w : FE) (s : State) : Res := s.mxTile .mmt w

/-- MMTS (R280, R282). -/
def execMmts (w : FE) (s : State) : Res := s.mxTile .mmts w

/-- MMM (R139, R280). -/
def execMmm (w : FE) (s : State) : Res := s.mxTile .mmm w

/-- PANZ, PANLD and PANST (R279, R281); the argument registers each reads. -/
def State.mxPan (s : State) (kind : MxKind) (args : List Nat) (w : FE) : Res :=
  s.engineEntry w.u w.x args fun s act l => s.notPaired fun s =>
  if s.mxFull then .next (s.stalled .mem)
  else
    let v := s.arg l w.x 2
    if v / 256 != 0 || panBad (some kind) s.blk.hdr.pans v then s.taskTrap 0
    else
      let base := if kind = .panz then 0 else s.arg64 l w.x
      let stride := if kind = .panz then 0 else s.arg l w.x 3
      .next ((s.enqueueMx kind w.q (rowsRec base stride) base (bits v 0 8)).accepted s.st w.la.toNat w.u act [])

/-- PANZ (R281). -/
def execPanz (w : FE) (s : State) : Res := s.mxPan .panz [2] w

/-- PANLD (R281). -/
def execPanld (w : FE) (s : State) : Res := s.mxPan .panld [0, 1, 2, 3] w

/-- PANST (R281). -/
def execPanst (w : FE) (s : State) : Res := s.mxPan .panst [0, 1, 2, 3] w

/-- The pans an operation names (R241). -/
def MxOp.pansNamed (o : MxOp) : List Nat := if o.kind = .mmm then [o.pan, o.pan + 1] else [o.pan]

/-- Whether an accepted operation of the block names a pan and is not over (R241). -/
def Block.panBusy (b : Block) (p : Nat) : Bool := b.mxq.any fun o => o.pansNamed.contains p

/-- Offset of a pan element in a block's pans (R239). -/
def panOff (p row col : Nat) : Nat := p * 65536 + (row * 128 + col) * 4

/-- A column of the pan row in each lane, and the column 64 above it (R283). -/
def panRow (b : Block) (p row add : Nat) : SVec :=
  SVec.gen fun l => BitVec.ofNat 32 (b.pans.nat (panOff p row (l.val + add)) 4)

/-- Whether a pan row holds an uncorrectable word. -/
def State.panRowBroken (s : State) (p row : Nat) : Bool :=
  !s.upsets.isEmpty && (List.range 64).any fun i => s.broken (.pan s.blk.id (panOff p row 0 / 8 + i))

/-- FADDR of ECC_UNC for a pan (R362): SOURCE 3, no address. -/
def eccPan : Nat := 12

/-- A window whose instruction waits to access a pan (R241, R283). -/
def State.panWindow (s : State) (la : Nat) (w : PanWait) : State :=
  (s.onSt fun t => { t with windows := { left := la + 1, olds := [], flags := 0, since := none, pan := some w } :: t.windows }).done

/-- The checks and the wait that PANRD and PANWR share (R241, R279, R283): where a queued operation names the pan, or an access to it
waits already, the instruction waits inside its window; with no window it waits at issue, as it does where the pan row holds an
uncorrectable word, so that its trap stays precise. -/
def State.panPort (s : State) (l : Lane) (x : RegNo) (la : Nat) (w : PanWait) (k : Nat → Nat → Res) : Res :=
  let v := s.arg l x 2
  let p := bits v 0 8
  if v / 2 ^ 15 != 0 || panBad none s.blk.hdr.pans v then s.taskTrap 0
  else if s.blk.panBusy p || (s.panWaitsOf s.blk.id).any fun q => q.pan == p then
    if la = 0 || s.panRowBroken p (bits v 8 7) then .next (s.stalled .mem)
    else .next (s.panWindow la { w with pan := p, row := bits v 8 7, before := s.nextId })
  else k p (bits v 8 7)

/-- PANRD (R283). -/
def execPanrd (w : FEL) (s : State) : Res :=
  s.engineEntry w.u w.x [2] fun s act l => s.notPaired fun s =>
  let m := if w.u then Mask.all else act
  let wait : PanWait := { write := false, block := s.blk.id, pan := 0, row := 0, before := 0,
                          regs := [{ r := w.x.toNat, m := m, v := SVec.zero }, { r := w.x.toNat + 1, m := m, v := SVec.zero }] }
  s.panPort l w.x w.la.toNat wait fun p row =>
  if s.panRowBroken p row then .next (s.sramError.takeTrap 11 0 eccPan)
  else
    let t := s.putResult w.u act w.x [panRow s.blk p row 0, panRow s.blk p row 64]
    .next (t.accepted s.st w.la.toNat w.u act [w.x.toNat, w.x.toNat + 1])

/-- Write some columns of a pan row of a block (R283): a word whose two columns are written is repaired. -/
def State.putPanRow (s : State) (block p row : Nat) (f : Nat → Option Word) : State :=
  let put (m : Memory) (c : Nat) : Memory := match f c with
    | some v => m.putNat (panOff p row c) 4 v.toNat
    | none => m
  let s := s.onBlock block fun b => { b with pans := (List.range 128).foldl put b.pans }
  if s.upsets.isEmpty then s
  else (List.range 64).foldl (fun s i =>
    if (f (2 * i)).isSome && (f (2 * i + 1)).isSome then s.mend (.pan block (panOff p row (2 * i) / 8)) else s) s

/-- The columns that lanes of two registers write (R283). -/
def panCols (a b : OldReg) (c : Nat) : Option Word :=
  let lane : Lane := Fin.ofNat 64 c
  let o := if c < 64 then a else b
  if o.m.has lane then some (o.v.lane lane) else none

/-- The access to a pan that waited inside a window is made (R241, R283): an uncorrectable word that came up meanwhile goes on into
the registers, whose reader then meets it (log entry 50). -/
def State.panServe (s : State) (sid : StreetId) (w : PanWait) : State :=
  match s.block? w.block, w.regs with
  | some b, [x, y] =>
    if w.write then s.putPanRow b.id w.pan w.row (panCols x y)
    else
      let bad (add : Nat) (l : Lane) : Bool := s.broken (.pan b.id (panOff w.pan w.row (l.val + add) / 8))
      let ups (o : OldReg) (add : Nat) : List (ErrLoc × Nat) :=
        if s.upsets.isEmpty then [] else (o.m.lanes.filter (bad add)).map fun l => (.reg sid o.r l.val, 2)
      let s : State := { s with upsets := ups x 0 ++ ups y 64 ++ s.upsets.filter fun u =>
        !(errInRegs u.1 sid x.r 1 x.m || errInRegs u.1 sid y.r 1 y.m) }
      s.onStreet sid fun t => (t.setReg (BitVec.ofNat 6 x.r) x.m (panRow b w.pan w.row 0)).setReg (BitVec.ofNat 6 y.r) y.m
        (panRow b w.pan w.row 64)
  | _, _ => s

/-- Whether the operations that a waiting access to a pan waits for are over (R241). -/
def State.panReady (s : State) (w : PanWait) : Bool :=
  match s.block? w.block with
  | some b => !(b.mxq.any fun o => decide (o.id < w.before) && o.pansNamed.contains w.pan)
      && !((s.panWaitsOf b.id).any fun q => q.pan == w.pan && decide (q.before < w.before))
  | none => true

/-- PANWR (R283). -/
def execPanwr (w : FEL) (s : State) : Res :=
  s.engineEntry w.u w.x [2] fun s act l => s.notPaired fun s =>
  match s.srcBroken (lanesUsed w.u act) (.reg w.x 0, 2) with
  | some fa => .next (s.sramError.takeTrap 11 0 fa)
  | none =>
    let src (k : Nat) (v : SVec) : OldReg :=
      if w.u then { r := w.x.toNat + k, m := Mask.all, v := SVec.splat (v.lane 0) } else { r := w.x.toNat + k, m := act, v := v }
    let a := src 0 (s.rdReg 0 w.x)
    let b := src 1 (s.rdReg 1 (regPlus w.x 1))
    s.panPort l w.x w.la.toNat { write := true, block := s.blk.id, pan := 0, row := 0, before := 0, regs := [a, b] } fun p row =>
    .next ((s.putPanRow s.blk.id p row (panCols a b)).accepted s.st w.la.toNat w.u act [])

/-- STATE of PANSTAT (R284). -/
def OpState.code : OpState → Nat
  | .queued => 1 | .running => 2 | .faulted => 3

/-- PANSTAT (R284, R285). -/
def execPanstat (w : FEL) (s : State) : Res :=
  s.engineEntry w.u w.x [2] fun s act l => s.notPaired fun s =>
  let v := s.arg l w.x 2
  if v / 256 != 0 || panBad none s.blk.hdr.pans v then s.taskTrap 0
  else
    let p := bits v 0 8
    let sum := lookN s.blk.panSum p
    let st : Nat := match s.blk.mxq.find? fun o => o.pansNamed.contains p with
      | some o => o.state.code * 2 ^ 24 + o.kprog % 4096 * 2 ^ 12
      | none => 0
    let t := { s with blk := { s.blk with panSum := s.blk.panSum.filter fun e => e.1 != p } }
    let t := t.putResult w.u act w.x [SVec.splat (BitVec.ofNat 32 sum), SVec.splat (BitVec.ofNat 32 st)]
    .next (t.accepted s.st w.la.toNat w.u act [w.x.toNat, w.x.toNat + 1])

end Sys2Proof.Machine
end

