-- ==== Sys2Proof/Machine/MxEvents.lean ====
section
/-! DEFINITION. The sequencer of a matrix engine (R242 to R249): choice, K-steps and merges, operand faults, completion; and
the events that come from it. -/

namespace Sys2Proof.Machine

/-- Bytes of one pan. -/
def panBytes : Nat := 65536

/-- The elements of the pan at an offset. -/
def panArray (m : Memory) (base : Nat) : Array Nat :=
  let by_ := (m.window base panBytes).foldl (fun (a : Array Byte) c => a.setIfInBounds (c.1 - base) c.2) (Array.replicate panBytes 0)
  ((List.range 16384).map fun i => leNat ((List.range 4).map fun j => by_.getD (4 * i + j) 0)).toArray

/-- Put the elements of a pan. -/
def putPan (m : Memory) (base : Nat) (a : Array Nat) : Memory := m.splice base (a.toList.map (leBytes 4)).flatten

/-- Every operation of the engines: of block queues and of tasks. -/
def State.mxOps (s : State) : List MxOp := (s.allBlocks.map (·.mxq)).flatten ++ (s.engines.map (·.ops)).flatten

/-- The operation with an identity. -/
def State.mxOp? (s : State) (id : Nat) : Option MxOp := s.mxOps.find? fun o => o.id == id

/-- Change an operation. -/
def State.onMx (s : State) (id : Nat) (f : MxOp → MxOp) : State :=
  let g (os : List MxOp) : List MxOp := os.map fun o => if o.id == id then f o else o
  let s := s.mapBlocks fun b => { b with mxq := g b.mxq }
  { s with engines := s.engines.map fun e => { e with ops := g e.ops } }

/-- The block whose queue holds an operation. -/
def State.mxBlock? (s : State) (id : Nat) : Option Block := s.allBlocks.find? fun b => b.mxq.any fun o => o.id == id

/-- The record of the task that an operation runs. -/
def State.mxTask? (s : State) (o : MxOp) : Option (Nat × TaskRec) :=
  match o.task with
  | none => none
  | some t => (List.range 4).findSome? fun d => ((s.die d).pool.find? fun r => r.id == t).map fun r => (d, r)

/-- The context of an operation. -/
def State.mxCtx (s : State) (o : MxOp) : CtxDesc :=
  match s.mxBlock? o.id with
  | some b => b.ctx
  | none => match s.mxTask? o with | some r => r.2.ctx | none => CtxDesc.zero

/-- Whether an operation has high priority by its block or task, or by ageing (R242). -/
def State.mxHigh (s : State) (o : MxOp) : Bool :=
  o.aged || decide (16 ≤ o.passed) || match s.mxBlock? o.id with
    | some b => b.high
    | none => match s.mxTask? o with | some r => r.2.high | none => false

/-- Whether an operation of a block cannot start yet: an access to a pan that it names waits which was issued before it (R241). -/
def State.panHeld (s : State) (b : Block) (o : MxOp) : Bool :=
  (s.panWaitsOf b.id).any fun w => decide (w.before ≤ o.id) && o.pansNamed.contains w.pan

/-- The operations an engine may choose (R242), each with its place in the round: queue heads and tasks, but for those of a context
that the resident OS has stopped (R243). -/
def State.mxCandidates (s : State) (cluster : Nat) : List (Nat × MxOp) :=
  let heads := (s.allBlocks.filter fun b => b.cluster == cluster).filterMap fun b =>
    match b.mxq with
    | o :: _ => if o.state == .queued && !s.panHeld b o then some (b.id, o) else none
    | [] => none
  (heads ++ ((s.engine cluster).ops.filter fun o => o.state == .queued).map fun o => (o.id, o)).filter fun c =>
    !s.stopped.contains (s.mxCtx c.2).ctxid

/-- The least of some candidates by their place. -/
def leastPlace : List (Nat × MxOp) → Option (Nat × MxOp)
  | [] => none
  | c :: cs =>
    match leastPlace cs with
    | none => some c
    | some d => if c.1 ≤ d.1 then some c else some d

/-- Round-robin: the first place after the one served last (R242), the places in the order of block and operation numbers (DESIGN CHOICE,
log entry 81). -/
def roundRobin (served : Nat) (cs : List (Nat × MxOp)) : Option (Nat × MxOp) :=
  match leastPlace (cs.filter fun c => decide (served < c.1)) with
  | some c => some c
  | none => leastPlace cs

/-- ENGINE_CHOOSE: an idle engine takes its next operation (R242, R246). -/
def State.engineChoose (s : State) (cluster : Nat) : State :=
  let e := s.engine cluster
  if e.run.isSome then s
  else
    let cs := s.mxCandidates cluster
    let high := cs.filter fun c => s.mxHigh c.2
    match roundRobin e.served (if high.isEmpty then cs else high) with
    | none => s
    | some c =>
      let s := cs.foldl (fun s d => if d.2.id = c.2.id then s else s.onMx d.2.id fun o => { o with passed := o.passed + 1 }) s
      let s := s.onMx c.2.id fun o => { o with state := .running, passed := 0, aged := false }
      s.onEngine cluster fun e => { e with run := some c.2.id, served := c.1 }

/-- A step's outcome: the two pans it leaves, the summary bits, the counters it adds. -/
structure StepOut where
  pan0   : Array Nat
  pan1   : Array Nat
  sum    : Nat
  counts : List (Nat × Nat)

/-- An operand row or column of a step: aligned to its block bytes as its stride is (R280), with no uncorrectable data
(R249). -/
def fetchOperand (w : EngId) (base stride i first n : Nat) : EngM ElemRun := do
  let row := wrap64 (base + i * stride)
  let r ← fetchRun w row first n
  let u := unitBytes r.fmt r.bl
  if row % u != 0 || stride % u != 0 then throw (.bad 4)
  match r.elems.toList.findSome? (·.ecc) with
  | some a => throw (.ecc a)
  | none => pure r

/-- A row of A of MMT or MMTS with its kept map, and whether its metadata is out of order (R280, R282). -/
def fetchARow (w : EngId) (o : MxOp) (i : Nat) : EngM (ARow × Bool) := do
  let t := o.tile
  if o.kind = .mmts then
    let n := patN t.pattern
    let m := patM t.pattern
    let r ← fetchOperand w t.abase t.astride i (256 * o.kprog * n / m) (256 * n / m)
    let md ← engReadSure w (wrap64 (t.aux1 + i * t.auxstride + o.kprog * patMB t.pattern)) (patMB t.pattern)
    let k := sparseMap t.pattern md
    pure ({ run := r, pos := k.1, num := m, den := n }, k.2)
  else
    let r ← fetchOperand w t.abase t.astride i (256 * o.kprog) 256
    pure ({ run := r, pos := denseMap, num := 1, den := 1 }, false)

/-- A K-step of MMT or MMTS (R280). -/
def mmtStep (w : EngId) (o : MxOp) (p0 p1 : Array Nat) : EngM StepOut := do
  let t := o.tile
  let as ← (List.range t.mrows).mapM (fetchARow w o)
  let bs ← (List.range t.ncols).mapM fun j => fetchOperand w t.bbase t.bstride j (256 * o.kprog) 256
  let fmts := (as.map fun a => a.1.run.fmt) ++ bs.map (·.fmt)
  if !fmtsAgree fmts then throw (.bad 3)
  let aa := (as.map (·.1)).toArray
  let ba := bs.toArray
  let r := panMap p0 fun i j c => mmtChain aa[i]? ba[j]? c
  let num := match as with | a :: _ => a.1.num | [] => 1
  let den := match as with | a :: _ => a.1.den | [] => 1
  pure { pan0 := r.1, pan1 := p1, sum := r.2 ||| 128 * b2n (as.any (·.2))
         counts := stepCounts false fmts num den ++ [(23, stepCycles false fmts num den)] }

/-- A K-step of MMM (R139 to R141, R280). -/
def mmmStep (w : EngId) (o : MxOp) (p0 p1 : Array Nat) : EngM StepOut := do
  let t := o.tile
  let k0 := 256 * o.kprog
  let as ← (List.range t.mrows).mapM fun i => do
    let m ← fetchOperand w t.abase t.astride i k0 256
    let v ← fetchOperand w t.aux1 t.astride i k0 256
    pure ({ mean := m, var := v } : MRow)
  let bs ← (List.range t.ncols).mapM fun j => do
    let m ← fetchOperand w t.bbase t.bstride j k0 256
    let v ← fetchOperand w t.aux2 t.bstride j k0 256
    pure ({ mean := m, var := v } : MRow)
  let fmts := ((as ++ bs).map fun r => [r.mean.fmt, r.var.fmt]).flatten
  if !fmtsAgree fmts then throw (.bad 3)
  let aa := as.toArray
  let ba := bs.toArray
  let r := panMap p0 fun i j c => mmmMean aa[i]? ba[j]? c
  let v := panMap p1 fun i j c => mmmVar aa[i]? ba[j]? c
  pure { pan0 := r.1, pan1 := v.1, sum := r.2 ||| v.2, counts := stepCounts true fmts 1 1 ++ [(23, stepCycles true fmts 1 1)] }

/-- The 128 rows of a pan read from memory, on pages of one FMT and BL (R281); with the summary bits. -/
def loadPan (w : EngId) (base stride : Nat) : EngM (Array Nat × Nat) := do
  let rs ← (List.range 128).mapM fun i => fetchOperand w base stride i 0 128
  match rs with
  | [] => pure (#[], 0)
  | r :: _ =>
    if rs.any fun q => q.page != r.page || (fmtBfp r.fmt && q.bl != r.bl) then throw (.bad 3)
    else
      let vs := (rs.map fun r => r.elems.toList.map (decodeElem r.fmt)).flatten
      pure ((vs.map (·.1)).toArray, vs.foldl (fun a v => a ||| sumBits v.2) 0)

/-- Bits of a summary that PANST and the C write record (R281). -/
def storeBits (f : Word) : Nat := sumBits f + 256 * b2n (f &&& flBFPOV != 0)

/-- The 128 rows of a pan written to memory (R281): every row is checked before anything is written. -/
def storePan (w : EngId) (base stride : Nat) (pan : Array Nat) : EngM Nat := do
  let fs ← (List.range 128).mapM fun i => checkRow w (wrap64 (base + i * stride)) 128
  match fs with
  | [] => pure 0
  | f :: _ =>
    let fmt := if f.1 = 0 then 10 else f.1
    if fs.any (· != f) then throw (.bad 3)
    else if stride % unitBytes fmt f.2 != 0 then throw (.bad 4)
    else
      let rs ← (List.range 128).mapM fun i =>
        storeRow w (wrap64 (base + i * stride)) fmt f.2 ((List.range 128).map fun j => pan.getD (128 * i + j) 0)
      pure (rs.foldl (fun a r => a ||| storeBits r) 0)

/-- A pan of zeros. -/
def zeroPan : Array Nat := Array.replicate 16384 0

/-- What an operation does next (R243, R281, R288): for a task 0 loads C, 1 runs its K-steps, 2 writes C. -/
def mxStep (w : EngId) (o : MxOp) (p0 p1 : Array Nat) : EngM StepOut := do
  let one : List (Nat × Nat) := [(23, 128)]
  if o.phase = 0 then
    let m ← loadPan w o.c.cbase o.c.cstride
    if o.kind = .mmm then
      let v ← loadPan w o.c.cvbase o.c.cstride
      pure ⟨m.1, v.1, m.2 ||| v.2, one ++ one⟩
    else pure ⟨m.1, p1, m.2, one⟩
  else if o.phase = 2 then
    let m ← storePan w o.c.cbase o.c.cstride p0
    if o.kind = .mmm then
      let v ← storePan w o.c.cvbase o.c.cstride p1
      pure ⟨p0, p1, m ||| v, one ++ one⟩
    else pure ⟨p0, p1, m, one⟩
  else
    match o.kind with
    | .mmt | .mmts => mmtStep w o p0 p1
    | .mmm => mmmStep w o p0 p1
    | .panz => pure ⟨zeroPan, p1, 0, one⟩
    | .panld => do let m ← loadPan w o.tile.abase o.tile.astride; pure ⟨m.1, p1, m.2, one⟩
    | .panst => do let m ← storePan w o.tile.abase o.tile.astride p0; pure ⟨p0, p1, m, one⟩

/-- An operation is over (R246, R249, R284): its summary joins those of its pans, and its advance is made; a task is DONE. -/
def State.mxDone (s : State) (o : MxOp) (cluster : Nat) : State :=
  let s := s.onEngine cluster fun e => { e with run := if e.run == some o.id then none else e.run }
  match s.mxBlock? o.id with
  | some b =>
    let left := b.mxq.filter fun q => q.id != o.id
    let s := s.onBlock b.id fun b => { b with
      mxq := left
      panSum := o.pansNamed.foldl (fun l p => putN l p (lookN l p ||| o.summary)) b.panSum
      panFreed := if b.life == .draining && !(left.any fun q => q.pan / 2 == o.pan / 2) then addNew b.panFreed (o.pan / 2)
        else b.panFreed }
    (s.complete (opCompletion b (agentMx o.cluster) o.tl none none o.id o.sid)).drainCheck b.id
  | none =>
    let s := s.onEngine cluster fun e => { e with ops := e.ops.filter fun q => q.id != o.id }
    match s.mxTask? o with
    | some r => s.taskDone r.1 r.2.id true
    | none => s

/-- The name by which ASYNC_MX_FMT reports an operation (R302). -/
def MxOp.where_ (o : MxOp) : Nat := o.recAddr

/-- A translation fault: the step is discarded, the operation is FAULTED and leaves the sequencer (R245). -/
def State.mxFault (s : State) (o : MxOp) (cluster : Nat) (f : XFault) : State :=
  let s := s.onMx o.id fun o => { o with state := .faulted, fault := some f }
  (s.onEngine cluster fun e => { e with run := none }).walkFault (clusterDie cluster) f

/-- Whether a pan an operation uses holds an uncorrectable word, which it reads (R249). -/
def State.mxPanBroken (s : State) (b : Block) (o : MxOp) : Bool :=
  !s.upsets.isEmpty && o.kind != .panz && o.kind != .panld &&
    o.pansNamed.any fun p => (List.range 8192).any fun i => s.broken (.pan b.id (p * 8192 + i))

/-- The running operation of an engine with its pans: base offsets in the memory that holds them. -/
def State.mxRunning (s : State) (cluster : Nat) : Option MxOp := (s.engine cluster).run.bind s.mxOp?

/-- An attempt at a step: what it gives, or what ends it. -/
def State.mxAttempt (s : State) (o : MxOp) (cluster : Nat) : Except EngStop (StepOut × State) :=
  let w : EngId := { agent := agentMx cluster, ctx := s.mxCtx o }
  let pans := match s.mxBlock? o.id with | some b => b.pans | none => o.acc
  let base := match s.mxBlock? o.id with | some _ => o.pan * panBytes | none => 0
  let broken := match s.mxBlock? o.id with | some b => s.mxPanBroken b o | none => false
  if broken then .error .sram
  else mxStep w o (panArray pans base) (if o.kind = .mmm then panArray pans (base + panBytes) else #[]) s

/-- The words of pans that a load or a zeroing replaces are sound again. -/
def State.mendPans (s : State) (b : Block) (o : MxOp) : State :=
  if s.upsets.isEmpty || (o.kind != .panz && o.kind != .panld) then s
  else { s with upsets := s.upsets.filter fun u => match u.1 with | .pan k x => !(k == b.id && x / 8192 == o.pan) | _ => true }

/-- The merge of a step (R244, R247): the pans, KPROG and the counters change together; the operation goes on, or is over. -/
def State.mxMerge (s : State) (o : MxOp) (cluster : Nat) (r : StepOut) : State :=
  let s := r.counts.foldl (fun s c => s.weigh (agentMx cluster) (s.mxCtx o).ctxid c.1 c.2) s
  let put (m : Memory) (base : Nat) : Memory :=
    let m := putPan m base r.pan0
    if o.kind = .mmm then putPan m (base + panBytes) r.pan1 else m
  let o' : MxOp := if o.phase = 1 then { o with kprog := o.kprog + 1, summary := o.summary ||| r.sum }
    else { o with summary := o.summary ||| r.sum, phase := o.phase + 1 }
  match s.mxBlock? o.id with
  | some b =>
    let s := (s.onBlock b.id fun b => { b with pans := put b.pans (o.pan * panBytes) }).mendPans b o
    let s := s.onMx o.id fun _ => o'
    if o.tile.steps ≤ o'.kprog then s.mxDone o' cluster else s
  | none =>
    let o' : MxOp := { o' with acc := put o.acc 0, phase := if o.phase = 1 ∧ o.tile.steps ≤ o'.kprog then 2 else o'.phase }
    let s := s.onMx o.id fun _ => o'
    if o.phase = 2 then s.mxDone o' cluster else s

/-- An operation that meets uncorrectable data ends with the error bit and ASYNC_MX_ECC (R249, R302); a word of a pan has no address. -/
def State.mxBroken (s : State) (o : MxOp) (cluster a : Nat) : State :=
  (s.asyncErr (s.mxCtx o) 4 0 o.sid a).mxDone { o with summary := o.summary ||| 32 } cluster

/-- One K-step of an engine: its merge, or what an operand does to it (R244, R245, R249, R280, R281). -/
def State.engineStep (s : State) (cluster : Nat) : Res :=
  match s.mxRunning cluster with
  | none => .next s
  | some o =>
    match s.mxAttempt o cluster with
    | .ok (r, t) => .next (t.mxMerge o cluster r)
    | .error (.fault f) => .next (s.mxFault o cluster f)
    | .error (.hole pa) => .fault (.noMemory pa)
    | .error (.bad n) =>
      .next ((s.asyncErr (s.mxCtx o) 5 n o.sid o.where_).mxDone { o with summary := o.summary ||| 64 } cluster)
    | .error (.ecc a) => .next ((s.meetEcc { agent := agentMx cluster, ctx := s.mxCtx o } a).mxBroken o cluster a)
    | .error .sram => .next ((s.machineCheck (clusterDie cluster) 3 (s.mxCtx o).ctxid 0 0xFFFFFFFF 0).mxBroken o cluster 0)

/-- The bytes by which the resident OS mends the page tables (R161). -/
def State.applyFix (s : State) (fix : List Host.Cell) : State :=
  fix.foldl (fun s c => if hbmHas c.1 then s.poke c.1 [c.2] else s) s

/-- A serviced operation returns to QUEUED at its queue's head (R245). -/
def State.mxServiced (s : State) (op : Nat) : State :=
  s.onMx op fun o => if o.state == .faulted then { o with state := .queued, fault := none } else o

/-- ENGINE_CHOOSE (R242). -/
def execEngineChoose (cluster : Nat) (s : State) : Res := .next (s.engineChoose cluster)

/-- PRIORITY_AGEING (R242): candidates of normal priority passed over 16 times in a row are high at the next choice. -/
def execPriorityAgeing (cluster : Nat) (s : State) : Res :=
  .next ((s.mxCandidates cluster).foldl (fun s c =>
    if 16 ≤ c.2.passed then s.onMx c.2.id fun o => { o with aged := true } else s) s)

/-- MERGE (R244). -/
def execMerge (cluster : Nat) (s : State) : Res := s.engineStep cluster

/-- ENGINE_FETCH_FAULT (R245): it comes about when the step in the sequencer meets a translation fault. -/
def execEngineFetchFault (cluster : Nat) (s : State) : Res :=
  match s.mxRunning cluster with
  | none => .next s
  | some o =>
    match s.mxAttempt o cluster with
    | .error (.fault f) => .next (s.mxFault o cluster f)
    | _ => .next s

/-- ENGINE_FAULT_SERVICED (R245). -/
def execEngineFaultServiced (op : Nat) (fix : List Host.Cell) (s : State) : Res :=
  match s.mxOp? op with
  | none => .next s
  | some o => if o.state == .faulted then .next ((s.applyFix fix).mxServiced op) else .next s

end Sys2Proof.Machine
end

