-- ==== Sys2Proof/Machine/Task.lean ====
section
/-! DEFINITION. Tile-task records (R286, R287), TPOST, LAUNCH and TQSTAT (R290, R291). -/

namespace Sys2Proof.Machine

/-- NWAIT, input and output region counts of a record. -/
def recNwait (r : List Byte) : Nat := recNat r 2 1
@[inherit_doc recNwait] def recNin (r : List Byte) : Nat := bits (recNat r 3 1) 0 4
@[inherit_doc recNwait] def recNout (r : List Byte) : Nat := bits (recNat r 3 1) 4 4

/-- Whether the wait fields past NWAIT are zero (R286). -/
def waitsClear (r : List Byte) : Bool :=
  (List.range 4).all fun i => decide (i < recNwait r) ||
    (bits (recNat r 4 4) (5 + 5 * i) 5 == 0 && recZero r (0x10 + 4 * i) 4 && recZero r (0x20 + 6 * i) 6)

/-- LEN of a region entry (R287). -/
def regionLen (e : Nat) : Nat := bits e 57 7 * 4096 + bits e 0 12

/-- Whether the region entries past the counts are zero (R286). -/
def regionsClear (r : List Byte) : Bool :=
  (List.range 4).all fun i =>
    (decide (i < recNin r) || recZero r (0x40 + 8 * i) 8) && (decide (i < recNout r) || recZero r (0x60 + 8 * i) 8)

/-- The checks of a post (R289): KIND, the counts, and the fields that must be zero. -/
def recOk (r : List Byte) : Bool :=
  let flags := recNat r 1 1
  let tls := recNat r 4 4
  decide (1 ≤ recNat r 0 1) && decide (recNat r 0 1 ≤ 6) && decide (recNwait r ≤ 4) && decide (recNin r ≤ 4)
    && decide (recNout r ≤ 4) && bits flags 4 4 == 0 && bits tls 25 7 == 0 && recZero r 0xC 4
    && waitsClear r && regionsClear r
    && (bit flags 1 || (bits tls 0 5 == 0 && recZero r 8 4))

/-- Regions of a record from an offset on. -/
def recRegions (r : List Byte) (off n : Nat) : List Region :=
  (List.range n).map fun i => let e := recNat r (off + 8 * i) 8; { base := bits e 12 45 * 4096, len := regionLen e * 4096 }

/-- A record as the part holds it (R253, R286); `own` is the advance handle that TPOST's selector names (R290). -/
def taskOf (r : List Byte) (id die addr : Nat) (sid : StreetId) (ctx : CtxDesc) (tid : Nat) (own : Option (Nat × Nat)) : TaskRec :=
  let flags := recNat r 1 1
  let tls := recNat r 4 4
  { id := id, die := die, addr := addr, sid := sid, ctx := ctx, tid := tid, kind := recNat r 0 1, high := bit flags 0
    cload := bit flags 2, paired := bit flags 3
    adv := match own with
      | some a => some a
      | none => if bit flags 1 then some (recNat r 8 4, bits tls 0 5) else none
    waits := (List.range (recNwait r)).map fun i =>
      (recNat r (0x10 + 4 * i) 4, bits tls (5 + 5 * i) 5, recNat r (0x20 + 6 * i) 6)
    inputs := recRegions r 0x40 (recNin r), outputs := recRegions r 0x60 (recNout r)
    opnd := recNat r 0x38 8, desc := [], hdr := [], state := .pending, seq := 0, passed := 0, reserved := false
    blocks := [], next := 0, inflight := 0 }

/-- The result word of a post: 0 posted, 1 busy (R290). -/
def State.postDone (s : State) (w : FEN) (act : Mask) (busy : Bool) (before : Street) : Res :=
  let s := s.putResult w.u act w.x [SVec.splat (predWord busy &&& 1)]
  .next (s.accepted before w.la.toNat w.u act [w.x.toNat])

/-- The record of a post enters the entry that its path has reserved (R304). -/
def fillPost (t : Street) (r : TaskRec) (es : List PlqEntry) : List PlqEntry :=
  es.map fun e => if e.held t then { e with rec_ := some r } else e

/-- TPOST and LAUNCH (R254, R272, R289, R290, R304): a full queue stalls with PANQ, or returns busy under NB without reading the
record, as it does where the release that a post makes would have to wait (R16, R388; DEDUCED, log entry 82); else the post holds an entry, which it fills when it has read its record, and frees where its guard leaves it no lane. -/
def State.post (s : State) (launch : Bool) (w : FEN) : Res :=
  (if s.active = 0 then s.freePost else s).engineOn w.u w.x [0, 1] (fun l => s.recordStop l (s.arg64 l w.x) 128 128) fun s act l => s.notPaired fun s =>
  let mine := s.blk.plq.any fun e => e.held s.st
  if 4 ≤ s.blk.plq.length && !mine then
    if w.nb then s.postDone w act true s.st else .next (s.stalled .panq)
  else if s.issueWaits then if w.nb && !mine then s.postDone w act true s.st else .next (s.stalled .mem)
  else
    let va := s.arg64 l w.x
    let e : PlqEntry := { sid := s.st.sid, at_ := s.st.here, rec_ := none }
    let s := if mine then s else { s with blk := { s.blk with plq := s.blk.plq ++ [e] } }
    s.readRecord l va 128 128 fun t r =>
    if !recOk r || (launch && recNat r 0 1 != 6) then t.taskTrap va
    else
      let own : Option (Nat × Nat) := if 32 ≤ w.q.toNat then some (s.st.sid.toNat, w.q.toNat - 32) else none
      let (id, t) := t.fresh
      let r := taskOf r id s.st.die va s.st.sid s.blk.ctx s.blk.tid own
      let t := { t with blk := { t.blk with plq := fillPost s.st r t.blk.plq } }
      t.postDone w act false s.st

/-- TPOST (R290). -/
def execTpost (w : FEN) (s : State) : Res := s.post false w

/-- LAUNCH (R290). -/
def execLaunch (w : FEN) (s : State) : Res := s.post true w

/-- TQSTAT (R291). -/
def execTqstat (w : FEL) (s : State) : Res :=
  s.engineEntry w.u w.x [] fun s act _ => s.notPaired fun s =>
  let n := s.blk.plq.length
  let p := (s.die s.st.die).pool.length
  let t := s.putResult w.u act w.x [SVec.splat (BitVec.ofNat 32 n), SVec.splat (BitVec.ofNat 32 p)]
  .next (t.accepted s.st w.la.toNat w.u act [w.x.toNat, w.x.toNat + 1])

end Sys2Proof.Machine
end

