-- ==== Sys2Proof/Machine/Trav.lean ====
section
/-! DEFINITION. Traversal: walk programs (R331, R332), TRAV and TRAVW (R337, R338), and the steps of a walk (R333 to R336). -/

namespace Sys2Proof.Machine

/-- Rules of a program (R331). -/
def progRules (header : Nat) : Nat := bits header 16 4 + 1
/-- POLICY of a program. -/
def progPolicy (header : Nat) : Nat := bits header 12 2
/-- Bytes of a program. -/
def progBytes (header : Nat) : Nat := 16 + 8 * progRules header

/-- Whether a program's header is allowed (R331, R332). -/
def headerOk (header pad : Nat) : Bool :=
  bits header 20 44 == 0 && bits header 14 2 == 0 && progPolicy header != 3 && pad == 0

/-- Whether a rule word is allowed (R332). -/
def ruleOk (rules r : Nat) : Bool :=
  bits r 30 34 == 0 && decide (bits r 26 4 < rules) && decide (bits r 16 4 < rules) && bits r 12 1 == 0 && bits r 22 1 == 0
    && bits r 10 2 != 3 && bits r 20 2 != 3

/-- A program read from some bytes: header and rules. -/
def progOf (bs : List Byte) : Nat × List Nat :=
  let h := recNat bs 0 8
  (h, (List.range (progRules h)).map fun i => recNat bs (16 + 8 * i) 8)

/-- Whether a program is accepted (R332). -/
def progOk (bs : List Byte) : Bool :=
  let p := progOf bs
  headerOk p.1 (recNat bs 8 8) && p.2.all (ruleOk (progRules p.1))

/-- One lane's walk as TRAV reads it: start, key, program and destination offset; or the FADDR of its TASK (R337). -/
def State.travLane (s : State) (x : RegNo) (l : Lane) : Except Nat (Nat × Nat × List Byte × Nat) :=
  let v := s.arg l x 3
  let prog := bits v 12 12 * 64
  let dest := bits v 0 12 * 64
  let size := s.blk.spadBytes
  if bits v 24 8 != 0 || decide (size < prog + 16) || decide (size < dest + 64) then .error 0
  else
    let n := progBytes (s.blk.spad.nat prog 8)
    if size < prog + n then .error 0
    else
      let bs := s.blk.spad.readN prog n
      if progOk bs then .ok (s.arg64 l x, s.arg l x 2, bs, dest) else .error prog

/-- The walks of the lanes of a TRAV, in ascending lanes, or the first refusal. -/
def State.travLanes (s : State) (x : RegNo) : List Lane → Except Nat (List (Lane × Nat × Nat × List Byte × Nat))
  | [] => .ok []
  | l :: ls =>
    match s.travLane x l with
    | .error f => .error f
    | .ok w => (s.travLanes x ls).map fun r => (l, w) :: r

/-- Walks that no slot names and that have ended are forgotten. -/
def State.forgetWalks (s : State) : State :=
  { s with walks := s.walks.filter fun w =>
      w.ended.isNone || s.allStreets.any fun t => t.walkSlots.toList.any (· == some w.id) }

/-- Whether a walk is on its engine: a batch's is once its input is read (R340). -/
def Walk.seats (w : Walk) : Bool := w.ended.isNone && !w.rules.isEmpty

/-- How many walks an engine runs. -/
def State.walksOn (s : State) (e : Nat) : Nat := (s.walks.filter fun w => w.eng == e && w.seats).length

/-- An engine of a stack with room for a walk: of its four the lowest that runs fewer than 256 (R336, log entry 9). -/
def State.walkRoom (s : State) (stack : Nat) : Option Nat :=
  ((List.range 4).map (4 * stack + ·)).find? fun e => decide (s.walksOn e < 256)

/-- The engine at which a new walk of a die starts: of the die's even stack, where all its walks past the 256th are held (R336, log
entry 9). -/
def State.walkStart (s : State) (die : Nat) : Nat := (s.walkRoom (2 * die)).getD (8 * die)

/-- Whether a walk is one of the 256 that its engine runs (R336). -/
def State.walkSeated (s : State) (w : Walk) : Bool :=
  decide (((s.walks.filter fun k => k.eng == w.eng && k.seats).takeWhile fun k => k.id != w.id).length < 256)

/-- Start the walks of a TRAV (R337). -/
def State.startWalks (s : State) (op : Nat) (ws : List (Lane × Nat × Nat × List Byte × Nat)) : State × List Nat :=
  ws.foldl (fun (p : State × List Nat) w =>
    let s := p.1
    let (id, s) := s.fresh
    let prog := progOf w.2.2.2.1
    let walk : Walk := { id := id, op := op, sid := s.st.sid, lane := w.1.val, block := s.blk.id, ctx := s.blk.ctx
                         eng := s.walkStart s.st.die, header := prog.1, rules := prog.2, key := w.2.2.1, p := w.2.1, rule := 0, last := 0
                         steps := 0, record := none, skipped := false, dest := .spad s.blk.id w.2.2.2.2, fault := none, due := none
                         ended := none, trapped := false }
    ({ s with walks := s.walks ++ [walk] }.onSt fun t => { t with walkSlots := t.walkSlots.set w.1 (some id) }, p.2 ++ [id]))
    (s, [])

/-- Walks in flight of the issuing street (R337). -/
def State.walksOf (s : State) : Nat := (s.walks.filter fun w => w.sid == s.st.sid && w.ended.isNone && w.op != 0).length

/-- TRAV (R337, R339). -/
def execTrav (w : FE) (s : State) : Res :=
  if !groupOk s.blk.hdr.regs w.x then .next (s.takeTrap 1 0 0)
  else
    let act := s.active
    if act = 0 then .next s.done
    else
      let m := lanesUsed w.u act
      match s.srcBroken m (.reg w.x 0, 4) with
      | some fa => .next (s.sramError.takeTrap 11 0 fa)
      | none =>
        s.notPaired fun s =>
        if 256 < s.walksOf + m.lanes.length || s.issueWaits then .next (s.stalled .mem)
        else
          match s.travLanes w.x m.lanes with
          | .error f => s.taskTrap f
          | .ok ws =>
            let before := s.st
            let (tl, s) := s.orderedNumber w.q
            let (id, s) := s.fresh
            let s := s.released.addOp id .trav
            let (s, ids) := s.startWalks id ws
            let op : TravOp := { id := id, sid := s.st.sid, block := s.blk.id, tl := tl, left := ids }
            let s := { s with travs := s.travs ++ [op] }.forgetWalks
            .next (s.accepted before w.la.toNat w.u act [])

/-- The lowest marked walk among the slots of some lanes (R338). -/
def State.marked (s : State) (slots : Mask) : Option Walk :=
  slots.lanes.findSome? fun l => (walkIn s.walks s.st l).bind fun w => if w.trapped then some w else none

/-- The walks in some slots of the street in focus. -/
def State.slotWalks (s : State) (slots : Mask) : List Nat := slots.lanes.filterMap fun l => (walkIn s.walks s.st l).map (·.id)

/-- Clear the marks of some walks (R338). -/
def State.clearMarks (s : State) (ids : List Nat) : State :=
  { s with walks := s.walks.map fun w => if ids.contains w.id then { w with trapped := false } else w }

/-- TRAVW (R338): waits for the walks of its slots, then returns their status, or takes trap TRAV. -/
def execTravw (w : FE0) (s : State) : Res :=
  s.engineEntry w.u w.x [] fun s act _ => s.notPaired fun s =>
  let slots := lanesUsed w.u act
  let ws := slots.lanes.filterMap (walkIn s.walks s.st)
  if ws.all fun k => k.ended.isSome then
    match s.marked slots with
    | some k =>
      let t := s.takeTrap 14 0 k.p
      .next (if t.st.svc.isSome then t else t.clearMarks (s.slotWalks slots))
    | none =>
      .next (((s.rewrote w.x 4 (resultMask w.u act)).onSt fun t => t.travDone s.walks w.x slots (resultMask w.u act) w.u).forgetWalks).done
  else .next (s.pathWaits (.trav w.x slots (resultMask w.u act) w.u))

/-- What a walk's record load gives: the bytes, a move to the stack that holds the record, a serviced fault, a walk fault (R335), or an
address without memory. -/
inductive WalkLoad where
  | bytes (bs : List Byte) (s : State)
  | moves (stack : Nat)
  | serviced (f : XFault)
  | bad (s : State)
  | hole (pa : Nat)

/-- The load of a walk's record (R333, R335, R336). -/
def State.walkLoad (s : State) (w : Walk) (n : Nat) : WalkLoad :=
  if w.p % 4 != 0 || decide (128 < w.p % 128 + n) || !canonical w.p then .bad s
  else
    match translate s (agentTrav w.eng) w.ctx w.p .read with
    | .fault f => if f.kind = 0 then .serviced f else .bad s
    | .hole pa => .hole pa
    | .ok pa pte ea base size =>
      if pteRH pte || pteFMT pte != 0 then .bad s
      else if stackOf pa != w.eng / 4 then .moves (stackOf pa)
      else if (s.badSector pa n (pteMS pte)).isSome then
        .bad (match s.badSector pa n (pteMS pte) with
          | some b => s.meetBad b w.ctx.ctxid 0xFFFFFFFF (pteMS pte)
          | none => s)
      else
        let s := touch s (agentTrav w.eng) w.ctx .read pa pte ea base size
        let r := s.loadCopy pa n w.ctx.ctxid (pteMS pte)
        .bytes r.1 r.2

/-- The status word of a walk (R334). -/
def Walk.status (w : Walk) (status : Nat) : Word :=
  BitVec.ofNat 32 (status * 2 ^ 28 + w.last * 2 ^ 24 + b2n w.skipped * 2 ^ 23 + w.steps)

/-- Change a walk. -/
def State.onWalk (s : State) (w : Walk) : State := { s with walks := s.walks.map fun k => if k.id = w.id then w else k }

/-- A walk's record goes to its destination in a scratchpad; a freed one drops it with ASYNC_SPAD_RANGE (R336). -/
def State.walkStore (s : State) (w : Walk) (bs : List Byte) : State :=
  match w.dest with
  | .batch _ _ => s
  | .spad id off =>
    match s.block? id with
    | some b =>
      if b.life == .placed || b.life == .saved then s.writePlace (.spad id off) bs
      else s.asyncErr w.ctx 1 0 w.sid off
    | none => s.asyncErr w.ctx 1 0 w.sid off

/-- The output of a batch's walk (R340). -/
def Walk.output (w : Walk) (status : Word) : List Byte :=
  let r := match w.record with | some r => if status.toNat / 2 ^ 28 = 1 then r else [] | none => []
  r ++ List.replicate (64 - r.length) 0 ++ leBytes 4 status.toNat ++ leBytes 4 0 ++ leBytes 8 w.p ++ List.replicate 48 0

end Sys2Proof.Machine
end

