-- ==== Sys2Proof/Machine/Walks.lean ====
section
/-! DEFINITION. A walk's evaluation and end (R333 to R336), the walks of a TRAVBATCH (R340), and the event of one step. -/

namespace Sys2Proof.Machine

/-- What one evaluation decides (R333): end with a status, or go on. -/
inductive WalkNext where
  | ends (w : Walk) (status : Nat)
  | goes (w : Walk)

/-- Evaluate the current rule on a record (R333); `miss` makes the comparison a mismatch (R335). -/
def Walk.eval (w : Walk) (r : List Byte) (miss : Bool) : WalkNext :=
  let rule := w.rules.getD w.rule 0
  let f := recNat r (4 * bits rule 6 4) 4
  let m := !miss && match bits rule 4 2 with
    | 0 => f == w.key
    | 1 => decide (w.key < f)
    | 2 => decide (w.key ≤ f)
    | _ => f == w.key * 0x9E3779B1 % 2 ^ 32
  let act := if m then bits rule 10 2 else bits rule 20 2
  let off := if m then bits rule 12 4 else bits rule 22 4
  let nx := if m then bits rule 16 4 else bits rule 26 4
  let w := { w with steps := w.steps + 1, last := w.rule, record := some r }
  match act with
  | 0 => .ends w (if m then 1 else 2)
  | 1 => .goes { w with p := recNat r (4 * off) 8, rule := nx, record := none }
  | _ => .goes { w with rule := nx }

/-- Whether all of a program's allowed steps are spent (R331, R333). -/
def Walk.spent (w : Walk) : Bool := decide (bits w.header 0 12 < w.steps)

/-- Bytes of the record that the current rule reads (R332). -/
def Walk.size (w : Walk) : Nat := 4 * (bits (w.rules.getD w.rule 0) 0 4 + 1)

/-- The TRAV of an ended walk: with its last walk its advance is made (R337). -/
def State.travLeaves (s : State) (w : Walk) : State :=
  match s.travs.find? fun t => t.id == w.op with
  | none => s
  | some t =>
    let left := t.left.filter fun i => i != w.id
    if !left.isEmpty then { s with travs := s.travs.map fun k => if k.id = t.id then { k with left := left } else k }
    else
      let s := { s with travs := s.travs.filter fun k => k.id != t.id }
      match s.block? t.block with
      | some b => (s.complete (opCompletion b (agentTrav w.eng) t.tl none none t.id t.sid)).drainCheck b.id
      | none => s.endOp t.sid t.id

/-- A walk of a TRAV ends (R334, R335, R338): DONE writes its record; waiting TRAVWs look again. -/
def State.walkOver (s : State) (w : Walk) (status : Nat) (trap : Bool) : State :=
  let s := if status = 1 then s.walkStore w (w.record.getD []) else s
  let s := s.onWalk { w with ended := some (w.status status), trapped := trap, fault := none }
  ((s.settleBlock w.block false).travLeaves w).forgetWalks

/-- A walk's engine in the name of its context. -/
def Walk.engId (w : Walk) : EngId := { agent := agentTrav w.eng, ctx := w.ctx }

/-- The record of a TRAVBATCH, with its die. -/
def State.batch? (s : State) (task : Nat) : Option (Nat × TaskRec) :=
  (List.range 4).findSome? fun d => ((s.die d).pool.find? fun r => r.id == task).map fun r => (d, r)

/-- COUNT, INBASE and OUTBASE of a batch (R340). -/
def batchCount (r : TaskRec) : Nat := bits (recNat r.desc 0x18 8) 0 17
@[inherit_doc batchCount] def batchIn (r : TaskRec) : Nat := recNat r.desc 8 8
@[inherit_doc batchCount] def batchOut (r : TaskRec) : Nat := recNat r.desc 0x10 8

/-- Change a record of a die's pool. -/
def State.onTask (s : State) (die task : Nat) (f : TaskRec → TaskRec) : State :=
  s.onDie die fun d => { d with pool := d.pool.map fun r => if r.id = task then f r else r }

/-- The batch starts its next walk (R340); the walk's first step reads its input. -/
def State.batchNext (s : State) (die task : Nat) : State :=
  match (s.die die).pool.find? fun r => r.id == task with
  | none => s
  | some r =>
    if batchCount r ≤ r.next || 256 ≤ r.inflight then s
    else
      let (id, s) := s.fresh
      let w : Walk := { id := id, op := 0, sid := r.sid, lane := 0, block := 0, ctx := r.ctx, eng := s.walkStart die, header := 0
                        rules := [], key := 0, p := 0, rule := 0, last := 0, steps := 0, record := none, skipped := false
                        dest := .batch task r.next, fault := none, due := none, ended := none, trapped := false }
      { s with walks := s.walks ++ [w] }.onTask die task fun r => { r with next := r.next + 1, inflight := r.inflight + 1 }

/-- A batch starts as many walks as it may. -/
def State.batchStart (s : State) (die task : Nat) : Nat → State
  | 0 => s
  | n + 1 => (s.batchNext die task).batchStart die task n

/-- A walk of a batch has written its output: the next one starts, or the record is DONE (R340). -/
def State.batchLeaves (s : State) (w : Walk) (task : Nat) : State :=
  let s := { s with walks := s.walks.filter fun k => k.id != w.id }
  match s.batch? task with
  | none => s
  | some (die, _) =>
    let s := (s.onTask die task fun r => { r with inflight := r.inflight - 1 }).batchNext die task
    match (s.die die).pool.find? fun r => r.id == task with
    | some r => if r.inflight = 0 ∧ batchCount r ≤ r.next then s.taskDone die task true else s
    | none => s

/-- A fault that a walk meets is serviced: the walk waits (R335). -/
def State.travFault (s : State) (w : Walk) (f : XFault) : State :=
  (s.onWalk { w with fault := some f }).walkFault (w.eng / 8) f

/-- An engine's access of a batch walk, or what ends it; uncorrectable data counts as zeros here. -/
def State.walkEng (s : State) (w : Walk) (m : EngM Unit) (k : State → Res) : Res :=
  match m s with
  | .ok (_, t) => k t
  | .error (.fault f) => .next (s.travFault w f)
  | .error (.hole pa) => .fault (.noMemory pa)
  | .error (.bad _) | .error (.ecc _) | .error .sram => k s

/-- A walk ends with a status; that of a batch first writes its output, with that status whatever the write has to wait for (R334,
R335, R340). -/
def State.walkEnds (s : State) (w : Walk) (status : Nat) (trap : Bool) : Res :=
  match w.dest with
  | .spad _ _ => .next (s.walkOver w status trap)
  | .batch task i =>
    match s.batch? task with
    | none => .next { s with walks := s.walks.filter fun k => k.id != w.id }
    | some (_, r) =>
      s.walkEng { w with due := some status } (engWrite w.engId (wrap64 (batchOut r + 128 * i)) (w.output (w.status status))) fun t =>
        .next (t.batchLeaves w task)

/-- The stack of a batch walk's start pointer, that of its engine where the pointer names no line here (R336, R340). -/
def State.startStack (s : State) (w : Walk) (p : Nat) : Nat :=
  if !canonical p then w.eng / 4
  else
    match translate s (agentTrav w.eng) w.ctx p .read with
    | .ok pa pte _ _ _ => if pteRH pte then w.eng / 4 else stackOf pa
    | _ => w.eng / 4

/-- The input of a batch walk is read, and it starts on the stack of its start pointer, once an engine there has room (R336, R340). -/
def State.batchInput (s : State) (w : Walk) (task i : Nat) : Res :=
  match s.batch? task with
  | none => .next { s with walks := s.walks.filter fun k => k.id != w.id }
  | some (_, r) =>
    match engRead w.engId (wrap64 (batchIn r + 16 * i)) 16 s with
    | .ok (bs, t) =>
      let bs := bs.map (·.1)
      let p := progOf r.hdr
      match s.walkRoom (s.startStack w (recNat bs 0 8)) with
      | some e => .next (t.onWalk { w with eng := e, p := recNat bs 0 8, key := recNat bs 8 4, header := p.1, rules := p.2 })
      | none => .next s
    | .error (.fault f) => .next (s.travFault w f)
    | .error (.hole pa) => .fault (.noMemory pa)
    | .error (.bad _) | .error (.ecc _) | .error .sram => s.walkEnds w 4 false

/-- One evaluation of a walk counts a step (R333). -/
def State.walkEval (s : State) (w : Walk) (r : List Byte) (miss : Bool) : Res :=
  let s := s.weigh (agentTrav w.eng) w.ctx.ctxid 17 1
  match w.eval r miss with
  | .goes w => .next (s.onWalk w)
  | .ends w status => s.walkEnds w status false

/-- A walk moves to an engine of another stack, or is held in its own while none there has room (R336). -/
def State.walkMoves (s : State) (w : Walk) (stack : Nat) : State :=
  match s.walkRoom stack with
  | some e => s.onWalk { w with eng := e }
  | none => s

/-- The next load or evaluation of a walk that its engine runs (R333, R335, R336). -/
def State.walkRuns (s : State) (w : Walk) : Res :=
  if w.spent then s.walkEnds w 3 false
  else
    match w.record with
    | some r => s.walkEval w r false
    | none =>
      if w.p = 0 then s.walkEnds w 2 false
      else
        match s.walkLoad w w.size with
        | .bytes bs t => t.walkEval w bs false
        | .moves stack => .next (s.walkMoves w stack)
        | .serviced f => .next (s.travFault w f)
        | .hole pa => .fault (.noMemory pa)
        | .bad t =>
          if progPolicy w.header = 1 then t.walkEval { w with skipped := true } (List.replicate w.size 0) true
          else t.walkEnds w 4 (progPolicy w.header == 2 && w.op != 0)

/-- WALK_STEP (R333, R335, R336): a walk that its engine runs moves, or loads its record where it needs one and evaluates one rule; a
walk of a batch reads its input first and writes its output last. -/
def execWalkStep (walk : Nat) (s : State) : Res :=
  match s.walks.find? fun w => w.id == walk && w.ended.isNone && w.fault.isNone with
  | none => .next s
  | some w =>
    if w.seats && !s.walkSeated w then .next s
    else
      match w.due, w.dest, w.rules with
      | some status, _, _ => s.walkEnds w status false
      | none, .batch task i, [] => s.batchInput w task i
      | none, _, _ => s.walkRuns w

end Sys2Proof.Machine
end

