-- ==== Sys2Proof/Machine/Sched.lean ====
section
/-! DEFINITION. The die schedulers (R253 to R258, R287 to R289, R304, R305): ingestion, dispatch, placement of districts (R163,
R164, R235, R239, R366), and their events. -/

namespace Sys2Proof.Machine

/-- The weigh area of a context is there from its first work on (R355, R359). -/
def State.ensureArea (s : State) (c : CtxDesc) : State :=
  if s.ctxs.any fun a => a.ctx == c.ctxid then s
  else { s with ctxs := s.ctxs ++ [{ ctx := c.ctxid, counters := List.replicate 32 0, mask := 0, start := s.timeNs
                                     pid := c.pid, desc := c.desc }] }

/-- Bytes at a virtual address of a context, where every sector translates. -/
def State.virtRead (s : State) (c : CtxDesc) (va n : Nat) : Option (List Byte) :=
  ((sectorParts va n).mapM fun p => (s.virtNat? c p.1 p.2).map (leBytes p.2)).map List.flatten

/-- A kernel header's fields (R49). -/
def headerOf (r : List Byte) : KHeader :=
  let w1 := recNat r 8 8
  { entry := recNat r 0 4, regs := 8 * bits w1 0 4, streets := bits w1 4 5, spad := bits w1 9 11, pans := bits w1 20 9
    chans := bits w1 29 7, colours := bit w1 36, winreg := bit w1 37, safefirst := recNat r 0x10 4, safecount := recNat r 0x14 4 }

/-- Whether a kernel header keeps R49. -/
def headerFine (r : List Byte) : Bool :=
  let h := headerOf r
  bits (recNat r 8 8) 38 26 == 0 && recZero r 0x34 4 && recZero r 0x38 8 && h.entry % 4 == 0
    && decide (8 ≤ h.regs) && decide (h.regs ≤ 64) && decide (1 ≤ h.streets) && decide (h.streets ≤ 16)
    && decide (h.spad ≤ 1024) && decide (h.pans ≤ 256) && decide (h.chans ≤ 64)

/-- The matrix operation of a task's KIND. -/
def taskMx (kind : Nat) : MxKind := if kind = 1 then .mmt else if kind = 2 then .mmts else .mmm

/-- Bytes of the descriptor of a KIND (R288, R340). -/
def descBytes (kind : Nat) : Nat := if kind ≤ 3 then 128 else if kind = 4 then 192 else 64

/-- x0, y0, width and height of a LAUNCH descriptor (R288). -/
def districtOf (d : List Byte) : Nat × Nat × Nat × Nat :=
  let v := recNat d 0x10 8
  (bits v 0 6, bits v 8 5, bits v 16 6 + 1, bits v 24 5 + 1)

/-- The fields of a descriptor that ingestion checks (R288, R289, R340). -/
def descOk (kind : Nat) (d : List Byte) : Bool :=
  match kind with
  | 1 | 2 => tileOk (taskMx kind) d && recZero d 0x50 8 && recZero d 0x58 40
  | 3 => tileOk .mmm d && recZero d 0x58 40
  | 4 => copyOk false d
  | 5 => recNat d 0 8 % 64 == 0 && recNat d 0x10 8 % 64 == 0 && recZero d 0x20 32
    && decide (1 ≤ recNat d 0x18 8) && decide (recNat d 0x18 8 ≤ 65536)
  | _ =>
    let v := recNat d 0x10 8
    bits v 6 2 == 0 && bits v 13 3 == 0 && bits v 22 2 == 0 && bits v 29 35 == 0 && recZero d 0x28 24

/-- The second copy that the scheduler takes: the kernel header of a LAUNCH, the program of a TRAVBATCH (R255, R340). -/
def State.secondCopy (s : State) (r : TaskRec) (d : List Byte) : Option (List Byte) :=
  match r.kind with
  | 5 => (s.virtRead r.ctx (recNat d 0 8) 16).bind fun h => s.virtRead r.ctx (recNat d 0 8) (progBytes (recNat h 0 8))
  | 6 => s.virtRead r.ctx (recNat d 0 8) 64
  | _ => some []

/-- The checks of ingestion (R255, R289): the record with its copies, or the reason of its refusal. -/
def State.acceptTask (s : State) (r : TaskRec) : Except Nat TaskRec :=
  if r.waits.any fun w => (s.blockOfSid? (BitVec.ofNat 32 w.1)).isNone then .error 2
  else if r.opnd % 64 != 0 || (r.inputs ++ r.outputs).any (fun g => g.len == 0) then .error 1
  else
    match s.virtRead r.ctx r.opnd (descBytes r.kind) with
    | none => .error 1
    | some d =>
      if !descOk r.kind d then .error 1
      else
        match s.secondCopy r d with
        | none => .error 1
        | some h =>
          if r.kind = 5 && !progOk h then .error 1
          else
            let ws := r.waits.filter fun w => match s.blockOfSid? (BitVec.ofNat 32 w.1) with
              | some b => decide ((b.tl w.2.1).value < w.2.2)
              | none => true
            .ok { r with desc := d, hdr := h, waits := ws, state := if ws.isEmpty then .ready else .waiting, seq := s.nextId }

/-- The fault that the scheduler's read of some bytes of a context meets, in the name of the street that posted the record (R317, log
entry 34). -/
def State.readFault (s : State) (r : TaskRec) (va n : Nat) : Option XFault :=
  (sectorParts va n).findSome? fun p =>
    if !canonical p.1 then some ⟨p.1, r.ctx.ctxid, r.sid.toNat, 3, 0, 0, 0⟩
    else match walkNow s 0 r.ctx p.1 .read with | .fault f => some { f with agent := r.sid.toNat } | _ => none

/-- The fault that the taking of a record's copies meets, where no check before it refuses the record (R255, R317). -/
def State.taskFault (s : State) (r : TaskRec) : Option XFault :=
  if r.opnd % 64 != 0 || r.waits.any fun w => (s.blockOfSid? (BitVec.ofNat 32 w.1)).isNone then none
  else
    match s.readFault r r.opnd (descBytes r.kind), s.virtRead r.ctx r.opnd (descBytes r.kind) with
    | some f, _ => some f
    | none, some d =>
      if !descOk r.kind d then none
      else
        match r.kind with
        | 5 => (s.readFault r (recNat d 0 8) 16).or ((s.virtRead r.ctx (recNat d 0 8) 16).bind fun h =>
            s.readFault r (recNat d 0 8) (progBytes (recNat h 0 8)))
        | 6 => s.readFault r (recNat d 0 8) 64
        | _ => none
    | none, none => none

/-- The scheduler of a die waits for the service of a fault (R161, R317). -/
def State.holdScheduler (s : State) (die : Nat) (f : XFault) : State := (s.onDie die fun d => { d with held := some f }).walkFault die f

/-- A record enters the ready pool of a die, or is refused (R255). -/
def State.enterPool (s : State) (die : Nat) (r : TaskRec) : State :=
  match s.acceptTask r with
  | .ok q => { s with nextId := s.nextId + 1 }.onDie die fun d => { d with pool := d.pool ++ [q] }
  | .error n => s.taskRefuse r n

/-- The least number in a list above a bound, else the least of all. -/
def nextAbove (n : Nat) (l : List Nat) : Option Nat :=
  let least (xs : List Nat) : Option Nat := xs.foldl (fun (m : Option Nat) x => some (match m with | some y => Nat.min x y | none => x)) none
  (least (l.filter fun x => decide (n < x))).or (least l)

/-- INGESTION (R255, R304): one record in 64 cycles, round-robin over the queues of the die's blocks in the order of their numbers (DESIGN
CHOICE, log entry 81), while the pool has room. A fault on its descriptor or header is serviced first (R317). -/
def execIngestion (die : Nat) (s : State) : Res :=
  let d := s.die die
  let soon := match d.lastIngest with | some c => decide (s.clock < c + 64) | none => false
  if soon || 4096 ≤ d.pool.length || d.held.isSome then .next s
  else
    match nextAbove d.rr ((s.allBlocks.filter fun b => coreDie b.core == die && b.posted?.isSome).map (·.id)) with
    | none => .next s
    | some id =>
      match (s.block? id).bind (·.posted?) with
      | some r =>
        match s.taskFault r with
        | some f => .next (s.holdScheduler die f)
        | none =>
          let s := s.onBlock id fun b => { b with plq := b.plq.tail }
          let s := s.onDie die fun d => { d with rr := id, lastIngest := some s.clock }
          .next ((s.enterPool die r).drainCheck id)
      | none => .next s

/-- DIRECT_POST (R254, R289): a record of the host or the resident OS, in the name of the context of a descriptor. -/
def execDirectPost (die ctx addr tid : Nat) (record : List Byte) (s : State) : Res :=
  let c := readCtx s.mem ctx
  let (id, s) := (s.ensureArea c).fresh
  let r := taskOf record id die addr 0 c tid none
  if record.length != 128 || !recOk record then .next (s.taskRefuse r 1)
  else if 4096 ≤ (s.die die).pool.length || !(s.die die).directq.isEmpty then
    .next (s.onDie die fun d => { d with directq := d.directq ++ [r] })
  else
    match s.taskFault r with
    | some f => .next ((s.onDie die fun d => { d with pool := d.pool ++ [r] }).holdScheduler die f)
    | none => .next (s.enterPool die r)

/-- The pan pairs of a cluster's engine that are taken (R239, R268). -/
def State.pairsTaken (s : State) (cluster : Nat) : List Nat :=
  let blocks := (s.allBlocks.filter fun b => b.cluster == cluster).map fun b =>
    ((List.range ((b.hdr.pans + 1) / 2)).filter fun i => !(b.life == .draining && b.panFreed.contains i)).map (b.panBase / 2 + ·)
  blocks.flatten ++ (s.engine cluster).ops.map (·.pan / 2)

/-- The lowest run of n free pan pairs of a cluster (R239). -/
def State.pairFit (s : State) (cluster n : Nat) : Option Nat :=
  let used := s.pairsTaken cluster
  (List.range 129).find? fun a => decide (a + n ≤ 128) && (List.range n).all fun i => !used.contains (a + i)

/-- The cores of a district, row by row (R235). -/
def districtCores (x0 y0 w h : Nat) : List Nat :=
  (List.range h).flatMap fun dy => (List.range w).map fun dx => coreAt (x0 + dx) (y0 + dy)

/-- The street of a block in a slot as R52, R54 and R153 give it at its placement. -/
def newStreet (b : Block) (clock slot sindex gen : Nat) : Street :=
  let sid := mkSid gen b.core slot
  { Street.absent with
    life := .running, sid := sid, block := b.id, core := b.core, slot := slot, sindex := sindex, placed := clock, ready := clock
    thand := BitVec.ofNat 64 b.ctx.thand &&& ~~~(3 : Addr), tsave := Config.placedTsave sid &&& ~~~(0xFF : Addr)
    fstk := Config.placedFstk sid &&& ~~~(0x1FF : Addr), ctxflags := BitVec.ofNat 32 b.ctx.flags
    paths := (Vector.replicate 8 PathEntry.free).set 0
      { pc := BitVec.ofNat 64 (b.text + b.hdr.entry), mask := Mask.all, depth := 0, reason := .branch, age := 0, grant := 0
        wait := .none } }

/-- Place one block of a LAUNCH on a core, when everything R163 counts is free there (R164, R239). -/
def State.placeBlock (s : State) (r : TaskRec) (c : CtxDesc) (x0 y0 w h core : Nat) (primary : Bool) : Option (State × Nat) :=
  let hdr := headerOf r.hdr
  match s.coreFit core hdr, s.pairFit (coreCluster core) ((hdr.pans + 1) / 2) with
  | some (slots, base), some pair =>
    let (id, s) := s.fresh
    let gens := (s.core core).gens
    let sids := slots.map fun k => mkSid (nth gens k + 1) core k
    let b : Block := { Block.absent with
      life := .placed, id := id, ctx := c, core := core, hdr := hdr, task := r.id, x0 := x0, y0 := y0, width := w, height := h
      high := r.high, tid := r.tid, text := recNat r.desc 8 8, safetab := recNat r.desc 0x18 8, livetab := recNat r.desc 0x20 8
      sids := sids, spadBase := base, panBase := 2 * pair, primary := primary }
    let ts := slots.zipIdx.map fun k => newStreet b s.clock k.1 k.2 (nth gens k.1 + 1)
    let s : State := { s with blocks := s.blocks ++ [b], streets := s.streets ++ ts }.freshWords b base sids
    let s := s.onCore core fun k => { k with gens := slots.foldl (fun g i => g.modify i (· + 1)) k.gens }
    some (s, id)
  | _, _ => none

/-- Place a LAUNCH's blocks on a list of cores, all of them or none (R164). -/
def State.placeCores (s : State) (r : TaskRec) (c : CtxDesc) (x0 y0 w h : Nat) (primary : Bool) :
    List Nat → Option (State × List Nat)
  | [] => some (s, [])
  | k :: ks =>
    match s.placeBlock r c x0 y0 w h k primary with
    | none => none
    | some (s, id) => (s.placeCores r c x0 y0 w h primary ks).map fun p => (p.1, id :: p.2)

/-- Whether a core takes new blocks of a record: no restore is due there (R175), and no other record reserves it (R257). -/
def State.coreOpen (s : State) (r : TaskRec) (core : Nat) : Bool :=
  !(s.allBlocks.any fun b => b.core == core && s.restoreDue b)
    && (List.range 4).all fun d => (s.die d).pool.all fun q =>
      !(q.reserved && q.id != r.id && q.state == .ready
        && (let g := districtOf q.desc; (districtCores g.1 g.2.1 g.2.2.1 g.2.2.2).contains core))

/-- A new pair's state in one of its streets (R366, R367). -/
def newPair (primary : Bool) (twin : StreetId) (t : Street) : Pair :=
  { primary := primary, twin := twin, crc := 0, count := 0, stores := [], waiting := none, go := false, folded := false
    check := some t.checkpoint, retried := false, granted := [] }

/-- Join two blocks as primary and twin (R366). -/
def State.joinTwins (s : State) (p t : Nat) : State :=
  match s.block? p, s.block? t with
  | some a, some b =>
    let s := (s.onBlock p fun k => { k with twin := some t }).onBlock t fun k => { k with twin := some p }
    (a.sids.zip b.sids).foldl (fun s x =>
      (s.onStreet x.1 fun u => { u with pair := some (newPair true x.2 u) }).onStreet x.2
        fun u => { u with pair := some (newPair false x.1 u) }) s
  | _, _ => s

/-- Where the twin of a district may lie: districts of the same shape that share no cluster with it, by their first cores (R366). -/
def twinPlaces (x0 y0 w h : Nat) : List (Nat × Nat) :=
  let mine := (districtCores x0 y0 w h).map coreCluster
  ((List.range (33 - h)).flatMap fun y => (List.range (49 - w)).map fun x => (x, y)).filter fun p =>
    !(districtCores p.1 p.2 w h).any fun k => mine.contains (coreCluster k)

/-- A place for the twin of a district: the first that fits (R366). -/
def State.placeTwin (s : State) (r : TaskRec) (c : CtxDesc) (x0 y0 w h : Nat) : Option (State × List Nat) :=
  (twinPlaces x0 y0 w h).findSome? fun p =>
    let cs := districtCores p.1 p.2 w h
    if !cs.all (s.coreOpen r) then none else s.placeCores r c p.1 p.2 w h false cs

/-- Place a LAUNCH (R164, R257, R366): the state with its blocks, and their identities. -/
def State.placeLaunch (s : State) (r : TaskRec) : Option (State × List Nat) :=
  let c := readCtx s.mem r.ctx.desc
  let (x0, y0, w, h) := districtOf r.desc
  let cs := districtCores x0 y0 w h
  if !cs.all (s.coreOpen r) then none
  else
    match (s.ensureArea c).placeCores r c x0 y0 w h true cs with
    | none => none
    | some (t, ids) =>
      if !r.paired then some (t, ids)
      else (t.placeTwin r c x0 y0 w h).map fun p =>
        ((ids.zip p.2).foldl (fun s q => s.joinTwins q.1 q.2) p.1, ids ++ p.2)

/-- The physical 4 KiB units of some regions of a context (R258, R287). -/
def State.regionUnits (s : State) (c : CtxDesc) (gs : List Region) : List Nat :=
  gs.flatMap fun g => (List.range (g.len / 4096)).filterMap fun i => (virtPa? s c (wrap64 (g.base + 4096 * i))).map (· / 4096)

/-- A LAUNCH starts: its input regions leave the L1s of its cores (R258). -/
def State.dropInputs (s : State) (r : TaskRec) (cores : List Nat) : State :=
  let us := s.regionUnits r.ctx r.inputs
  if us.isEmpty then s
  else s.mapCores fun k => if cores.contains k.idx then
    { k with l1 := k.l1.filter fun x => !us.contains (x.pa * 32 / 4096) } else k

/-- Why a LAUNCH is refused at dispatch (R289): 0 where it is not. -/
def launchRefusal (r : TaskRec) : Nat :=
  let hdr := headerOf r.hdr
  let (x0, y0, w, h) := districtOf r.desc
  if !headerFine r.hdr || (r.paired && (hdr.chans != 0 || hdr.pans != 0)) then 5
  else if 48 < x0 + w || 32 < y0 + h || 128 < hdr.granules then 6
  else
    let cs := (districtCores x0 y0 w h).map coreCluster
    let need := 2 * ((hdr.pans + 1) / 2)
    if (List.range 16).any fun k => decide (256 < (cs.filter (· == k)).length * need) then 7 else 0

/-- FMT and BL of the page at an address of a context, where it translates. An operand that does not translate at dispatch takes no part in
the format check, and a mismatch that shows at its fetch ends the task then (R88; DESIGN CHOICE, log entry 81). -/
def State.pageAt (s : State) (c : CtxDesc) (va : Nat) : Option (Nat × Nat) :=
  match walkNow s 0 c va .read with
  | .ok _ pte _ _ _ => some (elemFmt pte, pteBL pte)
  | _ => none

/-- Whether a base and a stride keep the alignment of the formatted page they start on; those on a plain page the operation meets as it
runs (R280, R281, R289). -/
def State.rowAligned (s : State) (c : CtxDesc) (base stride : Nat) : Bool :=
  match walkNow s 0 c base .read with
  | .ok _ pte _ _ _ =>
    let u := unitBytes (elemFmt pte) (pteBL pte)
    pteFMT pte == 0 || (base % u == 0 && stride % u == 0)
  | _ => true

/-- Why a matrix task is refused at dispatch (R289): 0 where it is not; operands whose pages do not translate yet are left out (log entry
81). -/
def State.matrixRefusal (s : State) (r : TaskRec) : Nat :=
  let t := tileOf r.desc
  let kind := taskMx r.kind
  let ops := [(t.abase, t.astride), (t.bbase, t.bstride)]
    ++ if kind = .mmm then [(t.aux1, t.astride), (t.aux2, t.bstride)] else []
  let cs := (recNat r.desc 0x40 8, recNat r.desc 0x48 8) ::
    if kind = .mmm then [(recNat r.desc 0x50 8, recNat r.desc 0x48 8)] else []
  if !fmtsAgree (ops.filterMap fun p => (s.pageAt r.ctx p.1).map (·.1)) then 3
  else if (ops ++ cs).all fun p => s.rowAligned r.ctx p.1 p.2 then 0 else 4

/-- The copy engine of a die that takes a COPY task: the lowest of those with the fewest operations in flight (R257, log entry 9). -/
def State.taskEngine (s : State) (die : Nat) : Nat :=
  let n (a : Nat) : Nat := (s.copies.filter fun c => c.agent == a).length
  ((List.range 8).map (agentCopy (4 * die))).foldl (fun best a => if n a < n best then a else best) (agentCopy (4 * die) 0)

/-- Whose block a task's copy is relative to, and the copy itself (R288, R292). -/
def State.taskCopy (s : State) (die : Nat) (r : TaskRec) (id : Nat) : CopyOp :=
  let v := recNat r.desc 0x90 8
  { id := id, kind := .cpy, sid := r.sid, block := ((s.blockOfSid? r.sid).map (·.id)).getD 0, ctx := r.ctx, core := 384 * die
    desc := r.desc, addr := r.opnd
    coords := [coord v, coord (v / 2 ^ 16), coord (v / 2 ^ 32), coord (v / 2 ^ 48), 0], tl := none, task := some r.id
    fault := none, agent := s.taskEngine die }

/-- Why a COPY task is refused at dispatch (R289): 0 where it is not. -/
def State.copyTaskRefusal (s : State) (die : Nat) (r : TaskRec) : Nat :=
  let c := s.taskCopy die r 0
  let blk := (s.block? c.block).getD Block.absent
  match planCopy { agent := c.agent, ctx := c.ctx } blk .cpy c.desc c.coords s with
  | .ok (.error n, _) => n
  | .error (.bad n) => n
  | _ => 0

/-- A COPY task starts, with its ranges recorded; one into a scratchpad whose core holds 16 waits (R184, R257). -/
def State.startTaskCopy (s : State) (die : Nat) (r : TaskRec) : Option State :=
  let (id, s) := s.fresh
  let c := s.taskCopy die r id
  let gs := copyRanges s ((s.block? c.block).getD Block.absent) c.desc
  if s.rangesFull gs then none
  else
    let s := s.recordRanges id gs
    some { s with copies := s.copies ++ [c] }

/-- A matrix task starts on the lowest cluster of the die with a free pan pair (R239, R257, R288). -/
def State.startMatrix (s : State) (die : Nat) (r : TaskRec) : Option State :=
  ((List.range 4).map (4 * die + ·)).findSome? fun k =>
    (s.pairFit k 1).map fun pair =>
      let (id, s) := s.fresh
      let op : MxOp := {
        id := id, kind := taskMx r.kind, tile := tileOf r.desc, recAddr := r.opnd, pan := 2 * pair, state := .queued, kprog := 0
        phase := if r.cload then 0 else 1, summary := 0, tl := none, sid := r.sid, passed := 0, aged := false, fault := none
        task := some r.id, cluster := k
        c := { cbase := recNat r.desc 0x40 8, cstride := recNat r.desc 0x48 8, cvbase := recNat r.desc 0x50 8, cload := r.cload }
        acc := [] }
      s.onEngine k fun e => { e with ops := e.ops ++ [op] }

/-- Records of any die that a placement passes over: READY LAUNCHes that could not be placed, once for each block placed on a
core of their districts (R257). -/
def State.passOver (s before : State) (r : TaskRec) (cores : List Nat) : State :=
  (List.range 4).foldl (fun s d => s.onDie d fun k => { k with pool := k.pool.map fun q =>
    if q.kind = 6 && q.state == .ready && q.id != r.id && (before.placeLaunch q).isNone then
      let g := districtOf q.desc
      let n := (cores.filter fun c => (districtCores g.1 g.2.1 g.2.2.1 g.2.2.2).contains c).length
      { q with passed := q.passed + n }
    else q }) s

/-- Try to start a READY record (R257): the state in which it runs, or in which it is refused; none where it cannot start. -/
def State.startTask (s : State) (die : Nat) (r : TaskRec) : Option State :=
  let gone (n : Nat) : State := (s.onDie die fun d => d.leave r.id).taskRefuse r n
  let run (s : State) : State := s.onTask die r.id fun q => { q with state := .running }
  match r.kind with
  | 1 | 2 | 3 =>
    match s.matrixRefusal r with
    | 0 => (s.startMatrix die r).map run
    | n => some (gone n)
  | 4 =>
    match s.copyTaskRefusal die r with
    | 0 =>
      (s.startTaskCopy die r).map run
    | n => some (gone n)
  | 5 => some ((run s).batchStart die r.id 256)
  | _ =>
    match launchRefusal r with
    | 0 =>
      (s.placeLaunch r).map fun p =>
        let cores := p.2.filterMap fun id => (p.1.block? id).map (·.core)
        let t := (run p.1).onTask die r.id fun q => { q with blocks := p.2, reserved := false }
        (t.dropInputs r cores).passOver s r cores
    | n => some (gone n)

/-- The better of two READY records: high priority, then the older (R257). -/
def TaskRec.before (a b : TaskRec) : Bool := (a.high && !b.high) || (a.high == b.high && decide (a.seq ≤ b.seq))

/-- Insert a record in the order of dispatch. -/
def insertTask (r : TaskRec) : List TaskRec → List TaskRec
  | [] => [r]
  | q :: qs => if r.before q then r :: q :: qs else q :: insertTask r qs

/-- DISPATCH (R254, R257): a direct post that has found room enters; else the first READY record that can start does. -/
def execDispatch (die : Nat) (s : State) : Res :=
  match (s.die die).pool.find? fun r => r.state == .pending && (s.die die).held.isNone with
  | some r =>
    match s.taskFault r, s.acceptTask r with
    | some f, _ => .next (s.holdScheduler die f)
    | none, .ok _ => .next ((s.onDie die fun d => { d with pool := d.pool.filter fun q => q.id != r.id }).enterPool die r)
    | none, .error n => .next ((s.onDie die fun d => d.leave r.id).taskRefuse r n)
  | none =>
    let rs := ((s.die die).pool.filter fun r => r.state == .ready).foldr insertTask []
    match rs.findSome? (s.startTask die) with
    | some t => .next t
    | none => .next s

/-- LAUNCH_RESERVATION (R257). -/
def execLaunchReservation (die : Nat) (s : State) : Res :=
  .next (s.onDie die fun d => { d with pool := d.pool.map fun r =>
    if r.kind = 6 && r.state == .ready && decide (64 ≤ r.passed) then { r with reserved := true } else r })

/-- Whether the scratchpad range of a block stands where some bytes would fit, among the ranges of blocks that are no swap candidates. -/
def State.spadBlocks (s : State) (b : Block) (n : Nat) : Bool :=
  let kept := ((s.placedOn b.core).filter fun k => !k.candidate && k.spadBytes != 0).map fun k => (k.spadBase, k.spadBase + k.spadBytes)
  b.spadBytes != 0 && ((List.range 1025).map (· * 256)).any fun a =>
    decide (a + n ≤ 262144) && decide (a < b.spadBase + b.spadBytes) && decide (b.spadBase < a + n)
      && kept.all fun u => decide (a + n ≤ u.1) || decide (u.2 ≤ a)

/-- Whether a core falls short of what a block needs in something that one of its blocks holds: slots, granules or scratchpad (R305). -/
def State.shortBy (s : State) (b : Block) (h : KHeader) : Bool :=
  let on := s.placedOn b.core
  decide ((s.freeSlots b.core).length < h.streets) || decide (128 < on.foldl (fun n k => n + k.hdr.granules) h.granules)
    || ((spadFit (s.spadUsed b.core) (h.spad * 256)).isNone && s.spadBlocks b (h.spad * 256))

/-- Whether a READY LAUNCH cannot be placed for want of slots, granules or scratchpad that a block holds, in the district that it
names, or, where that alone is free, in one where its twin may lie (R305, R366). -/
def State.wantsCore (s : State) (b : Block) (q : TaskRec) : Bool :=
  let (x0, y0, w, h) := districtOf q.desc
  let at_ (x y : Nat) : Bool := (districtCores x y w h).contains b.core
  q.kind == 6 && q.state == .ready && launchRefusal q == 0 && s.shortBy b (headerOf q.hdr) && (s.placeLaunch q).isNone
    && if (s.placeLaunch { q with paired := false }).isNone then at_ x0 y0
      else (twinPlaces x0 y0 w h).any fun p => at_ p.1 p.2

/-- Whether the resident OS swaps the other twin of a pair out, so that this one is saved with it (R368). -/
def State.twinOrdered (s : State) (b : Block) : Bool := (s.twinOf b).any fun k => k.save.any fun q => q.kind == 2

/-- SWAP_OUT (R175, R305, R368): the resident OS orders a save with KIND 2 of a swap candidate that a READY LAUNCH needs, and of its
twin. -/
def execSwapOut (block image : Nat) (s : State) : Res :=
  match s.block? block with
  | some b =>
    if b.life == .placed && b.save.isNone && image % 256 == 0
        && (s.twinOrdered b || (b.candidate && (List.range 4).any fun d => (s.die d).pool.any (s.wantsCore b))) then
      .next (s.onBlock block fun b => { b with save := some { kind := 2, image := image, since := s.clock } })
    else .next s
  | none => .next s

/-- TIMELINE_ADVANCE (R250): a draining block whose last operation it ends has finished draining (R268). -/
def execTimelineAdvance (block tl : Nat) (s : State) : Res := .next ((s.advanceTurn block tl).drainCheck block)

end Sys2Proof.Machine
end

