-- ==== Sys2Proof/Machine/Events.lean ====
section
/-! DEFINITION. Events of a core and its surroundings: fault points and serviced faults (R29, R161), monitors (R186), sent
reductions and remote accesses (R327, R378, R379, R388), halts and continuing (R155, R371), compare points of pairs (R368),
soft errors (R365), the arithmetic cycle (R169, R175, R179, R357, R374), and the end of a context (R390). -/

namespace Sys2Proof.Machine

/-- FAULT_POINT (R29): the instruction of the index-th open window of a street passes its fault point: its result and its flags
are written, and the window holds nothing back any more. An access to a pan is made then, once what it waits for is over (R241). -/
def execFaultPoint (street : StreetId) (index : Nat) (s : State) : Res :=
  let drop (s : State) : State := s.onStreet street fun t => { t with windows := t.windows.eraseIdx index }
  match (s.street? street).bind fun t => (t.windows[index]?).bind (·.pan) with
  | none => .next (drop s)
  | some w => if s.panReady w then .next ((drop s).panServe street w) else .next s

/-- Completions that waited go on, and a draining block whose last one is over has finished draining (R260, R268). -/
def State.lateOver (s : State) (f : State → State) : State :=
  (s.late.map (·.c.block)).foldl (fun s b => s.drainCheck b) (f s)

/-- The waiting agent of a serviced fault goes on (R161, R245, R261, R335); a street that waited for its hold table writes it (R220). -/
def State.serviced (s : State) (who : Waiter) : State :=
  match who with
  | .street sid =>
    let table := (s.street? sid).any fun t => t.svc.any fun f => decide ((f.va + 2 ^ 64 - t.holdBase) % 2 ^ 64 < 32768)
    let s := s.onStreet sid fun t => if t.svc.isSome then { t with svc := none, stall := none } else t
    if table then s.writeHolds sid else s
  | .mxop id => s.mxServiced id
  | .copy id =>
    { s with copies := s.copies.map fun (c : CopyOp) => if c.id = id then { c with fault := none } else c }.lateOver
      fun s => s.lateServiced id
  | .scheduler die => s.onDie die fun d => { d with held := none }
  | .walk id => { s with walks := s.walks.map fun (w : Walk) => if w.id = id then { w with fault := none } else w }

/-- SERVICED_FAULT_REPLAY (R161): the resident OS has written its page tables, and the instruction replays. -/
def execServicedFaultReplay (who : Waiter) (fix : List Host.Cell) (s : State) : Res :=
  .next ((s.applyFix fix).serviced who)

/-- MONITOR_FIRE (R186, R201): a monitored line leaves L2, or its unit fires the monitor. -/
def execMonitorFire (line : Nat) (s : State) : Res :=
  match s.l2.find? fun l => l.line == line with
  | some l => .next (s.dropLine l)
  | none => .next (s.fireLine line)

/-- Bytes of a reduction's operand. -/
def Mred.bytes (r : Mred) : Nat := if r.w then 8 else 4

/-- MRED_PERFORM (R65, R327): a sent reduction is performed once no earlier one of its street on its bytes is outstanding, whatever
lanes sent them (DESIGN CHOICE, log entry 57). -/
def execMredPerform (red : Nat) (s : State) : Res :=
  match s.mreds.find? fun r => r.id == red with
  | none => .next s
  | some r =>
    if s.mreds.any fun q => q.sid == r.sid && decide (q.id < r.id) && decide (q.pa < r.pa + r.bytes)
        && decide (r.pa < q.pa + q.bytes) then .next s
    else .next (s.performMred r)

/-- A read-modify-write that arrives from another device (R199, R327, R378): poisoned data is left as it is (log entry 68). -/
def State.remoteRmw (s : State) (pa : Nat) (aop : Aop) (w : Bool) (x y : Addr) : State :=
  let n := if w then 8 else 4
  let ms := s.mapsMs pa
  match s.badSector pa n ms with
  | some b => s.meetBad b 0 0xFFFFFFFF ms
  | none =>
    let r := s.loadCopy pa n 0 ms
    r.2.store none pa (leBytes n (aopApply aop w (BitVec.ofNat 64 (leNat r.1)) x y).toNat) 0 ms

/-- How an access that arrives from another device counts (R320). -/
def remoteAcc : RemoteOp → Acc
  | .load _ => .read
  | .store _ | .reduce _ _ _ => .write
  | .atomic _ _ _ _ | .bar _ => .atomic

/-- The leaf under a table that maps a physical address of this device: the entry, where it stands, and its page (R314, R315). -/
def leafFor (m : Memory) (pa : Nat) : List (Nat × Nat × Nat) → Nat → Nat → Option (Nat × Nat × Nat × Nat)
  | [], _, _ => none
  | (level, lo, w) :: rest, table, base =>
    (m.window table (8 * 2 ^ w)).findSome? fun c =>
      let i := (c.1 - table) / 8
      let e := m.nat (table + 8 * i) 8
      if !pteV e || pteBad level e then none
      else if pteLeaf e then
        if !pteRH e && decide (ptePFN e * 2 ^ 18 ≤ pa) && decide (pa < ptePFN e * 2 ^ 18 + 2 ^ lo) then
          some (e, table + 8 * i, base + i * 2 ^ lo, 2 ^ lo)
        else none
      else leafFor m pa rest (bits e 10 42 * 1024) (base + i * 2 ^ lo)

/-- The translation that an access from another device counts in: one in use that maps its page, else the leaf of the first context whose
tables map it, kept at its port (R320; DESIGN CHOICE, log entry 67). -/
def State.arrivalEntry (s : State) (pa : Nat) : Option TlbEntry :=
  match s.tlbs.find? fun e => e.maps pa with
  | some e => some e
  | none =>
    (s.allBlocks.map (·.ctx) ++ (s.dies.flatMap fun d => d.pool.map (·.ctx)) ++ s.ctxs.map fun a => readCtx s.mem a.desc).findSome? fun c =>
      (leafFor s.mem pa ptLevels c.ptroot 0).map fun x =>
        { agent := agentLink (dieOfPa pa), ctx := c.ctxid, base := x.2.2.1, size := x.2.2.2, pte := x.1, eaddr := x.2.1, scale := none
          reads := 0, writes := 0, remote := 0 }

/-- An access from another device counts, in REMOTE too, in the deltas of its page (R320). -/
def State.countArrival (s : State) (pa : Nat) (op : RemoteOp) : State :=
  match s.arrivalEntry pa with
  | none => s
  | some e =>
    let s := if s.tlbs.contains e then s else { s with tlbs := e :: s.tlbs }
    let k := e.count (remoteAcc op) true
    let put (s : State) (x : TlbEntry) : State := { s with tlbs := s.tlbs.map fun (y : TlbEntry) => if y = e then x else y }
    match k.due, s.ctxDesc? e.ctx with
    | true, some c => put (s.flushEntry c k) k.flushed
    | _, _ => put s k

/-- A barrier of this device serves a request of another (R263 to R266, R378): its members are streets of the other device, of which
nothing is known here (DEDUCED, log entry 24). -/
def State.barServe (s : State) (pa : Nat) (req : BarReq) : State :=
  let q := BarPlace.global pa
  match req, (s.bar? q).filter fun b => b.valid with
  | .arrive w, some b => if b.aband then s else s.barArrive { b with far := b.far || w } none
  | .arrive _, none => s
  | .init scope qsz expected, b =>
    if b.isSome && s.barWaiters q then s
    else s.putBar { place := q, valid := true, aband := false, scope := scope, qsz := qsz, phase := (b.map (·.phase)).getD 0
                    expected := expected, arrived := 0, members := [], off := false, far := false }
  | .inv, some b => let b' := { b with valid := false, far := false }; (s.putBar b').barResume b' 1 b.phase
  | .inv, none => s

/-- REMOTE_ACCESS (R320, R378): this device is the home of the access. -/
def execRemoteAccess (pa : Nat) (op : RemoteOp) (s : State) : Res :=
  let pa := pa % 2 ^ 39
  if !hbmHas pa then .fault (.noMemory pa)
  else
    let s := s.countArrival pa op
    match op with
    | .load n => .next (s.loadCopy pa n 0 (s.mapsMs pa)).2
    | .store d => .next (s.store none pa d 0 (s.mapsMs pa))
    | .atomic aop w x y => .next (s.remoteRmw pa aop w x y)
    | .reduce aop w x => .next (s.remoteRmw pa aop w x 0)
    | .bar req => .next (s.barServe pa req)

/-- Split the bytes of a reply over the accesses of one request, in their order. -/
def splitReply : List Byte → List RemoteReq → List RemoteReq
  | _, [] => []
  | v, r :: rs =>
    let n := returnBytes r.op
    { r with reply := some (.data (v.take n)) } :: splitReply (v.drop n) rs

/-- The accesses of a request that has no answer, reads and atomics first, and every other access (R378). -/
def State.ofRequest (s : State) (req : Nat) : List RemoteReq × List RemoteReq × List RemoteReq :=
  let mine := s.remote.filter fun r => r.id == req && r.reply.isNone
  let p := mine.partition fun r => decide (0 < returnBytes r.op)
  (p.1, p.2, s.remote.filter fun r => !(r.id == req && r.reply.isNone))

/-- The home of a request cannot be reached (R379): its reads meet an error when they run again, its stores and reductions are
dropped with ASYNC_REMOTE_LOST. -/
def State.remoteLost (s : State) (req : Nat) : State :=
  let (reads, writes, others) := s.ofRequest req
  let s : State := { s with remote := others ++ reads.map fun (r : RemoteReq) => { r with reply := some .unreachable } }
  let s := s.barReplies
  match writes with
  | [] => s
  | r :: _ => (s.asyncErr r.ctx 17 (homeDevice r.pa) r.sid r.va).lateOver fun s => s.lateAcked req

/-- Every request that stands out at a device is lost (R379). -/
def State.lostHome (s : State) (dev : Nat) : State :=
  ((s.remote.filter fun r => r.reply.isNone && homeDevice r.pa == dev).map (·.id)).foldl (fun s i => s.remoteLost i) s

/-- The bytes that a remote access covers. -/
def RemoteReq.width (r : RemoteReq) : Nat := Nat.max (returnBytes r.op) (payloadBytes r.op)

/-- Whether two remote accesses have bytes in common. -/
def RemoteReq.overlaps (r q : RemoteReq) : Bool := decide (r.pa < q.pa + q.width) && decide (q.pa < r.pa + r.width)

/-- Whether an access of a request stands behind an earlier one of its street: both strong, to one home (R388), or of one lane to common
bytes (R65, R388). -/
def State.behindStrong (s : State) (r : RemoteReq) : Bool :=
  !r.detached && s.remote.any fun q => q.sid == r.sid && decide (q.id < r.id) && q.reply.isNone && !q.detached
    && (r.strong && q.strong && homeDevice q.pa == homeDevice r.pa || r.lane == q.lane && r.overlaps q)

/-- The home has met poison or uncorrectable data (R327, R341, R362): reads meet it when they run again, and each reduction of the lanes
named is lost with ASYNC_RED_POISON. -/
def State.remotePoison (s : State) (req : Nat) (lanes : List Nat) : State :=
  let (reads, writes, others) := s.ofRequest req
  let s : State := { s with remote := others ++ reads.map fun (r : RemoteReq) => { r with reply := some .unreachable } }
  let red (r : RemoteReq) : Bool := lanes.contains r.lane && match r.op with | .reduce _ _ _ => true | _ => false
  ((writes.filter red).foldl (fun s r => s.asyncErr r.ctx 8 0 r.sid (r.pa / 128 * 128)) s).lateOver fun s => s.lateAcked req

/-- REMOTE_ACK (R378, R379, R388): the home device's answer to a request. Stores and reductions are over with it; reads and
atomics take their data when they run again. A device that has been declared failed answers nothing. -/
def execRemoteAck (req : Nat) (reply : RemoteReply) (s : State) : Res :=
  let (reads, writes, others) := s.ofRequest req
  if (reads ++ writes).any fun r => s.homeFailed (homeDevice r.pa) then .next (s.remoteLost req)
  else if (reads ++ writes).any s.behindStrong then .next s
  else
    match reply with
    | .data v => .next ({ s with remote := others ++ splitReply v reads ++ writes } : State).barReplies
    | .done => .next ({ s with remote := others ++ reads }.lateOver fun s => s.lateAcked req)
    | .unreachable => .next (s.remoteLost req)
    | .poisoned lanes => .next (s.remotePoison req lanes)

/-- A street is asked to stop: at its next instruction boundary; at trap level 1 at once under force, but that a compare it waits for
completes first (R375), else after the TRET (R155). -/
def State.haltStreet (s : State) (sid : StreetId) (force : Bool) : State :=
  match s.street? sid with
  | none => s
  | some t =>
    if t.life == .running && t.tlevel && force then
      if t.pair.any fun p => p.waiting.isSome || p.go then s.onStreet sid fun t => { t with haltForce := true }
      else (s.focus sid).haltStop.freePosts
    else if t.life == .running then s.onStreet sid fun t => { t with haltReq := true }
    else if t.life == .saved then s.onStreet sid fun t => { t with haltReq := true, haltForce := t.haltForce || force }
    else s

/-- A running operation of the matrix engine goes back to QUEUED at its queue's head, to resume at KPROG (R243, R246). -/
def State.mxStop (s : State) (ctx : Nat) : State :=
  let mine (o : MxOp) : Bool := (s.mxCtx o).ctxid == ctx
  let back (os : List MxOp) : List MxOp := os.map fun o => if mine o && o.state == .running then { o with state := .queued } else o
  let runs (e : Engine) (i : Nat) : Bool := (e.ops ++ s.allBlocks.flatMap (·.mxq)).any fun o => o.id == i && mine o
  { s.mapBlocks fun b => { b with mxq := back b.mxq } with
    engines := s.engines.map fun (e : Engine) => { e with ops := back e.ops, run := e.run.filter fun i => !runs e i } }

/-- HALT_REQUEST (R155, R243, R370): of a street; of a thread of a system core, whose stop record names no street; or of a whole
context, whose streets stop and whose matrix operations stop between steps and wait until a CONTINUE of one of its blocks, draining
ones too; with no block there is none to wait for (log entry 66). -/
def execHaltRequest (target : HaltTarget) (force : Bool) (s : State) : Res :=
  match target with
  | .street sid => .next (s.haltStreet sid force)
  | .thread die pid tid pc => .next (s.stopRecord die pid tid 0xFFFFFFFF 19 0 pc 0 0 0)
  | .context ctx =>
    let bs := s.allBlocks.filter fun b => b.ctx.ctxid == ctx
    let sids := (s.allStreets.filter fun t => bs.any fun b => b.id == t.block).map (·.sid)
    let s := s.mxStop ctx
    .next (sids.foldl (fun s q => s.haltStreet q force) (if bs.isEmpty then s else { s with stopped := addNew s.stopped ctx }))

/-- BLOCK_HALT (R371). -/
def execBlockHalt (block : Nat) (s : State) : Res :=
  .next (s.mapStreets fun t =>
    if t.there && t.block == block && (t.life == .running || t.life == .saved) then { t with haltReq := true } else t)

/-- Whether a street is stopped for the debugger or by a halt (R371). -/
def Street.stopped (t : Street) : Bool := t.life == .debugStop || t.life == .halted

/-- A stopped street goes on, at another PC where the debugger sets one (R154, R371); one whose block is saved goes on after
the restore (R172). -/
def Street.continued (t : Street) (clock : Nat) (saved : Bool) (pc : Option Addr) : Street :=
  if !t.stopped then t
  else
    let t := { t with life := if saved then .saved else .running, ready := clock }
    match pc with
    | none => t
    | some a =>
      let i := match t.lastSel with | some i => i | none => t.sel
      { t.onPath i (fun e => { e with pc := a }) with watchSkip := none }

/-- CONTINUE (R371): every stopped street of the block resumes; one of them may be given a PC (R154). -/
def execContinueRun (block : Nat) (street : Option StreetId) (pc : Option Addr) (s : State) : Res :=
  let saved := (s.block? block).any fun b => b.life == .saved
  let s : State := match s.block? block with
    | some b => { s with stopped := s.stopped.filter fun c => c != b.ctx.ctxid }
    | none => s
  .next ((s.mapStreets fun t => if t.there && t.block == block then
    t.continued s.clock saved (if street = some t.sid then pc else none) else t).settleBlock block true)

/-- The address of a held store without the mark of a remote home (R378). -/
def heldHome (pa : Nat) : Option Nat := if 2 ^ 52 ≤ pa then some (pa - 2 ^ 52) else none

/-- Perform a held store of a pair's primary (R368): global bytes at the home, after the reductions sent before them (R65), the bits of
its mask alone (R86), also in the L1s of both twins; a reduction is sent. -/
def State.performHeld (s : State) (t : Street) (ctx : CtxDesc) (twinCore : Nat) (h : HeldStore) : State :=
  let req (pa va lane : Nat) (op : RemoteOp) : RemoteReq :=
    { id := 0, sid := t.sid, lane := lane, pa := pa, va := va, ctx := ctx, op := op, strong := true, reply := none }
  match h with
  | .spad b off d lane => s.writePlaceBy t.sid (1 <<< lane) (.spad b off) d
  | .global pa va d m lane nc _ =>
    match heldHome pa with
    | some home => (s.sendTo t.core (homeDevice home) [req home va lane (.store d)]).2
    | none =>
      let s := s.redsBefore t.sid lane pa d.length
      let bs := maskBytes (s.mem.readN pa d.length) (s.passing t.sid ctx.ctxid va pa d) m
      ((s.storeBy t.sid (1 <<< lane) pa bs ctx.ctxid (s.mapsMs pa)).l1Store t.core pa bs nc).l1Store twinCore pa bs nc
  | .red pa aop w x lane va =>
    match heldHome pa with
    | some home => (s.sendTo t.core (homeDevice home) [req home va lane (.reduce aop w x)]).2
    | none =>
      let (id, s) := s.fresh
      { s with mreds := s.mreds ++ [{ id := id, pa := pa, aop := aop, w := w, x := x, sid := t.sid, lane := lane, ctx := ctx
                                      va := va, ms := s.mapsMs pa }] }

/-- Whether a held store stays in a block's own scratchpad. -/
def HeldStore.local_ : HeldStore → Bool
  | .spad _ _ _ _ => true
  | _ => false

/-- Held stores heal the sectors that the lanes of one instruction have written whole between them (R364). -/
def State.healHeld (s : State) (hs : List HeldStore) : State :=
  let ticks := hs.foldl (fun ts h => match h with | .global _ _ _ _ _ _ k => addNew ts k | _ => ts) []
  ticks.foldl (fun s k => [false, true].foldl (fun (s : State) ms =>
    s.heal (wholeSectors (hs.filterMap fun h => match h with
      | .global pa _ _ m _ _ j => if j = k && (heldHome pa).isNone && s.mapsMs pa == ms then some (pa, m) else none
      | _ => none)) ms) s) s

/-- The stores of a pair are performed after a match (R368): each twin's own scratchpad stores, and the primary's others. -/
def State.performStores (s : State) (t u : Street) (p q : Pair) : State :=
  let ctx := match s.block? t.block with | some b => b.ctx | none => CtxDesc.zero
  let s := p.stores.foldl (fun s h => if p.primary || h.local_ then s.performHeld t ctx u.core h else s) s
  let s := q.stores.foldl (fun s h => if q.primary || h.local_ then s.performHeld u ctx t.core h else s) s
  s.healHeld (if p.primary then p.stores else q.stores)

/-- A street after a match: it may perform the access that caused the point; a count point has none, so the checkpoint is
taken at once (R367, R368). -/
def Street.matched (t : Street) (cause : Nat) : Street :=
  match t.pair with
  | none => t
  | some p =>
    let q : Pair := { p with crc := 0, count := 0, stores := [], waiting := none, retried := false }
    if cause = 1 then { t with pair := some { q with go := false, check := some t.checkpoint }, stall := none }
    else { t with pair := some { q with go := true } }

/-- A street rolled back to its last checkpoint (R368). -/
def Street.rolledBack (t : Street) (retried : Bool) : Street :=
  match t.pair with
  | none => t
  | some p =>
    let q : Pair := { p with crc := 0, count := 0, stores := [], waiting := none, go := false, folded := false
                             retried := p.retried || retried }
    match p.check with
    | none => { t with pair := some q }
    | some c =>
      { t with pair := some q, regs := c.regs, md := c.md, sr := c.sr, paths := c.paths, hscr := c.hscr, tlevel := c.tlevel
               trap := c.trap, windows := [], stall := none, svc := none
               life := if t.life == .exited && c.paths.toList.any (fun e => e.reason != .free) then .running else t.life }

/-- A street of a pair is halted by containment (R363, R368). -/
def State.containSid (s : State) (sid : StreetId) : State :=
  let s := s.focus sid
  if s.st.there && s.st.sid == sid && !s.st.over then s.contain 0 0 0 else s

/-- The record of a paired mismatch of a street with its twin, to the die of the primary block's core (R346, R365). -/
def State.pairRecord (s : State) (kind : Nat) (t : Street) (twin : StreetId) (primary : Bool) : State :=
  let a := if primary then t.sid else twin
  let b := if primary then twin else t.sid
  s.machineCheck (sidDie a) kind (match s.block? t.block with | some k => k.ctx.ctxid | none => 0) 0 a.toNat b.toNat

/-- A mismatch or an overlong wait (R368): the first rolls both blocks back, one at the same point again halts them. -/
def State.pairMismatch (s : State) (t u : Street) (p : Pair) : State :=
  if p.retried then
    let s := s.pairRecord 6 t u.sid p.primary
    let ss := (s.allStreets.filter fun x => x.block == t.block || x.block == u.block).map (·.sid)
    ss.foldl (fun s x => s.containSid x) s
  else
    let back (x : Street) : Bool := x.there && (x.block == t.block || x.block == u.block) && !(x.life == .contained)
    let s := { s with upsets := s.upsets.filter fun e => !(s.allStreets.any fun x => back x && errInRegs e.1 x.sid 0 64 Mask.all) }
    s.mapStreets fun x => if back x then
      x.rolledBack (x.sid == t.sid || x.sid == u.sid) else x

/-- COMPARE_POINT (R367, R368, R375): the twins meet, and their CRCs agree or not. A twin that containment has halted cannot
match. -/
def execComparePoint (street : StreetId) (s : State) : Res :=
  match s.street? street with
  | none => .next s
  | some t =>
    match t.pair with
    | none => .next s
    | some p =>
      match p.waiting, s.street? p.twin with
      | some (cause, _), some u =>
        match u.pair with
        | none => .next s
        | some q =>
          if u.life == .contained then .next ((s.pairRecord 6 t u.sid p.primary).containSid t.sid)
          else
            match q.waiting with
            | none => .next s
            | some (cause', _) =>
              if p.crc = q.crc ∧ cause = cause' then
                let s := if p.retried then s.pairRecord 5 t u.sid p.primary else s
                let s := s.performStores t u p q
                .next ((s.onStreet t.sid (·.matched cause)).onStreet u.sid (·.matched cause))
              else .next (s.pairMismatch t u p)
      | some _, none => .next ((s.pairRecord 6 t p.twin p.primary).containSid t.sid)
      | none, _ => .next s

/-- COMPARE_TIMEOUT (R368). -/
def execCompareTimeout (street : StreetId) (s : State) : Res :=
  match s.street? street with
  | none => .next s
  | some t =>
    match t.pair.bind fun p => p.waiting.map fun w => (p, w.2) with
    | none => .next s
    | some (p, since) =>
      if since + 2 ^ 20 < s.clock then
        match s.street? p.twin with
        | some u => .next (s.pairMismatch t u p)
        | none => .next s
      else .next s

/-- Die and bank or stack of a place of a soft error, as corrected errors are counted (R365, log entry 29). -/
def State.errPlace (s : State) (l : ErrLoc) : Nat × Nat :=
  match l with
  | .hbm sec => (dieOfPa (sec * 32), stackOf (sec * 32))
  | .unit u => (dieOfPa (u * 512), stackOf (u * 512))
  | .l2 sec => (homeSlice (sec * 32) / 32, 100 + homeSlice (sec * 32))
  | .spad core w => (coreDie core, 1000 + 100 * core + 10 * (bankOf (w * 8)).1 + (bankOf (w * 8)).2.1)
  | .parity core g _ _ => (coreDie core, 1000 + 100 * core + 10 * g + 8)
  | .reg sid _ _ => match s.street? sid with | some t => (t.die, 200000 + t.core) | none => (0, 200000)
  | .pan b _ => match s.block? b with | some k => (coreDie k.core, 300 + k.cluster) | none => (0, 300)
  | .queue b _ => match s.block? b with | some k => (coreDie k.core, 200000 + k.core) | none => (0, 200000)

/-- Count corrected errors of a place. -/
def countError (die place : Nat) : List (Nat × Nat × Nat) → List (Nat × Nat × Nat)
  | [] => [(die, place, 1)]
  | c :: cs => if c.1 = die ∧ c.2.1 = place then (die, place, c.2.2 + 1) :: cs else c :: countError die place cs

/-- Whether a place of a soft error holds a word that a reader can meet: a sector of HBM that stands in a compressed unit is a part of its
stored form, whose errors are the unit's (R323). -/
def State.holdsWord (s : State) (l : ErrLoc) : Bool :=
  match l with
  | .hbm sec => hbmHas (sec * 32) && !s.packed.contains (sec / 16)
  | .unit u => s.packed.contains u
  | .l2 sec => s.inL2 sec
  | .spad _ _ | .parity _ _ _ _ => true
  | .reg sid _ _ => (s.street? sid).isSome
  | .pan b _ => (s.block? b).isSome
  | .queue b q => match s.block? b with | some k => !(k.queues.toArray.getD q { entries := [] }).entries.isEmpty | none => false

/-- SOFT_ERROR (R180, R323, R365): one flip of a word is corrected and counted; more stand until a reader meets them. -/
def execSoftError (loc : ErrLoc) (flips : Nat) (s : State) : Res :=
  if flips = 0 || !s.holdsWord loc then .next s
  else if flips = 1 then
    let p := s.errPlace loc
    let s := { s with corrected := countError p.1 p.2 s.corrected }
    match loc with
    | .spad core _ | .parity core _ _ _ => .next (s.onCore core fun c => { c with cecnt := satAdd 16 c.cecnt 1 })
    | _ => .next s
  else .next { s with upsets := (loc, flips) :: s.upsets.filter fun u => u.1 != loc }

/-- CORRECTED_ERROR_THRESHOLD (R365): 1,024 corrected errors in one bank or stack since its last such record. -/
def execCorrectedErrorThreshold (die place : Nat) (s : State) : Res :=
  match s.corrected.find? fun c => c.1 == die && c.2.1 == place with
  | some c =>
    if 1024 ≤ c.2.2 then
      .next ({ s with corrected := s.corrected.map fun (k : Nat × Nat × Nat) =>
        if k.1 = die ∧ k.2.1 = place then (die, place, k.2.2 - 1024) else k }.machineCheck die 4 0 0 0xFFFFFFFF 0)
    else .next s
  | none => .next s

/-- PARITY_UPDATE (R179): the parity rows whose update is complete are no longer stale. -/
def execParityUpdate (core : Nat) (s : State) : Res :=
  .next (s.onCore core fun c => { c with stale := c.stale.filter fun r => decide (s.clock < r.2.2) })

/-- L1_EVICTION (R185). -/
def execL1Eviction (core line : Nat) (s : State) : Res :=
  .next (s.onCore core fun c => { c with l1 := c.l1.filter fun x => x.pa / 4 != line })

/-- YIELD_EXPIRY (R149): the cycles after a YIELD have passed. -/
def execYieldExpiry (street : StreetId) (s : State) : Res :=
  .next (s.onStreet street fun t => if t.yieldUntil ≤ s.clock then { t with yieldUntil := 0, ready := s.clock } else t)

/-- Whether a SYNC of a core is due: its clock stands at a multiple of 4,096 cycles whose SYNC is not written, or 256 packets stand after
the last one (R374). -/
def State.syncDue (s : State) (core : Nat) : Bool :=
  let t := (s.core core).tr
  let now := s.dieClock (coreDie core)
  t.en && (now % 4096 == 0 && t.time != now || decide (256 ≤ t.since))

/-- TRACE_SYNC (R374): it comes about where a SYNC is due. -/
def execTraceSync (core : Nat) (s : State) : Res := .next (if s.syncDue core then s.traceSyncNow core else s)

/-- WEIGH_DELTA_FLUSH (R357): the deltas of an agent for a context. -/
def execWeighDeltaFlush (agent ctx : Nat) (s : State) : Res :=
  .next (s.flushDeltas fun d => d.agent == agent && d.ctx == ctx)

/-- PAGE_COUNTER_FLUSH (R320): the deltas of an agent's entry for the page that holds an address. -/
def execPageCounterFlush (agent ctx page : Nat) (s : State) : Res :=
  match s.tlb? agent ctx page, s.ctxDesc? ctx with
  | some e, some c =>
    .next { s.flushEntry c e with tlbs := s.tlbs.map fun (x : TlbEntry) => if x = e then x.flushed else x }
  | _, _ => .next s

/-- The reason that a street charges in a cycle with no eligible street (R169): its code. One held at a safe point before its block is
ready charges SWAP, one that waits at a compare point MEM (DESIGN CHOICE, log entries 75 and 82). -/
def stallCode (s : State) (t : Street) : Nat :=
  if t.stopped || t.life == .contained || t.stall == some .trap || s.areaSent t then 12
  else
    match t.stall with
    | some .fetch => 9
    | some .mem | some .pair => 1
    | some .range => 2
    | some .chanEmpty => 3
    | some .chanFull => 4
    | some .panq => 10
    | some .tlwait => 8
    | some .trap => 12
    | none =>
      if t.svc.isSome then 1
      else if t.windowEnd then 0
      else if !t.runnable.isEmpty && (s.block? t.block).any fun b => (s.mayRun b t).isEmpty then 13
      else if !t.runnable.isEmpty && decide (s.clock < t.yieldUntil) then 0
      else
        match (t.liveEntries.head?).map (·.2) with
        | some e =>
          match e.reason, e.wait with
          | .colourPark, _ | .wait, .colour _ => 5
          | .wait, .waita _ _ => 6
          | .wait, .bar _ _ _ _ _ => 7
          | .wait, .trav _ _ _ _ => 11
          | .wait, _ => 8
          | _, _ => 12
        | none => 14

/-- The oldest of some resident streets: placed or restored earliest, then the lower slot (R169). -/
def oldestStreet : List Street → Option Street
  | [] => none
  | t :: ts =>
    match oldestStreet ts with
    | none => some t
    | some u => if t.placed < u.placed ∨ (t.placed = u.placed ∧ t.slot < u.slot) then some t else some u

/-- Whether a block image of a core is being saved (R169, log entry 33): a save is asked for and every street of the block is
ready for it, or it takes more than the 65,536 cycles. -/
def State.swapping (s : State) (core : Nat) : Bool :=
  s.allBlocks.any fun b => b.core == core && b.life == .placed && b.save.isSome && s.saveReady b

/-- Whether a street was eligible in the cycle that ends (R169): it has issued in it, or stands eligible with a path to run. -/
def State.wasEligible (s : State) (t : Street) : Bool :=
  t.stall.isNone && t.svc.isNone && (t.lastIssue == some s.clock
    || match s.block? t.block with | some b => s.eligible b t && !(s.mayRun b t).isEmpty | none => false)

/-- One cycle of a core's stall histogram (R169, R170): scheduler 0 has the even slots. A die that stands still counts none
(R352). -/
def State.countStalls (s : State) (c : Core) : Core :=
  if c.freeze || (s.die (coreDie c.idx)).still then c
  else
    [0, 1].foldl (fun (c : Core) k =>
      let ts := (s.resident c.idx).filter fun t => t.slot % 2 == k
      let n := (s.allStreets.filter fun t => t.core == c.idx && t.slot % 2 == k && s.wasEligible t).length
        + (c.left.filter fun i => i % 2 == k).length
      let c := { c with bins := bumpAt c.bins (9 * k + Nat.min n 8) 1 }
      if n = 0 then
        let r := match oldestStreet ts with | some t => if s.swapping c.idx then 13 else stallCode s t | none => 14
        { c with reasons := bumpAt c.reasons (15 * k + r) 1 }
      else c) c

/-- Whether every non-free entry of every street of a block waits on a colour, TLWAIT or BAR (R175). A street that is stopped
counts with its entries. -/
def State.allParked (s : State) (b : Block) : Bool :=
  let ts := s.allStreets.filter fun t => t.block == b.id && !t.over
  !ts.isEmpty && ts.all fun t => t.liveEntries.all fun e => e.2.parked

/-- A cycle of the package's clock passes for a die: a hot die runs at 2,000 MHz and stands still in the cycles between (R352). -/
def Die.tick (d : Die) (mhz : Nat) : Die :=
  let d := { d with lost := d.lost + b2n d.still }
  if !d.hot then { d with still := false }
  else if mhz ≤ d.owed + 2000 then { d with owed := d.owed + 2000 - mhz, still := false }
  else { d with owed := d.owed + 2000, still := true }

/-- A cycle passes for every die. -/
def State.dieTicks (s : State) : State := { s with dies := s.dies.map (·.tick s.pkg.mhz) }

/-- Whether a load of a street of a core may still find a sector as it was (R31, R67): the street has not issued since, nor heard of
anything, or stands in the window of an acquire that it issued by then, or lanes of its own stored. -/
def State.pastNeeded (s : State) (core : Nat) (p : PastSector) : Bool :=
  s.allStreets.any fun t => t.core == core
    && ((decide (t.lastIssue.getD t.placed < p.at_) && decide (t.heard ≤ p.at_))
      || (t.windows.any fun w => w.since.any fun c => decide (c ≤ p.at_))
      || (p.by_ == some t.sid && p.lanes != Mask.all && decide (t.heard ≤ p.at_)))

/-- ARITHMETIC_CYCLE (R169, R175, R179, R355, R357, R374): the clock, the counters that each cycle raises, and what is due. -/
def execArithmeticCycle (s : State) : Res :=
  let cores := s.cores.map s.countStalls
  let res := s.allStreets.filter fun t => (t.life == .running || t.stopped || t.life == .contained)
    && ((s.block? t.block).any fun b => b.life == .placed) && !(s.die t.die).still
  let s : State := res.foldl (fun (s : State) t => s.weigh t.core (match s.block? t.block with | some b => b.ctx.ctxid | none => 0) 22 1)
    { s with cores := cores }
  let now : Nat := s.clock + 1
  let s := s.mapBlocks fun b =>
    if b.life != .placed then b
    else if s.allParked b then { b with waitSince := match b.waitSince with | some c => some c | none => some s.clock }
    else { b with waitSince := none, candidate := false }
  let acc := s.timeAcc + 1000
  let s : State := { s with
    clock := now, bgDone := false, timeNs := s.timeNs + acc / s.pkg.mhz, timeAcc := acc % s.pkg.mhz
    cores := s.cores.map fun (c : Core) =>
      { c with left := [], stale := c.stale.filter fun r => decide (now < r.2.2), past := c.past.filter fun p => s.pastNeeded c.idx p } }
  let s := s.dieTicks
  let s := if now % 65536 = 0 then s.flushDeltas fun _ => true else s
  let due := (s.cores.map (·.idx)).filter s.syncDue
  .next (due.foldl (fun s i => s.traceSyncNow i) s)

/-- CONTEXT_END (R390): nothing of the context runs on. -/
def execContextEnd (ctx : Nat) (s : State) : Res :=
  let bs := (s.allBlocks.filter fun b => b.ctx.ctxid == ctx).map (·.id)
  let sids := (s.allStreets.filter fun t => bs.contains t.block).map (·.sid)
  let copies := (s.copies.filter fun c => c.ctx.ctxid == ctx).map (·.id)
  let s := s.mapStreets fun t => if t.there && bs.contains t.block then { t with life := .absent } else t
  let s := s.mapBlocks fun b => if b.there && bs.contains b.id then { b with life := .absent } else b
  let tasks (d : Nat) : List Nat := ((s.die d).pool.filter fun r => r.ctx.ctxid == ctx).map (·.id)
  let ops := (List.range 4).flatMap tasks
  let s := (List.range 4).foldl (fun s d =>
    let gone := tasks d
    let s := s.onDie d fun k => { k with
      directq := k.directq.filter fun r => r.ctx.ctxid != ctx, held := k.held.filter fun f => f.ctx != ctx }
    gone.foldl (fun s i => s.onDie d fun k => k.leave i) s) s
  let s := s.flushDeltas fun d => d.ctx == ctx
  let s := (s.colls.filter fun c => c.ctx.ctxid == ctx && c.status == .running).foldl
    (fun s c => s.onJob c.slot fun j => j.seqOver c.seq) s
  let s := { s with blocks := s.blocks.filter Block.there }.refuseOrphans
  .next { s with
    streets := s.streets.filter Street.there
    blocks := s.blocks.filter Block.there
    bars := s.bars.filter fun b => match b.place with | .spad i _ => !bs.contains i | _ => true
    copies := s.copies.filter fun c => c.ctx.ctxid != ctx
    walks := s.walks.filter fun w => w.ctx.ctxid != ctx
    travs := s.travs.filter fun t => !bs.contains t.block
    late := s.late.filter fun l => l.c.ctx.ctxid != ctx
    qlock := s.qlock.filter fun k => k.1 != ctx
    stopped := s.stopped.filter fun c => c != ctx
    colls := s.colls.filter fun c => c.ctx.ctxid != ctx
    remote := s.remote.filter fun r => !sids.contains r.sid
    colours := s.colours.filter fun k => k.ctx != ctx
    cores := s.cores.map fun (k : Core) => { k with ranges := k.ranges.filter fun r => !copies.contains r.copy }
    engines := s.engines.map fun (e : Engine) =>
      let left := e.ops.filter fun o => match o.task with | some t => !ops.contains t | none => true
      let lives (i : Nat) : Bool := left.any (fun o => o.id == i) || s.allBlocks.any fun b => b.mxq.any fun o => o.id == i
      { e with ops := left, run := e.run.filter lives } }

end Sys2Proof.Machine
end

