-- ==== Sys2Proof/Machine/Boot.lean ====
section
/-! DEFINITION. Reset, boot and measurement (R347 to R349), power and temperature (R352, R360), and the Polcy Link ports (R376,
R377). -/

namespace Sys2Proof.Machine

/-- The flash of the security core outlives reset and power loss (R359, R360): boots, and the reserved signature indices, of
which the unused ones are abandoned. -/
def State.afterReset (s : State) (powered : Bool) : State :=
  { State.reset with pkg := { Package.zero with
      powered := powered, bootno := s.pkg.bootno + b2n powered, reserve := s.pkg.reserve, nextIndex := s.pkg.reserve } }

/-- RESET (R347): the machine right after reset, a boot later. -/
def execReset (s : State) : Res := .next (s.afterReset true)

/-- POWER_LOSS (R360). -/
def execPowerLoss (s : State) : Res := .next (s.afterReset false)

/-- The arithmetic clock after a millisecond of this average power (R352). -/
def Package.stepClock (p : Package) (power : Nat) : Nat :=
  if p.plim < power then Nat.max 2000 (p.mhz - 125) else if power + 50 < p.plim then Nat.min 4000 (p.mhz + 125) else p.mhz

/-- CLOCK_STEP (R352): a millisecond's average power and the temperature of each die. A die at 105 °C or above runs at 2,000 MHz,
whatever the package's clock is (log entry 63). -/
def execClockStep (power : Nat) (temps : List Nat) (s : State) : Res :=
  let p := s.pkg
  let temp := temps.foldl Nat.max 0
  let s := (List.range 4).foldl (fun s d => s.onDie d fun k => { k with hot := decide (105 ≤ nth temps d), owed := 0 }) s
  .next { s with pkg := { p with power := power % 65536, temp := temp % 256, mhz := p.stepClock power
                                 hotMs := if 115 ≤ temp then p.hotMs + 1 else 0 } }

/-- THERMAL_SHUTDOWN (R352): 115 °C has been held for a millisecond. -/
def execThermalShutdown (s : State) : Res := if 1 ≤ s.pkg.hotMs then .next (s.afterReset false) else .next s

/-- Whether an image passes the checks of R348 for the KIND expected. Its zero fields are checked by none, and ignored (R6). -/
def imageOk (kind : Nat) (r sig : List Byte) : Bool :=
  r.take 4 == [0x5A, 0x4B, 0x49, 0x4D] && recNat r 8 4 == kind && decide (Config.minVersion kind ≤ recNat r 4 4)
    && decide (64 ≤ r.length) && recNat r 0x18 8 == r.length - 64
    && Config.imageKeyAccepts r sig

/-- MEASk := SHA-256(MEASk ∥ g) (R349). -/
def Package.extend (p : Package) (k : Nat) (g : List Byte) : Package :=
  { p with meas := p.meas.modify k fun m => sha256 (m ++ g) }

/-- BOOTSTAT's phase while an image of this KIND is fetched (R347). -/
def fetchPhase (kind : Nat) : Nat := if kind = 1 then 1 else 3

/-- The fetch of an image starts again at port 0 (R347, R348). -/
def Package.refetch (p : Package) : Package := { p with port := 0, phase := fetchPhase p.image, fetched := none }

/-- An accepted image is measured, its body put at its load address where HBM holds that, and it runs from its ENTRY (R347 to
R349, log entry 62). -/
def State.runImage (s : State) (r : List Byte) : State :=
  let p := s.pkg
  let load := recNat r 0x10 8
  let body := r.drop 64
  let s := if hbmHas load && hbmHas (load + body.length - 1) then s.store none load body 0 false else s
  { s with pkg := { (p.extend (p.image - 1) (sha256 r)) with
      image := p.image + 1, port := 0, phase := if p.image = 3 then 4 else 3, fetched := none
      entries := p.entries ++ [recNat r 0x20 8] } }

/-- IMAGE_FETCH_COMPLETE (R347, R348): the mask ROM begins a fetch; a failed port 0 leads to port 1, a failed port 1 to the wait;
the image that has come is checked; one that fails a check starts its step again; one that passes is measured and run. -/
def execImageFetchComplete (port : Nat) (got : Fetched) (s : State) : Res :=
  let p := s.pkg
  if p.phase = 15 ∨ 3 < p.image ∨ port ≠ p.port then .next s
  else
    match got, p.fetched with
    | .begun, none => .next { s with pkg := { p with phase := fetchPhase p.image } }
    | .failed, none =>
      .next { s with pkg := if port = 0 then { p with port := 1, phase := fetchPhase p.image } else { p with port := 0, phase := 15 } }
    | .image r sig, none =>
      .next { s with pkg := { p with fetched := some (r, sig), phase := if p.image = 1 then 2 else p.phase } }
    | .verified, some (r, sig) => if imageOk p.image r sig then .next (s.runImage r) else .next { s with pkg := p.refetch }
    | _, _ => .next s

/-- BOOT_RETRY (R347): a second after both ports have failed. -/
def execBootRetry (s : State) : Res :=
  if s.pkg.phase = 15 then .next { s with pkg := s.pkg.refetch } else .next s

/-- MEAS_EXTEND (R349): the resident OS extends MEAS3 to MEAS7. -/
def execMeasExtend (k : Nat) (digest : List Byte) (s : State) : Res :=
  if 3 ≤ k ∧ k ≤ 7 then .next { s with pkg := s.pkg.extend k digest } else .next s

/-- Change a port. -/
def State.onPort (s : State) (p : Nat) (f : Port → Port) : State := { s with pkg := { s.pkg with ports := s.pkg.ports.modify p f } }

/-- LINK_UP (R377). -/
def execLinkUp (port peer peerport lanes : Nat) (s : State) : Res :=
  .next (s.onPort port fun p => { p with peer := peer % 2048, peerport := peerport % 64, lanes := lanes % 16, state := 2 })

/-- FLIT_REPLAY (R376, R377). -/
def execFlitReplay (port : Nat) (s : State) : Res := .next (s.onPort port fun p => { p with retries := satAdd 16 p.retries 1 })

/-- LANE_LOSS (R376): the port runs on with the lanes left. -/
def execLaneLoss (port lanes : Nat) (s : State) : Res :=
  .next (s.onPort port fun p =>
    let left := p.lanes &&& lanes
    { p with lanes := left, state := if left = 0 then 0 else if left = p.lanes then p.state else 3 })

end Sys2Proof.Machine
end

