-- ==== Sys2Proof/Machine/Channel.lean ====
section
/-! DEFINITION. CHMAP and CHSTAT (R205 to R208). -/

namespace Sys2Proof.Machine

/-- CHMAP (R207): binds or unbinds channel c by the value of register i in one lane. -/
def execChmap (w : FChan) (s : State) : Res :=
  if !regsOk s.blk.hdr.regs w.i 1 then .next (s.takeTrap 1 0 0)
  else if s.blk.hdr.chans ≤ w.c.toNat then .next (s.takeTrap 9 0 0)
  else
    let act := s.active
    if act = 0 then .next s.done
    else
      match s.srcBroken (lanesUsed w.u act) (.reg w.i 0, 1) with
      | some fa => .next (s.sramError.takeTrap 11 0 fa)
      | none =>
        let q := (s.rdReg 0 w.i).lane (argLane w.u act)
        let b := if q.getLsbD 31 then none else some (q.toNat % 16)
        .next (s.onSt fun t => { t with chans := t.chans.set w.c.toNat b }).done

/-- The state of a channel as CHSTAT reads it (R208). -/
def State.chanState (s : State) (c : RegNo) : Word :=
  match s.st.chans.get c.toFin with
  | none => 0
  | some q => BitVec.ofNat 32 (2 ^ 31 + q * 2 ^ 16 + Nat.min (s.queue q).length 8 * 2 ^ 8)

/-- CHSTAT (R208). -/
def execChstat (w : FChan) (s : State) : Res :=
  if !regsOk s.blk.hdr.regs w.i 1 then .next (s.takeTrap 1 0 0)
  else if s.blk.hdr.chans ≤ w.c.toNat then .next (s.takeTrap 9 0 0)
  else
    let act := s.active
    if act = 0 then .next s.done
    else
      let m := if w.u then Mask.all else act
      .next ((s.rewrote w.i 1 m).onSt fun t => t.setReg w.i m (SVec.splat (s.chanState w.c))).done

end Sys2Proof.Machine
end

