-- ==== Sys2Proof/Machine/ColourOps.lean ====
section
/-! DEFINITION. The colour instructions: CLRSYNC, CLRQ, CLRWAIT, CLRNOTE and CLRCLEAN (R223 to R227). -/

namespace Sys2Proof.Machine

/-- R211 on one entry, given where the entries before it end. -/
def crtBad (w : Nat × Nat) (prevBase : Option Nat) (prevEnd : Nat) : Bool :=
  let e := crtEntry w
  bits w.2 60 4 != 0 || bits w.2 0 7 != 0 || bits w.1 57 7 != 0 || bits w.1 0 7 != 0 || e.2.2 == 0 || e.2.1 == 0
    || decide (2 ^ 57 < e.1 + e.2.1) || decide (e.1 < prevEnd)
    || (match prevBase with | some b => decide (e.1 ≤ b) | none => false)

/-- Check the region table's entries from index i on (R211): whether it is valid, or a translation that fails. -/
def crtCheck (s : State) (ctx : CtxDesc) : Nat → Nat → Option Nat → Nat → Except Xl Bool
  | 0, _, _, _ => .ok true
  | n + 1, i, base, last =>
    match translate s s.st.core ctx (ctx.crtbase + 16 * i) .read with
    | .ok pa pte _ _ _ =>
      let w := crtWords s pa pte
      if crtBad w base last then .ok false
      else let e := crtEntry w; crtCheck s ctx n (i + 1) (some e.1) (e.1 + e.2.1)
    | x => .error x

/-- CLRSYNC (R223): the table's base and count are read again (R353), the table is checked, and every core drops the
context's region entries. -/
def execClrsync (_u : Bool) (s : State) : Res :=
  s.paired 2 fun s =>
  let s := s.released
  let d := s.blk.ctx
  let ctx := if hbmHas (d.desc + 0x38) then
      { d with crtbase := s.mem.nat (d.desc + 0x38) 8, crtcount := s.mem.nat (d.desc + 0x40) 4 }
    else d
  match crtCheck s ctx ctx.crtcount 0 none 0 with
  | .error x => s.xlStop x
  | .ok false => .next (s.takeTrap 8 0 0)
  | .ok true =>
    let s := s.mapBlocks fun b =>
      if b.ctx.ctxid = ctx.ctxid then { b with ctx := { b.ctx with crtbase := ctx.crtbase, crtcount := ctx.crtcount } } else b
    let s := s.mapCores fun c => { c with lookaside := c.lookaside.filter fun e => e.ctx != ctx.ctxid }
    .next s.done

/-- The colour of an address as a colour instruction sees it: that of an access there (R212). -/
def State.lookHere (s : State) (va : Nat) : Looked :=
  let rh := match translate s s.st.core s.blk.ctx va .read with | .ok _ pte _ _ _ => pteRH pte | _ => false
  if rh || s.uncoloured va then .colour none else lookColour s s.st.core s.blk.ctx va

/-- The colours of some lanes' addresses, with the lookaside they leave, or the answer of a lookup that fails (R212). -/
def State.lookLanes : List (Nat × Nat) → State → Except Res (List (Nat × Nat × Nat) × State)
  | [], s => .ok ([], s)
  | (lane, va) :: rest, s =>
    match s.lookHere va with
    | .fault f => .error (.next (s.service f .mem))
    | .hole pa => .error (.fault (.noMemory pa))
    | .colour e =>
      let s := match e with | some r => s.keepRegion s.st.core r | none => s
      match State.lookLanes rest s with
      | .error r => .error r
      | .ok (cs, s) => .ok ((lane, va, colourNo e) :: cs, s)

/-- A colour instruction on the addresses in pair a of its lanes (R223 to R227): lane, address and colour of each, with the FADDR
of an operand register found uncorrectable, which no lookup outruns. -/
def State.onAddrs (s : State) (u : Bool) (a : RegNo) (k : Mask → Option Nat → List (Nat × Nat × Nat) → State → Res) : Res :=
  let act := s.active
  if act = 0 then .next s.done
  else
    let ecc := s.srcBroken (lanesUsed u act) (.reg a 0, 2)
    match State.lookLanes (s.addrLanes u act a) s, ecc with
    | .error _, some fa => .next (s.sramError.takeTrap 11 0 fa)
    | .error r, none => r
    | .ok (cs, s), e => k act e cs s

/-- A colour instruction that no cause before ECC_UNC stops. -/
def State.onColours (s : State) (u : Bool) (a : RegNo) (k : Mask → List (Nat × Nat × Nat) → State → Res) : Res :=
  s.onAddrs u a fun act ecc cs s =>
  match ecc with
  | some fa => .next (s.sramError.takeTrap 11 0 fa)
  | none => k act cs s

/-- The words of CLRQ for a lane and a colour: kind 0 HELD, 1 OWNER, 2 DEPTH (R224). -/
def State.clrqWords (s : State) (kind lane c : Nat) : List Word :=
  let k := s.colour s.blk.ctx.ctxid c
  let hold := s.st.holds.find? fun h => h.colour == c && h.lane == lane
  match kind with
  | 0 => [predWord (c != 0 && hold.isSome)]
  | 1 =>
    if c = 0 then [0, 0]
    else
      match k.owner with
      | some (sid, ln, _) => [sid, BitVec.ofNat 32 (2 ^ 31 + b2n k.poison * 2 ^ 30 + ln * 2 ^ 16 + c)]
      | none => [0, BitVec.ofNat 32 (b2n k.poison * 2 ^ 30 + c)]
  | _ => [match hold with | some h => if c = 0 then ones else BitVec.ofNat 32 h.depth | none => ones]

/-- CLRQ (R224). -/
def State.clrq (s : State) (kind : Nat) (w : FClrq) : Res :=
  let words := if kind = 1 then 2 else 1
  if !(regsOk s.blk.hdr.regs w.a 2 && regsOk s.blk.hdr.regs w.d words) then .next (s.takeTrap 1 0 0)
  else
    s.paired 6 fun s =>
    s.onColours w.u w.a fun _ cs s =>
    .next (s.deliverLoad s.st w.u 0 (regDst w.d) (cs.map fun c => (c.1, s.clrqWords kind c.1 c.2.2)) words).done

/-- CLRQ.HELD (R224). -/
def execClrqHeld (w : FClrq) (s : State) : Res := s.clrq 0 w

/-- CLRQ.OWNER (R224). -/
def execClrqOwner (w : FClrq) (s : State) : Res := s.clrq 1 w

/-- CLRQ.DEPTH (R224). -/
def execClrqDepth (w : FClrq) (s : State) : Res := s.clrq 2 w

/-- How a lane stands at a CLRWAIT (R225): handed the colour again, woken by poison, still asleep or queued, nothing to
release, or about to release a colour held at a DEPTH. -/
inductive ClrwLane where
  | back | poisoned | asleep | nothing
  | release (c depth : Nat)
deriving DecidableEq, Repr

/-- The standing of a lane whose address has colour c. -/
def State.clrwLane (s : State) (lane c : Nat) : ClrwLane :=
  if s.st.clrw.contains (lane, false) then .back
  else if s.st.clrw.contains (lane, true) then .poisoned
  else if s.colours.any fun k => (k.fifo ++ k.sleep).any fun w => w.kind && w.sid == s.st.sid && w.lane == lane then .asleep
  else
    match s.st.holds.find? fun h => c != 0 && h.colour == c && h.lane == lane with
    | some h => .release c h.depth
    | none => .nothing

/-- Release a colour and go to sleep on it, as one step at its home slice (R225). -/
def State.sleepOn (s : State) (lane c depth : Nat) : State :=
  let ctx := s.blk.ctx.ctxid
  let idx := s.newRecord ctx
  let s := s.onColour ctx c fun k => { k with
    sleep := k.sleep ++ [{ idx := idx, sid := s.st.sid, lane := lane, depth := depth, kind := true }] }
  s.releaseOne s.st.sid ctx lane c false

/-- The colours that some lanes are about to release. -/
def releasing (xs : List (Nat × Nat × ClrwLane)) : List (Nat × Nat × Nat) :=
  xs.filterMap fun x => match x.2.2 with | .release c d => some (x.1, c, d) | _ => none

/-- CLRWAIT of a path whose lanes sleep or have been woken, which its guard, its operands and its page no longer concern (R225): after
poison it takes CLR_POISON; lanes handed the colour again, a colour acquisition of a pair (R367), get 0 and go on; the others sleep on,
for which the path waits until there is an entry. -/
def State.clrwaitOver (s : State) (w : FClrw) (xs : List (Nat × ClrwLane)) : Res :=
  let ads := s.addrLanes w.u (maskOf (xs.map (·.1))) w.a
  let va (lane : Nat) : Nat := if w.u then (ads.headD (0, 0)).2 else ((ads.find? fun a => a.1 == lane).map (·.2)).getD 0
  let drop (s : State) : State := s.onSt fun t => { t with clrw := t.clrw.filter fun c => !xs.any fun y => y.1 == c.1 }
  let m := maskOf ((xs.filter fun x => x.2 == .asleep).map (·.1))
  let leave := if w.u && m != 0 then s.st.path.mask else m
  match xs.find? fun x => x.2 == .poisoned with
  | some x => .next ((drop s).takeTrap 7 0 (va x.1))
  | none =>
    if leave != 0 && s.noEntry leave then .next (s.stalled .mem)
    else
      let before := s.st
      let fin := (xs.filter fun x => x.2 == .back).map (·.1)
      let gs : List (Nat × Nat) := match before.pair with | some p => p.granted.filter fun g => fin.contains g.1 | none => []
      let s := gs.foldl (fun s g => s.record 3 (va g.1) (leBytes 2 g.2)) s
      let s := s.onSt fun t => { t with pair := t.pair.map fun p => { p with granted := p.granted.filter fun g => !gs.contains g } }
      let s := if leave = 0 then s else s.leaveEntry leave .wait (.colour (va ((xs.headD (0, .asleep)).1)))
      let s := if fin.isEmpty then drop s
        else (drop s).deliverLoad before w.u w.la.toNat (regDst w.d) (fin.map fun l => (l, [0])) 1
      if s.st.path.reason == .wait then .next { s with st := { s.st with stall := none } }
      else .next s.done

/-- CLRWAIT (R225). Under U = 1 the lane is the path's lowest active one, for which a uniform access acquires (R214, log
entry 21). -/
def execClrwait (w : FClrw) (s : State) : Res :=
  if !(regsOk s.blk.hdr.regs w.a 2 && regsOk s.blk.hdr.regs w.d 1) then .next (s.takeTrap 1 0 0)
  else
    s.paired 6 fun s =>
    let slept := (s.st.path.mask.lanes.map fun l => (l.val, s.clrwLane l.val 0)).filter fun x => x.2 != .nothing
    if !slept.isEmpty then s.clrwaitOver w slept
    else
    s.onAddrs w.u w.a fun act ecc cs s =>
    let xs := cs.map fun c =>
      let lane := if w.u then (act.lowest.getD 0).val else c.1
      (lane, c.2.1, s.clrwLane lane c.2.2)
    let rel := releasing xs
    let m := maskOf (rel.map (·.1))
    let leave := if w.u && m != 0 then s.st.path.mask else m
    let low := rel.foldl (fun d r => Nat.min d r.2.2) 65536
    if leave != 0 && s.noEntry leave then .next (s.takeTrap 10 0 0)
    else if let some fa := ecc then .next (s.sramError.takeTrap 11 0 fa)
    else if !rel.isEmpty && s.remotePending s.st.sid then .next (s.stalled .mem)
    else if !rel.isEmpty && s.st.frameOps (maskOf (rel.map (·.1))) low then .next (s.stalled .tlwait)
    else
      let before := s.st
      let s := if rel.isEmpty then s else s.released
      let va := ((xs.find? fun x => m.getLsbD x.1).map (·.2.1)).getD 0
      let s := if leave = 0 then s else s.leaveEntry leave .wait (.colour va)
      let s := rel.foldl (fun s r => s.sleepOn r.1 r.2.1 r.2.2) s
      let fin := xs.filter fun x => x.2.2 == .nothing
      let s := if fin.isEmpty then s else s.deliverLoad before w.u w.la.toNat (regDst w.d) (fin.map fun x => (x.1, [1])) 1
      if s.st.path.reason == .wait then .next { s with st := { s.st with stall := none } }
      else .next s.done

/-- Move sleepers of a colour to its FIFO, and hand over a colour without owner (R226). -/
def State.noteColour (s : State) (c : Nat) (all : Bool) : State :=
  let ctx := s.blk.ctx.ctxid
  if c = 0 then s
  else
    let s := s.onColour ctx c fun k =>
      let n := if all then k.sleep.length else 1
      { k with fifo := k.fifo ++ k.sleep.take n, sleep := k.sleep.drop n }
    s.handOver ctx c

/-- Whether the street in focus is the twin of a pair, which leaves effects outside the block to its primary (R368). -/
def Street.isTwin (t : Street) : Bool := match t.pair with | some p => !p.primary | none => false

/-- CLRNOTE (R226). -/
def State.clrnote (s : State) (w : FPair) (all : Bool) : Res :=
  if !regsOk s.blk.hdr.regs w.a 2 then .next (s.takeTrap 1 0 0)
  else
    s.onColours w.u w.a fun _ cs s =>
    if s.st.isTwin then .next s.done
    else .next (cs.foldl (fun s c => s.noteColour c.2.2 all) s).done

/-- CLRNOTE.ONE (R226). -/
def execClrnoteOne (w : FPair) (s : State) : Res := s.clrnote w false

/-- CLRNOTE.ALL (R226). -/
def execClrnoteAll (w : FPair) (s : State) : Res := s.clrnote w true

/-- CLRCLEAN (R227). -/
def execClrclean (w : FPair) (s : State) : Res :=
  if !regsOk s.blk.hdr.regs w.a 2 then .next (s.takeTrap 1 0 0)
  else if s.blk.ctx.user && !s.st.ctxflags.getLsbD 0 then .next (s.takeTrap 2 0 0)
  else
    s.onColours w.u w.a fun _ cs s =>
    .next (cs.foldl (fun s c =>
      if c.2.2 = 0 then s else s.onColour s.blk.ctx.ctxid c.2.2 fun k => { k with poison := false }) s).done

end Sys2Proof.Machine
end

