-- ==== Sys2Proof/Machine/Control.lean ====
section
/-! DEFINITION. Control flow, frames, modes, special registers and the TRP group (R142 to R155). -/

namespace Sys2Proof.Machine

/-- Target of a relative transfer (R142). -/
def relTarget (pc : Addr) (off : Addr) : Addr := pc + 4 + 4 * off

/-- Put a lane's target among targets in ascending order (R61). -/
def addTarget (a : Addr) (m : Mask) : List (Addr × Mask) → List (Addr × Mask)
  | [] => [(a, m)]
  | x :: xs => if a = x.1 then (a, x.2 ||| m) :: xs else if a.toNat < x.1.toNat then (a, m) :: x :: xs else x :: addTarget a m xs

/-- The distinct targets with their lanes, in ascending order. -/
def targets (xs : List (Lane × Addr)) : List (Addr × Mask) := xs.foldl (fun ts x => addTarget x.2 (1 <<< x.1.val) ts) []

/-- Whether a split into these targets finds no room in the path table (R61). -/
def State.noRoom (s : State) (ts : List (Addr × Mask)) : Bool := decide (s.st.freeEntries.length + 1 < ts.length)

/-- The targets are written into entries at a DEPTH (R61): the lanes of `stay` keep the issuing entry; the others take new
entries in ascending order of their target; the grant goes to the lowest (R59). -/
def State.split (s : State) (ts : List (Addr × Mask)) (stay : Addr) (depth : Nat) (trace : Bool) : State :=
  let g := s.st.path.grant
  let low := (ts.head?.map (·.1)).getD stay
  let m := ((ts.find? fun t => t.1 == stay).map (·.2)).getD s.st.path.mask
  let s := s.onSt fun t => { (t.onPath t.sel fun e =>
    { e with pc := stay, mask := m, depth := depth, grant := if stay = low then g else 0 }) with stall := none }
  let s := if trace then s.traceTarget s.st.sel.val stay else s
  (ts.filter fun t => t.1 != stay).foldl (fun s t =>
    let i := (s.st.freeEntries.head?.map Fin.val).getD 0
    let s := s.newEntry { pc := t.1, mask := t.2, depth := depth, reason := .branch, age := 0
                          grant := if t.1 = low then g else 0, wait := .none }
    if trace then s.traceTarget i t.1 else s) s

/-- BRA (R143). -/
def execBra (w : FC) (s : State) : Res :=
  .next (s.onSt fun t => { (t.onPath t.sel fun e => { e with pc := relTarget e.pc (w.off.signExtend 64) }) with stall := none })

/-- BRP (R143, R61), with its BRANCH packet (R374). -/
def execBrp (w : FBrp) (s : State) : Res :=
  if !regsOk s.blk.hdr.regs w.p 1 then .next (s.takeTrap 1 0 0)
  else
    let p := s.rdReg 0 w.p
    let take (l : Lane) : Bool := (p.lane (if w.u then 0 else l)).getLsbD 0 == w.pol
    let pc := s.st.path.pc
    let far := relTarget pc (w.off.signExtend 64)
    let ts := targets (s.st.path.mask.lanes.map fun l => (l, if take l then far else pc + 4))
    let stay := if ts.any fun t => t.1 == pc + 4 then pc + 4 else far
    if s.noRoom ts then .next (s.takeTrap 10 0 0)
    else
      match s.srcBroken (if w.u then 1 else s.st.path.mask) (.reg w.p 0, 1) with
      | some fa => .next (s.sramError.takeTrap 11 0 fa)
      | none =>
        let taken := ((ts.find? fun t => t.1 == far && far != pc + 4).map (·.2)).getD
          (if far = pc + 4 then s.st.path.mask &&& Mask.ofPred take else 0)
        let s := s.traceIf (·.branches) (leBytes 1 (0x30 + s.st.slot) ++ leBytes 8 taken.toNat)
        .next (s.split ts stay s.st.path.depth false)

/-- The targets that the path's lanes read from pair a, lane 0's for the whole path under U = 1 (R144). -/
def State.pairTargets (s : State) (w : FPair) : List (Lane × Addr) :=
  let lo := s.rdReg 0 w.a
  let hi := s.rdReg 1 (regPlus w.a 1)
  s.st.path.mask.lanes.map fun l => let k := if w.u then 0 else l; (l, pairVal (lo.lane k) (hi.lane k))

/-- The first target that is not a multiple of 4 (R142). -/
def badTarget (xs : List (Lane × Addr)) : Option Addr := (xs.find? fun x => x.2.toNat % 4 != 0).map (·.2)

/-- BRX (R144). -/
def execBrx (w : FPair) (s : State) : Res :=
  if !regsOk s.blk.hdr.regs w.a 2 then .next (s.takeTrap 1 0 0)
  else
    let xs := s.pairTargets w
    let ts := targets xs
    if s.noRoom ts then .next (s.takeTrap 10 0 0)
    else
      match badTarget xs with
      | some a => .next (s.takeTrap 3 0 a.toNat)
      | none =>
        match s.srcBroken (if w.u then 1 else s.st.path.mask) (.reg w.a 0, 2) with
        | some fa => .next (s.sramError.takeTrap 11 0 fa)
        | none => .next (s.split ts ((ts.head?.map (·.1)).getD 0) s.st.path.depth true)

/-- The frame-stack words of the path's lanes at a depth, translated (R145). -/
def State.frameLanes (s : State) (depth : Nat) (acc : Acc) : List (Nat × Nat × Xl) :=
  s.st.path.mask.lanes.map fun l =>
    let va := (s.st.fstk.toNat + 512 * depth + 8 * l.val) % 2 ^ 64
    (l.val, va, translate s s.st.core s.blk.ctx va acc)

/-- Store the return address of each lane (R146): weak, uncoloured, seen by the street alone, so no part of a pair's records. -/
def State.frameStore (s : State) (ls : List LaneAcc) (ret : Addr) : State :=
  let bs := leBytes 8 ret.toNat
  let far := ls.filter fun l => pteRH l.pte
  let s := (ls.filter fun l => !pteRH l.pte).foldl (fun s l =>
    ((s.ownReds l 8).store s.st.sid l.pa bs s.blk.ctx.ctxid (pteMS l.pte)).l1Store s.st.core l.pa bs false) s
  let s := if far.isEmpty then s else s.remoteSend far (fun _ => .store bs) false
  s.touchAll .write ls

/-- The trap of a frame-stack access besides ALIGN: FMT_PARTIAL on a formatted page, which no such access reaches (R85), or WATCH
(R157, R372). -/
def State.frameStop (s : State) (kinds : Nat) (ls : List LaneAcc) : Option State :=
  match firstFmt ls, ls.find? fun l => s.watched false l.lane 0 kinds l.va 8 with
  | some va, _ => some (s.takeTrap 4 0 va)
  | none, some l => some (s.watchTrap l.va)
  | none, none => none

/-- A call to these targets (R146); `ecc` is the FADDR of an operand register found uncorrectable. -/
def State.callTo (s : State) (xs : List (Lane × Addr)) (trace : Bool) (ecc : Option Nat) : Res :=
  let ts := targets xs
  let d := s.st.path.depth
  if s.noRoom ts || decide (65535 ≤ d) then .next (s.takeTrap 10 0 0)
  else
    match badTarget xs with
    | some a => .next (s.takeTrap 3 0 a.toNat)
    | none =>
      let fs := s.frameLanes d .write
      match firstFault fs, s.frameStop 2 (laneAccs fs), ecc with
      | some x, _, _ => s.xlStop x
      | none, some t, _ => .next t
      | none, none, some fa => .next (s.sramError.takeTrap 11 0 fa)
      | none, none, none =>
        let s := s.frameStore (laneAccs fs) (s.st.path.pc + 4)
        .next (s.split ts ((ts.head?.map (·.1)).getD 0) (d + 1) trace)

/-- CALL (R146). -/
def execCall (w : FC) (s : State) : Res :=
  s.callTo (s.st.path.mask.lanes.map fun l => (l, relTarget s.st.path.pc (w.off.signExtend 64))) false none

/-- CALLX (R144, R146). -/
def execCallx (w : FPair) (s : State) : Res :=
  if !regsOk s.blk.hdr.regs w.a 2 then .next (s.takeTrap 1 0 0)
  else
    s.callTo (s.pairTargets w) true (s.srcBroken (if w.u then 1 else s.st.path.mask) (.reg w.a 0, 2))

/-- EXIT (R148, R363, R367): the lanes of the path leave, after the waits that a release of colours makes (R267). -/
def State.exitPath (s : State) : Res :=
  s.paired 5 fun s =>
  let t := s.st
  let m := t.path.mask
  let hs := t.holdsFrom m 0
  if !hs.isEmpty && s.remotePending t.sid then .next (s.stalled .mem)
  else if !hs.isEmpty && t.frameOps m 0 then .next (s.stalled .tlwait)
  else
    let ecc := t.tlevel && (match t.trap with | some f => f.cause == 11 | none => false)
    let s := if hs.isEmpty && t.pair.isNone then s else s.released
    if ecc then .next (s.contain 11 0 ((t.trap.map (·.faddr)).getD 0))
    else
      let s := s.exitLanes m false
      let s := s.onSt fun t =>
        { (t.onPath t.sel fun _ => PathEntry.free) with tlevel := false, trap := none, stall := none }
      let s := if t.tlevel then s.settleBlock s.blk.id true else s
      .next s.endStreetIfEmpty

/-- The operations in flight of lanes that return move to the calling frame (R147). -/
def Street.popOps (t : Street) (m : Mask) (depth : Nat) : Street :=
  { t with ops := t.ops.map fun o => if (o.lanes &&& m) != 0 && decide (depth ≤ o.depth) then { o with depth := depth - 1 } else o }

/-- RET from a frame (R147): return addresses are read and checked first, unless their page has a format (R85), then the frame's colours
are released. A trap leaves nothing of the reading; a RET that waits keeps what other devices have answered. -/
def State.retFrom (s : State) (d : Nat) : Res :=
  let fs := s.frameLanes (d - 1) .read
  match firstFault fs, firstFmt (laneAccs fs) with
  | some x, _ => s.xlStop x
  | none, some va => .next (s.takeTrap 4 0 va)
  | none, none =>
    match s.loadRaw (laneAccs fs) 8 false true with
    | .error t => .next t
    | .ok (rs, t) =>
      let s0 := s
      let s := { s with remote := t.remote }
      let xs := rs.map fun r => ((Fin.ofNat 64 r.1 : Lane), BitVec.ofNat 64 (leNat r.2))
      let ts := targets xs
      if s.noRoom ts then .next (s.takeTrap 10 0 0)
      else
        match badTarget xs, s.frameStop 1 (laneAccs fs), s.eccLane (laneAccs fs) 8 with
        | some a, _, _ => .next (s.takeTrap 3 0 a.toNat)
        | none, some t, _ => .next t
        | none, none, some e => .next (s.eccTrap e)
        | none, none, none =>
          let m := s.st.path.mask
          let hs := t.st.holds.filter fun h => m.getLsbD h.lane && h.depth == d
          let go (t : State) : Res :=
            if !hs.isEmpty && t.remotePending t.st.sid then .next (s0.stalled .mem)
            else if !hs.isEmpty && t.st.frameOps m d then .next (s0.stalled .tlwait)
            else
              let t := if hs.isEmpty then t else t.released.releaseHolds t.st.sid t.blk.ctx.ctxid hs false
              let t := t.onSt fun u => u.popOps m d
              .next (t.split ts ((ts.head?.map (·.1)).getD 0) (d - 1) true)
          if hs.isEmpty then go t else s0.paired 2 fun _ => go t

/-- RET (R147). -/
def execRet (_u : Bool) (s : State) : Res :=
  let d := s.st.path.depth
  if d = 0 then s.exitPath
  else if s.st.tlevel && (match s.st.trap with | some f => decide (d = f.depth + 1) | none => false) then .next (s.takeTrap 1 0 0)
  else s.retFrom d

/-- EXIT (R148). -/
def execExit (_u : Bool) (s : State) : Res := s.exitPath

/-- YIELD (R149): ineligible in the 8 cycles after this one, and passed over at the next selection. -/
def execYield (_u : Bool) (s : State) : Res :=
  .next (s.onSt fun t => { (t.onPath t.sel fun e => { e with grant := 0 }) with
    yieldUntil := s.clock + 9, passOver := some t.sel }).done

/-- NOP (R149). -/
def execNop (_u : Bool) (s : State) : Res := .next s.done

/-- TRAP (R154). -/
def execTrap (w : FVal) (s : State) : Res := .next (s.takeTrap 16 w.val.toNat 0)

/-- The lanes of the interrupted path that a TRET would leave out, by the MASK that the save area holds now (R159). -/
def State.leftOut (s : State) : Mask :=
  match s.st.trap, translate s s.st.core s.blk.ctx s.st.tsave.toNat .read with
  | some f, .ok pa pte _ _ _ =>
    match s.readArea pa pte with
    | .bytes bs _ => f.mask &&& ~~~(BitVec.ofNat 64 (recNat bs 8 8) : Mask)
    | _ => 0
  | _, _ => 0

/-- TRET (R159): a compare point of a paired street where it releases colours, of the handler or of lanes that it leaves out, and where
such lanes exit (R367). -/
def execTret (_u : Bool) (retry : Bool) (s : State) : Res :=
  let out := if s.st.pair.isSome then s.leftOut else 0
  if !s.st.handlerHolds.isEmpty || !(s.st.holdsFrom out 0).isEmpty then s.paired 2 fun s => s.trapReturn retry
  else if out != 0 then s.paired 5 fun s => s.trapReturn retry
  else s.trapReturn retry

/-- BKPT (R154): with a debugger attached the street stops, and goes on after the BKPT. -/
def execBkpt (w : FVal) (s : State) : Res :=
  if s.st.ctxflags.getLsbD 1 then
    .next ((s.debugStop 17 w.val.toNat 0).onSt fun t => t.onPath t.sel fun e => { e with pc := e.pc + 4 })
  else .next (s.takeTrap 17 w.val.toNat 0)

/-- TRMARK (R18): a MARK packet. -/
def execTrmark (w : FVal) (s : State) : Res :=
  .next (s.traceIf (·.marks) (leBytes 1 (0x60 + s.st.slot) ++ leBytes 3 w.val.toNat)).done

/-- HALT (R155): at trap level 1 without `.f` it is deferred to the TRET; else the record names the path that would issue next, once
the entries have aged and merged (R58 to R60). -/
def execHalt (_u : Bool) (force : Bool) (s : State) : Res :=
  if s.blk.ctx.user then .next (s.takeTrap 2 0 0)
  else if s.st.tlevel && !force then .next (s.onSt fun t => { t with haltReq := true }).done
  else .next (s.done.haltAt ((s.st.aged s.done.st s.st.sel).merge).nextPath)

/-- Whether MD holds no value that R54 forbids. -/
def mdOk (md : Addr) (regs : Nat) : Bool :=
  decide (mdType md ≤ 11) && decide (mdScope md ≤ 6) && (mdGuardEn md || (!mdGuardPol md && mdGuardReg md == 0))
    && decide ((mdGuardReg md).toNat < regs) && decide ((mdMrho md).toNat < regs) && decide ((mdRemapReg md).toNat < regs)

/-- Low bit and width in MD of a MODE field (R38, R54). -/
def modeField : Nat → Nat × Nat
  | 0 => (0, 4) | 1 => (4, 2) | 2 => (6, 8) | 3 => (14, 2) | 4 => (16, 8) | 5 => (24, 8) | 6 => (32, 8) | 7 => (40, 3)
  | 8 => (43, 2) | 9 => (45, 6) | 10 => (51, 1) | _ => (52, 12)

/-- A field of MD replaced. -/
def putField (md : Addr) (lo w v : Nat) : Addr :=
  let mask : Addr := BitVec.ofNat 64 ((2 ^ w - 1) * 2 ^ lo)
  (md &&& ~~~mask) ||| (BitVec.ofNat 64 (v * 2 ^ lo) &&& mask)

/-- MODE (R150). -/
def execMode (w : FMode) (s : State) : Res :=
  let f := modeField w.f.toNat
  let md := putField s.st.md f.1 f.2 w.val.toNat
  if !mdOk md s.blk.hdr.regs then .next (s.takeTrap 1 0 0)
  else .next (s.onSt fun t => { t with md := md }).done

/-- SR as a read inside a window sees it: a flag an opener set may not show yet (R28, R151). -/
def Street.readSr (t : Street) (tick : Nat) : Word :=
  (t.windows.foldl (fun (p : Nat × Word) w =>
    (p.1 + 1, if w.flags != 0 && Config.freeBit tick (2 ^ 20 + p.1) then p.2 &&& ~~~w.flags else p.2)) (0, t.sr)).2

/-- DPOS (R153). -/
def Block.dpos (b : Block) : Word := BitVec.ofNat 32 (b.height * 2 ^ 24 + b.width * 2 ^ 16 + b.dy * 2 ^ 8 + b.dx)

/-- The value of a special register for a lane (R153). -/
def State.special (s : State) (n : Nat) (l : Lane) : Word :=
  let t := s.st
  match n with
  | 0 => BitVec.ofNat 32 l.val
  | 1 => t.readSr s.freeTick
  | 2 => loWord t.md
  | 3 => hiWord t.md
  | 4 => loWord t.path.mask
  | 5 => hiWord t.path.mask
  | 6 => BitVec.ofNat 32 t.path.depth
  | 7 => BitVec.ofNat 32 (b2n t.tlevel)
  | 8 => BitVec.ofNat 32 t.slot
  | 9 => BitVec.ofNat 32 t.sindex
  | 10 => t.sid
  | 11 => BitVec.ofNat 32 (coreY t.core * 2 ^ 8 + coreX t.core)
  | 12 => s.blk.dpos
  | 13 => BitVec.ofNat 32 (s.dieClock t.die)
  | 14 => t.clkhi
  | 15 => BitVec.ofNat 32 s.blk.ctx.ctxid
  | 16 => loWord t.thand
  | 17 => hiWord t.thand
  | 18 => loWord t.tsave
  | 19 => hiWord t.tsave
  | 20 => loWord t.fstk
  | 21 => hiWord t.fstk
  | 22 => (t.hscr.get 0).lane l
  | 23 => (t.hscr.get 1).lane l
  | 24 => (t.hscr.get 2).lane l
  | 25 => (t.hscr.get 3).lane l
  | _ => t.ctxflags &&& 3

/-- Whether a special register is one of HSCR0 to HSCR3 (R152). -/
def isHscr (n : Nat) : Bool := decide (22 ≤ n) && decide (n ≤ 25)

/-- SREAD (R151 to R153). -/
def execSread (w : FSread) (s : State) : Res :=
  let n := w.n.toNat
  if !regsOk s.blk.hdr.regs w.d 1 then .next (s.takeTrap 1 0 0)
  else
    let act := s.active
    if act = 0 && !isHscr n then .next s.done
    else
      let m := if w.u || isHscr n then Mask.all else act
      let v := SVec.gen fun l => s.special n (if w.u && !isHscr n then 0 else l)
      let s := if n = 13 then s.onSt fun t => { t with clkhi := BitVec.ofNat 32 (s.dieClock t.die / 2 ^ 32) } else s
      .next ((s.rewrote w.d 1 m).onSt fun t => t.setReg w.d m v).done

/-- A 64-bit register with its low or high word replaced. -/
def withLo (a : Addr) (w : Word) : Addr := pairVal w (hiWord a)
@[inherit_doc withLo] def withHi (a : Addr) (w : Word) : Addr := pairVal (loWord a) w

/-- Write a special register (R151 to R153): the value of one lane, and the whole vector for the HSCR registers. -/
def Street.putSpecial (t : Street) (n : Nat) (x : Word) (v : SVec) : Street :=
  match n with
  | 1 => { t with sr := x &&& srMask, windows := t.windows.map fun w => { w with flags := 0 } }
  | 2 => { t with md := withLo t.md x }
  | 3 => { t with md := withHi t.md x }
  | 16 => { t with thand := withLo t.thand (x &&& 0xFFFFFFFC) }
  | 17 => { t with thand := withHi t.thand x }
  | 18 => { t with tsave := withLo t.tsave (x &&& 0xFFFFFF00) }
  | 19 => { t with tsave := withHi t.tsave x }
  | 20 => { t with fstk := withLo t.fstk (x &&& 0xFFFFFE00) }
  | 21 => { t with fstk := withHi t.fstk x }
  | 22 => { t with hscr := t.hscr.set 0 v }
  | 23 => { t with hscr := t.hscr.set 1 v }
  | 24 => { t with hscr := t.hscr.set 2 v }
  | 25 => { t with hscr := t.hscr.set 3 v }
  | _ => t

/-- Whether writing a special register is privileged (R153). -/
def privSpecial (n : Nat) : Bool := decide (16 ≤ n) && decide (n ≤ 21)

/-- SWRITE (R151 to R153): with no active lane a channel is neither waited for nor popped, and nothing is written (R13). -/
def execSwrite (w : FSwrite) (s : State) : Res :=
  let n := w.n.toNat
  let src := srcOfA w.a
  if !src.ok s.blk.hdr.regs false 1 then .next (s.takeTrap 1 0 0)
  else
    let act := s.active
    let g := s.gather [(src, 1)]
    let v := SVec.gen fun l => (g.vals.getD 0 []).word 0 l
    let lane := argLane w.u act
    let t := s.st.putSpecial n (v.lane lane) v
    let idle := act = 0 && (!isHscr n || src.isChan)
    if !idle && !s.chanBad src && s.present g && !mdOk t.md s.blk.hdr.regs then .next (s.takeTrap 1 0 0)
    else if privSpecial n && s.blk.ctx.user then .next (s.takeTrap 2 0 0)
    else if s.chanBad src then .next (s.takeTrap 9 0 0)
    else if idle then .next s.done
    else if !s.present g then .next (s.stalled .chanEmpty)
    else
      match s.srcBroken (if isHscr n then Mask.all else lanesUsed w.u act) (src, 1) with
      | some fa => .next (s.sramError.takeTrap 11 0 fa)
      | none => .next ((s.popAll g).onSt fun t => t.putSpecial n (v.lane lane) v).done

/-- ILL (R40): major opcode 0x00 takes ILLEGAL. -/
def execIll (_z : BitVec 25) (s : State) : Res := .next (s.takeTrap 1 0 0)

/-- ILLEGAL_WORD (R40): an unallocated opcode or an unlisted sub-op takes ILLEGAL. -/
def execIllegalWord (_w : Word) (s : State) : Res := .next (s.takeTrap 1 0 0)

end Sys2Proof.Machine
end

