-- ==== Sys2Proof/Machine/Members.lean ====
section
/-! DEFINITION. The members of a job (R380 to R384): heartbeats, declared failures and the shrink, holding and releasing, and
aborted collectives. A job is named by its JTAB slot. -/

namespace Sys2Proof.Machine

/-- Run on the table of a live slot. -/
def State.inJob (s : State) (job : Nat) (k : Nat → State) : Res :=
  match s.jobTable job with
  | some base => .next (k base)
  | none => .next s

/-- HEARTBEAT_SEND (R381): when one is due, it is sent to every other member, and the next one is due 10 µs later. -/
def execHeartbeatSend (job : Nat) (s : State) : Res :=
  s.inJob job fun _ =>
    if (s.job job).nextBeat ≤ s.timeNs then s.onJob job fun j => { j with nextBeat := s.timeNs + 10000 } else s

/-- HEARTBEAT_RECEIVE (R381): the failure timer of a member starts again, and its joins up to then are known. -/
def execHeartbeatReceive (job : Nat) (beat : Beat) (s : State) : Res :=
  s.inJob job fun _ => s.onJob job fun j =>
    beat.joins.foldl (fun j q => j.join q beat.dev s.timeNs)
      { j with beats := (beat.dev, s.timeNs) :: j.beats.filter fun b => b.1 != beat.dev }

/-- The monitors of lines that a device holds fire: a WAITA on them completes (R379). -/
def State.fireHome (s : State) (dev : Nat) : State :=
  let lines := (s.cores.flatMap fun c => c.monitors.map (·.line)).foldl addNew []
  (lines.filter fun l => decide (2 ^ 45 ≤ l) && homeDevice (l * 128 - 2 ^ 52) == dev).foldl (fun s l => s.fireLine l) s

/-- A member is declared failed (R379, R381, R382): its STATE; the collectives in flight restart without it; this device signs the
new membership, whose digest goes to the table and the contexts; and what stands out at it is lost. -/
def State.declareFailed (s : State) (job base dev : Nat) : State :=
  let s := s.setMember base dev 1
  let s := if s.anyHeld base then s else s.onJob job fun j => j.resume s.timeNs
  let s : State := { s with colls := s.colls.map fun (c : Coll) =>
      if c.slot = job ∧ c.status = .running ∧ c.members.contains dev then { c with shrunk := true } else c }
  (((s.attestJob job base).newDigest base).lostHome dev).fireHome dev

/-- The time of the last heartbeat of a member, or of the registration of the table. -/
def Job.lastBeat (j : Job) (dev : Nat) : Nat := match j.beats.find? fun b => b.1 == dev with | some b => b.2 | none => j.since

/-- HEARTBEAT_TIMEOUT (R381). -/
def execHeartbeatTimeout (job dev : Nat) (s : State) : Res :=
  s.inJob job fun base =>
    if s.memberState base dev != 1 && dev != s.pkg.fabid && decide ((s.job job).lastBeat dev + s.tabFto base ≤ s.timeNs) then
      s.declareFailed job base dev
    else s

/-- PROGRESS_TIMEOUT (R381, R383): of a live member that has not joined a collective within PTO of the first join of it, while
no member is held. -/
def execProgressTimeout (job dev : Nat) (s : State) : Res :=
  s.inJob job fun base =>
    let late := ((s.job job).lateJoins dev).any fun x => decide (Nat.max x.2.2 (s.job job).progress + s.tabPto base ≤ s.timeNs)
    if s.memberState base dev == 0 && dev != s.pkg.fabid && !s.anyHeld base && late then s.declareFailed job base dev else s

/-- Whether a block of a context of a job on this device is stopped for the debugger (R383). -/
def State.jobStopped (s : State) (job : Nat) : Bool :=
  s.allStreets.any fun t => t.stopped && match s.block? t.block with
    | some b => (s.jobOf b.ctx).any fun j => j.1 == job
    | none => false

/-- HOLD (R383): of a peer as it arrives; of this device while one of its blocks is stopped. -/
def execHold (job dev : Nat) (s : State) : Res :=
  s.inJob job fun base =>
    let mine := dev == s.pkg.fabid
    if s.memberState base dev == 0 && (!mine || s.jobStopped job) then
      (s.setMember base dev 2).onJob job fun j => { j with sentHold := j.sentHold || mine, heldAt := some (j.heldAt.getD s.timeNs) }
    else s

/-- RELEASE (R383): every progress timer starts again from zero. -/
def execRelease (job dev : Nat) (s : State) : Res :=
  s.inJob job fun base =>
    let mine := dev == s.pkg.fabid
    if s.memberState base dev == 2 && (!mine || !s.jobStopped job) then
      let t := s.setMember base dev 0
      t.onJob job fun j => { j with
        progress := s.timeNs, sentHold := j.sentHold && !mine, heldAt := if t.anyHeld base then some s.timeNs else none }
    else s

/-- ABORT (R384): the collective under a SEQ completes with MISMATCH, also where this device joins it later. -/
def execAbort (job seq : Nat) (s : State) : Res :=
  match s.colls.find? fun c => c.slot == job && c.seq == seq && c.status == .running with
  | some c => .next (s.collOver c .mismatch)
  | none => .next (s.onJob job fun j => { j.seqOver seq with aborted := addNew j.aborted seq })

end Sys2Proof.Machine
end

