-- ==== Sys2Proof/Machine/Fix.lean ====
section
/-! DEFINITION. The transcendental functions of R123 to R125. A function's exact real value is computed in fixed point far
below an ulp; the delivered f32 value is one of its two neighbours, a free choice per function, input and MD (R72, R124). -/

namespace Sys2Proof.Machine

/-- Fraction bits of the fixed point. -/
def fixP : Nat := 512

/-- 1 in fixed point. -/
def fixOne : Int := 2 ^ fixP

/-- Product in fixed point. -/
def fmulx (a b : Int) : Int := a * b / fixOne

/-- Quotient in fixed point. -/
def fdivx (a b : Int) : Int := a * fixOne / b

/-- Σ x^k / k! from a term on. -/
def expGo (x : Int) : Nat → Nat → Int → Int → Int
  | 0, _, _, acc => acc
  | n + 1, k, term, acc => let t := fmulx term x / (k : Int); expGo x n (k + 1) t (acc + t)

/-- exp x for a small x. -/
def expSmall (x : Int) : Int := expGo x 110 1 fixOne fixOne

/-- atanh z by its series, for |z| ≤ 1/3. -/
def atanhGo (z2 : Int) : Nat → Nat → Int → Int → Int
  | 0, _, _, acc => acc
  | n + 1, k, p, acc => atanhGo z2 n (k + 2) (fmulx p z2) (acc + p / (k : Int))

/-- atanh. -/
def atanhx (z : Int) : Int := atanhGo (fmulx z z) 170 1 z 0

/-- ln 2. -/
def ln2x : Int := 2 * atanhx (fixOne / 3)

/-- arctan 1/n by its series. -/
def atanInvGo (n2 : Int) : Nat → Nat → Int → Bool → Int → Int
  | 0, _, _, _, acc => acc
  | f + 1, k, p, sg, acc => atanInvGo n2 f (k + 2) (p / n2) (!sg) (if sg then acc - p / (k : Int) else acc + p / (k : Int))

/-- π by Machin's formula. -/
def pix : Int := 16 * atanInvGo 25 120 1 (fixOne / 5) false 0 - 4 * atanInvGo 57121 40 1 (fixOne / 239) false 0

/-- sin or cos of a reduced angle by series: start at term `k` with value `t`. -/
def trigGo (x2 : Int) : Nat → Nat → Int → Int → Int
  | 0, _, _, acc => acc
  | n + 1, k, t, acc => let t' := -(fmulx t x2) / ((k + 1) * (k + 2) : Nat); trigGo x2 n (k + 2) t' (acc + t')

/-- sin of |x| < 2. -/
def sinSmall (x : Int) : Int := trigGo (fmulx x x) 60 1 x x
/-- cos of |x| < 2. -/
def cosSmall (x : Int) : Int := trigGo (fmulx x x) 60 0 fixOne fixOne

/-- exp x with its binary exponent: exp x = r × 2^k, r in fixed point. -/
def expx (x : Int) : Int × Int :=
  let k := x / ln2x
  (expSmall (x - k * ln2x), k)

/-- Σ x^(2n+1) / (1·3·5 ⋯ (2n+1)). -/
def phiGo (x2 : Int) : Nat → Nat → Int → Int → Int
  | 0, _, _, acc => acc
  | n + 1, k, t, acc => let t' := fmulx t x2 / ((k + 2 : Nat) : Int); phiGo x2 n (k + 2) t' (acc + t')

/-- A finite value in fixed point, for exponents that fit. -/
def toFix (s : Bool) (m : Nat) (e : Int) : Int :=
  let v : Int := if 0 ≤ e + fixP then (m : Int) * 2 ^ (e + fixP).toNat else (m : Int) / 2 ^ (-(e + fixP)).toNat
  if s then -v else v

/-- A real value given by an approximation far below an ulp: sign, magnitude and exponent; never exactly representable. -/
abbrev Approx := Bool × Nat × Int

/-- Fixed point, scaled by 2^k, as an approximation. -/
def ofFix (v k : Int) : Approx := (decide (v < 0), 2 * v.natAbs + 1, k - fixP - 1)

/-- Just inside a magnitude: m × 2^e less a little. -/
def justBelow (s : Bool) (m : Nat) (e : Int) : Approx := (s, m * 2 ^ 64 - 1, e - 64)

/-- φ at x in fixed point with its binary exponent, |x| below 64. -/
def npdfx (x : Int) : Int × Int :=
  let r := expx (-(fmulx x x) / 2)
  let sq2pi : Int := (isqrt (2 * pix * fixOne).toNat : Int)
  (fdivx r.1 sq2pi, r.2)

/-- The approximation of F(x) for a finite x that is no special or exact input (R123). -/
def xcendReal (fn : Nat) (s : Bool) (m : Nat) (e : Int) : Approx :=
  let top : Int := (bitLen m : Int) + e
  match fn with
  | 0 =>
    let q := divDy 200 1 m
    (s, q.1, q.2 - e)
  | 1 =>
    let r := divDy 400 1 m
    let q := sqrtDy 200 r.1 (r.2 - e)
    (false, q.1 ||| 1, q.2)
  | 3 =>
    if 9 ≤ top then (if s then (false, 1, -400) else (false, 1, 400))
    else
      let x := toFix s m e
      let n := x / fixOne
      ofFix (expSmall (fmulx (x - n * fixOne) ln2x)) n
  | 4 =>
    let k : Int := (bitLen m : Int) - 1 + e
    let mm := toFix false m (e - k)
    let l := 2 * atanhx (fdivx (mm - fixOne) (mm + fixOne))
    ofFix (k * fixOne + fdivx l ln2x) 0
  | 5 | 6 =>
    if fn == 5 && decide (top < -40) then justBelow s m e
    else if fn == 6 && decide (top < -40) then justBelow false 1 0
    else
      let x := toFix s m e
      let q := (2 * x + pix / 2) / pix
      let r := x - q * pix / 2
      let j := (if fn = 5 then q else q + 1) % 4
      let v := if j = 0 then sinSmall r else if j = 1 then cosSmall r else if j = 2 then -sinSmall r else -cosSmall r
      ofFix v 0
  | 7 =>
    if top < -40 then justBelow s m e
    else if 6 ≤ top then justBelow s 1 0
    else
      let r := expx (2 * toFix false m e)
      let ex := r.1 * 2 ^ r.2.toNat
      let v := fdivx (ex - fixOne) (ex + fixOne)
      ofFix (if s then -v else v) 0
  | 8 =>
    if 5 ≤ top then (if s then (false, 1, -400) else justBelow false 1 0)
    else
      let x := toFix false m e
      let p := npdfx x
      let ser := phiGo (fmulx x x) 900 1 x x
      let half := fmulx p.1 ser
      let h := if 0 ≤ p.2 then half * 2 ^ p.2.toNat else half / 2 ^ (-p.2).toNat
      ofFix (if s then fixOne / 2 - h else fixOne / 2 + h) 0
  | _ =>
    if 5 ≤ top then (false, 1, -400)
    else
      let p := npdfx (toFix false m e)
      ofFix p.1 p.2

/-- A power of two, as its exponent. -/
def powTwo? (m : Nat) (e : Int) : Option Int := if m = 2 ^ (bitLen m - 1) then some ((bitLen m : Int) - 1 + e) else none

/-- The special and exact inputs of R124, whose results are exact. -/
def xcendExact (fn : Nat) (x : Nat) : Option FRes :=
  let s := f32.sign x
  match f32.num x with
  | .inf s =>
    match fn with
    | 0 => some (f32.zero s, 0)
    | 1 => some (if s then f32.invalid else (f32.zero false, 0))
    | 3 => some (if s then f32.zero false else f32.inf false, 0)
    | 4 => some (if s then f32.invalid else (f32.inf false, 0))
    | 5 | 6 => some f32.invalid
    | 7 => some (f32.zero s + f32.one, 0)
    | 8 => some (if s then f32.zero false else f32.one, 0)
    | _ => some (f32.zero false, 0)
  | .fin _ m e =>
    if m = 0 then
      match fn with
      | 0 | 1 => some (f32.inf s, 0)
      | 3 | 6 => some (f32.one, 0)
      | 4 => some (f32.inf true, 0)
      | 5 | 7 => some (f32.zero s, 0)
      | 8 => some (0x3F000000, 0)
      | _ => none
    else
      match fn with
      | 0 =>
        match powTwo? m e with
        | some k => if -126 ≤ -k && -k ≤ 127 then some (f32.round 0 false s 1 (-k)) else none
        | none => none
      | 1 =>
        if s then some f32.invalid
        else match powTwo? m e with
          | some k => if k % 2 = 0 then some (f32.round 0 false false 1 (-(k / 2))) else none
          | none => none
      | 3 =>
        let i := toIntRound 1 s m e
        if !i.2 && decide (-149 ≤ i.1) && decide (i.1 ≤ 127) then some (f32.round 0 false false 1 i.1) else none
      | 4 =>
        if s then some f32.invalid
        else match powTwo? m e with
          | some k => some (f32.round 0 false (decide (k < 0)) k.natAbs 0)
          | none => none
      | _ => none

/-- Whether a magnitude lies at or above the point where nearest rounding gives infinity. -/
def pastMax (m : Nat) (e : Int) : Bool :=
  let r := f32.round 0 false false m e
  r.1 == f32.inf false

/-- A subnormal result delivered as zero under FTZ (R74). -/
def ftzOut (ftz : Bool) (r : FRes) : FRes := if ftz && f32.isSub r.1 then (f32.zero (f32.sign r.1), r.2 ||| flUF ||| flNX) else r

/-- F(x) at f32 (R124), whatever MD.RND and MD.TYPE are: exact for the special and exact inputs; else a neighbour of the exact
result, with NX, and OF or UF under R73. An overflow delivers infinity, and the subnormal 2⁻¹²⁷ that RCP gives at ±2¹²⁷ is
delivered as it is, with NX and without UF (DESIGN CHOICE, log entry 60). -/
def xcend32 (fn : Nat) (ftz : Bool) (x : Nat) : FRes :=
  let x := f32.flush ftz x
  match f32.nanOf [x] with
  | some r => r
  | none =>
    match xcendExact fn x with
    | some r => ftzOut ftz r
    | none =>
      match f32.num x with
      | .inf _ => (f32.qnan, 0)
      | .fin s m e =>
        let a := if fn = 9 && m = 0 then ofFix (npdfx 0).1 (npdfx 0).2 else xcendReal fn s m e
        let up := Config.xcendValue fn ftz (BitVec.ofNat 32 x) != 0
        if pastMax a.2.1 a.2.2 then (f32.inf a.1, flOF ||| flNX)
        else
          let mode := if up != a.1 then 2 else 3
          let r := f32.round mode false a.1 a.2.1 a.2.2
          ftzOut ftz (if f32.isInf r.1 then f32.maxFin a.1 else r.1, flNX ||| (r.2 &&& flUF))

/-- An XCEND element in its format (R123 to R125): SQRT rounded once to the format; the others at f32, then rounded once to a
narrow format in MD.RND. -/
def xcendElem (f : Fmt) (fn : Nat) (rnd : Rnd) (ftz : Bool) (x : Nat) : FRes :=
  if fn = 2 then f.sqrt rnd ftz x
  else if f = f32 then xcend32 fn ftz x
  else
    let x := f.flush ftz x
    match f.nanOf [x] with
    | some r => r
    | none =>
      let w := f.convert f32 0 false x
      let r := xcend32 fn ftz w.1
      if f32.isNan r.1 then (f.qnan, r.2)
      else
        let n := f32.convert f rnd ftz r.1
        (n.1, r.2 ||| n.2)

end Sys2Proof.Machine
end

