-- ==== Sys2Proof/Machine/Typed.lean ====
section
/-! DEFINITION. Typed arithmetic, conversion and the XCEND group (R108 to R126): elements follow MD.TYPE. -/

namespace Sys2Proof.Machine

/-- An element read by its integer type. -/
def intOf (ty x : Nat) : Int := if tySigned ty then (BitVec.ofNat (tyWidth ty) x).toInt else (x : Int)

/-- The range of an integer type (R68). -/
def tyMin (ty : Nat) : Int := if tySigned ty then -(2 ^ (tyWidth ty - 1)) else 0
@[inherit_doc tyMin] def tyMax (ty : Nat) : Int := if tySigned ty then 2 ^ (tyWidth ty - 1) - 1 else 2 ^ tyWidth ty - 1

/-- Keep an exact integer modulo 2ⁿ of a type. -/
def intWrap (ty : Nat) (x : Int) : Nat := (BitVec.ofInt (tyWidth ty) x).toNat

/-- Clamp an exact integer to the range of a type, with SR.SAT when it acts. -/
def intClamp (ty : Nat) (x : Int) : FRes :=
  if x < tyMin ty then (intWrap ty (tyMin ty), flSAT)
  else if tyMax ty < x then (intWrap ty (tyMax ty), flSAT)
  else (intWrap ty x, 0)

/-- The exact integer result of an element under MD.SAT (R70, R111). -/
def intRes (ty : Nat) (sat : Bool) (x : Int) : FRes := if sat then intClamp ty x else (intWrap ty x, 0)

/-- The weigh counter and count per lane of a typed instruction (R108). -/
def tyCnt (ty : Nat) : Nat × Nat :=
  match ty with
  | 2 => (12, 1)
  | 3 | 4 | 10 | 11 => (13, tyElems ty)
  | _ => (14, 1)

/-- Put elements of a width together. -/
def packElems (w : Nat) (xs : List FRes) : Addr × Word :=
  let r := xs.foldl (fun (p : Nat × Nat × Word) x => (p.1 + 1, p.2.1 + x.1 * 2 ^ (w * p.1), p.2.2 ||| x.2)) (0, 0, 0)
  (BitVec.ofNat 64 r.2.1, r.2.2)

/-- The elementwise operation of a type on up to three sources. -/
def tyLane (ty : Nat) (f : Nat → Nat → Nat → FRes) (vs : List Val) (l : Lane) : Addr × Word :=
  let a := (vs.getD 0 []).pair l
  let b := (vs.getD 1 []).pair l
  let d := (vs.getD 2 []).pair l
  packElems (tyWidth ty) ((List.range (tyElems ty)).map fun i => f (tyElem ty a i) (tyElem ty b i) (tyElem ty d i))

/-- A typed format A operation (R109, R110). -/
def typedA (w : FA) (ty : Nat) (ok : Bool) (f : Nat → Nat → FRes) : VecOp :=
  let n := tyWords ty
  { u := w.u, la := 0, ok := ok, srcs := [(srcOfA w.a, n), (srcOfB w.b, n)], dst := w.d, dwords := n, pairChan := false
    cnt := tyCnt ty, f := fun _ vs l => tyLane ty (fun a b _ => f a b) vs l }

/-- A typed format A operation that also reads d. -/
def typedA3 (w : FA3) (ty : Nat) (ok : Bool) (f : Nat → Nat → Nat → FRes) : VecOp :=
  let n := tyWords ty
  { u := w.u, la := 0, ok := ok, srcs := [(srcOfA w.a, n), (srcOfB w.b, n), (.reg w.d 0, n)], dst := regDst w.d, dwords := n
    pairChan := false, cnt := tyCnt ty, f := fun _ vs l => tyLane ty f vs l }

/-- A typed one-source operation (R117). -/
def typedB (w : FB) (ty : Nat) (ok : Bool) (f : Nat → FRes) : VecOp :=
  let n := tyWords ty
  { u := w.u, la := 0, ok := ok, srcs := [(srcOfA w.a, n)], dst := w.d, dwords := n, pairChan := false
    cnt := tyCnt ty, f := fun _ vs l => tyLane ty (fun a _ _ => f a) vs l }

/-- Whether a code is a type (R54). -/
def tyAny (ty : Nat) : Bool := decide (ty ≤ 11)
/-- Whether a type is floating. -/
def tyFloat (ty : Nat) : Bool := (tyFmt ty).isSome

/-- An operation by integer or floating type (R111, R112). -/
def arith2 (md : Addr) (fi : Int → Int → Int) (ff : Fmt → Nat → Nat → FRes) (a b : Nat) : FRes :=
  let ty := mdType md
  match tyFmt ty with
  | some f => ff f a b
  | none => intRes ty (mdSat md) (fi (intOf ty a) (intOf ty b))

/-- A fused operation by type: ±(a × b) ± d. -/
def arith3 (md : Addr) (negP negD : Bool) (a b d : Nat) : FRes :=
  let ty := mdType md
  match tyFmt ty with
  | some f => f.fma (mdRnd md) (mdFtz md) negP negD a b d
  | none =>
    let p := intOf ty a * intOf ty b
    intRes ty (mdSat md) ((if negP then -p else p) + (if negD then -intOf ty d else intOf ty d))

/-- ADD (R111, R112). -/
def execAdd (w : FA) (s : State) : Res :=
  .next (s.runVec (typedA w (mdType s.st.md) (tyAny (mdType s.st.md))
    (arith2 s.st.md (· + ·) fun f a b => f.add (mdRnd s.st.md) (mdFtz s.st.md) false a b)))
/-- SUB (R111, R112). -/
def execSub (w : FA) (s : State) : Res :=
  .next (s.runVec (typedA w (mdType s.st.md) (tyAny (mdType s.st.md))
    (arith2 s.st.md (· - ·) fun f a b => f.add (mdRnd s.st.md) (mdFtz s.st.md) true a b)))
/-- MUL (R111, R112). -/
def execMul (w : FA) (s : State) : Res :=
  .next (s.runVec (typedA w (mdType s.st.md) (tyAny (mdType s.st.md))
    (arith2 s.st.md (· * ·) fun f a b => f.mul (mdRnd s.st.md) (mdFtz s.st.md) a b)))
/-- FMA (R111, R112). -/
def execFma (w : FA3) (s : State) : Res :=
  .next (s.runVec (typedA3 w (mdType s.st.md) (tyAny (mdType s.st.md)) (arith3 s.st.md false false)))
/-- FMS (R111, R112). -/
def execFms (w : FA3) (s : State) : Res :=
  .next (s.runVec (typedA3 w (mdType s.st.md) (tyAny (mdType s.st.md)) (arith3 s.st.md false true)))
/-- FNMA (R111, R112). -/
def execFnma (w : FA3) (s : State) : Res :=
  .next (s.runVec (typedA3 w (mdType s.st.md) (tyAny (mdType s.st.md)) (arith3 s.st.md true false)))

/-- MIN, and MAX with `max`, of an element (R113). -/
def minMaxElem (md : Addr) (max : Bool) (a b : Nat) : FRes :=
  let ty := mdType md
  match tyFmt ty with
  | some f => f.minMax (mdFtz md) max a b
  | none => (if decide (intOf ty a ≤ intOf ty b) != max then a else b, 0)

/-- MIN (R113). -/
def execMin (w : FA) (s : State) : Res :=
  .next (s.runVec (typedA w (mdType s.st.md) (tyAny (mdType s.st.md)) (minMaxElem s.st.md false)))
/-- MAX (R113). -/
def execMax (w : FA) (s : State) : Res :=
  .next (s.runVec (typedA w (mdType s.st.md) (tyAny (mdType s.st.md)) (minMaxElem s.st.md true)))

/-- A compare of an element (R114): the result where a source is NaN, whether every NaN sets IV, and the relation. -/
def cmpElem (md : Addr) (nan allIv : Bool) (rel : Int → Bool) (a b : Nat) : FRes :=
  let ty := mdType md
  let res (c : Bool) : Nat := if c then 2 ^ tyWidth ty - 1 else 0
  match tyFmt ty with
  | some f =>
    let a := f.flush (mdFtz md) a
    let b := f.flush (mdFtz md) b
    if f.isNan a || f.isNan b then (res nan, flIf (allIv || f.isSnan a || f.isSnan b) flIV)
    else (res (rel ((f.num a).cmp (f.num b))), 0)
  | none =>
    let x := intOf ty a
    let y := intOf ty b
    (res (rel (if x < y then -1 else if x = y then 0 else 1)), 0)

/-- CEQ (R114). -/
def execCeq (w : FA) (s : State) : Res :=
  .next (s.runVec (typedA w (mdType s.st.md) (tyAny (mdType s.st.md)) (cmpElem s.st.md false false (· == 0))))
/-- CNE (R114). -/
def execCne (w : FA) (s : State) : Res :=
  .next (s.runVec (typedA w (mdType s.st.md) (tyAny (mdType s.st.md)) (cmpElem s.st.md true false (· != 0))))
/-- CLT (R114). -/
def execClt (w : FA) (s : State) : Res :=
  .next (s.runVec (typedA w (mdType s.st.md) (tyAny (mdType s.st.md)) (cmpElem s.st.md false true fun c => decide (c < 0))))
/-- CLE (R114). -/
def execCle (w : FA) (s : State) : Res :=
  .next (s.runVec (typedA w (mdType s.st.md) (tyAny (mdType s.st.md)) (cmpElem s.st.md false true fun c => decide (c ≤ 0))))
/-- CUN (R114): floating types only. -/
def execCun (w : FA) (s : State) : Res :=
  .next (s.runVec (typedA w (mdType s.st.md) (tyFloat (mdType s.st.md)) (cmpElem s.st.md true false fun _ => false)))

/-- The floating dot product of R115: products of narrow elements and d, summed exactly, one rounding to f32. A NaN source goes
before an invalid product or sum, which then sets no IV (DESIGN CHOICE, log entry 58). -/
def dotFloat (f : Fmt) (rnd : Rnd) (ftz : Bool) (as bs : List Nat) (d : Nat) : FRes :=
  let as := as.map (f.flush ftz)
  let bs := bs.map (f.flush ftz)
  let d := f32.flush ftz d
  let order := (as.zip bs).flatMap fun p => [p.1, p.2]
  let iv := flIf (order.any f.isSnan || f32.isSnan d) flIV
  match order.find? f.isNan with
  | some x => ((f.convert f32 0 false x).1, iv)
  | none =>
    if f32.isNan d then (f32.quiet d, iv)
    else
      let ps := (as.zip bs).map fun p => (f.num p.1).mul (f.num p.2)
      if ps.any Option.isNone then f32.invalid
      else f32.sum rnd ftz ((ps.filterMap id) ++ [f32.num d])

/-- The dot product of a lane (R115). -/
def dotLane (md : Addr) (vs : List Val) (l : Lane) : Addr × Word :=
  let ty := mdType md
  let a := (vs.getD 0 []).pair l
  let b := (vs.getD 1 []).pair l
  let d := (vs.getD 2 []).word 0 l
  let as := (List.range (tyElems ty)).map (tyElem ty a)
  let bs := (List.range (tyElems ty)).map (tyElem ty b)
  match tyFmt ty with
  | some f => let r := dotFloat f (mdRnd md) (mdFtz md) as bs d.toNat; (BitVec.ofNat 64 r.1, r.2)
  | none =>
    let x : Int := (as.zip bs).foldl (fun acc p => acc + intOf ty p.1 * intOf ty p.2) d.toInt
    let r := satOr (mdSat md) x
    (pairVal r.1 0, r.2)

/-- A dot product (R115). -/
def dotOp (w : FA3) (md : Addr) (ok : Bool) : VecOp :=
  { u := w.u, la := 0, ok := ok, srcs := [(srcOfA w.a, 1), (srcOfB w.b, 1), (.reg w.d 0, 1)], dst := regDst w.d, dwords := 1
    pairChan := false, cnt := tyCnt (mdType md), f := fun _ vs l => dotLane md vs l }

/-- DOT2 (R115). -/
def execDot2 (w : FA3) (s : State) : Res :=
  .next (s.runVec (dotOp w s.st.md ([3, 4, 5, 6].contains (mdType s.st.md))))
/-- DOT4 (R115). -/
def execDot4 (w : FA3) (s : State) : Res :=
  .next (s.runVec (dotOp w s.st.md ([7, 8].contains (mdType s.st.md))))

/-- R116: the rounding right shift of one source value. -/
def rshrOf (ty k : Nat) (x : Int) : FRes := intClamp ty (if k = 0 then x else (x + 2 ^ (k - 1)) / 2 ^ k)

/-- RSHR (R116). -/
def execRshr (w : FA) (s : State) : Res :=
  let ty := mdType s.st.md
  let aw := match ty with | 5 | 6 | 9 => 2 | 7 | 8 => 4 | _ => 1
  let n := tyWords ty
  let okTy := [0, 1, 5, 6, 7, 8, 9].contains ty
  .next (s.runVec
    { u := w.u, la := 0, ok := okTy && (decide (ty ≤ 1) || (!w.a.chan && !w.d.chan))
      srcs := [(srcOfA w.a, aw), (srcOfB w.b, n)], dst := w.d, dwords := n, pairChan := false, cnt := tyCnt ty
      f := fun _ vs l =>
        let k := bits ((vs.getD 1 []).word 0 l).toNat 0 6
        let a := vs.getD 0 []
        match ty with
        | 9 => let r := rshrOf 9 k (a.pair l).toInt; (BitVec.ofNat 64 r.1, r.2)
        | 1 => let r := rshrOf 1 k (a.word 0 l).toNat; (BitVec.ofNat 64 r.1, r.2)
        | _ => packElems (tyWidth ty) ((List.range (tyElems ty)).map fun e => rshrOf ty k (a.word e l).toInt) })

/-- ABS of an element (R118). -/
def absElem (md : Addr) (x : Nat) : FRes :=
  let ty := mdType md
  match tyFmt ty with
  | some f => (x % 2 ^ (f.width - 1), 0)
  | none => intRes ty (mdSat md) (intOf ty x).natAbs

/-- NEG of an element (R118). -/
def negElem (md : Addr) (x : Nat) : FRes :=
  let ty := mdType md
  match tyFmt ty with
  | some f => (x ^^^ 2 ^ (f.width - 1), 0)
  | none => intRes ty (mdSat md) (-intOf ty x)

/-- SATP of an element (R120). -/
def satpElem (md : Addr) (x : Nat) : FRes :=
  let ty := mdType md
  match tyFmt ty with
  | some f =>
    if f.isNan x then (0, flIf (f.isSnan x) flIV)
    else if f.sign x then (0, 0)
    else (Nat.min x f.one, 0)
  | none => (if intOf ty x < 0 then 0 else x, 0)

/-- ABS (R118). -/
def execAbs (w : FB) (s : State) : Res :=
  .next (s.runVec (typedB w (mdType s.st.md) (tyAny (mdType s.st.md)) (absElem s.st.md)))
/-- NEG (R118). -/
def execNeg (w : FB) (s : State) : Res :=
  .next (s.runVec (typedB w (mdType s.st.md) (tyAny (mdType s.st.md)) (negElem s.st.md)))
/-- FRACT (R119). -/
def execFract (w : FB) (s : State) : Res :=
  .next (s.runVec (typedB w (mdType s.st.md) (tyFloat (mdType s.st.md)) fun x =>
    match tyFmt (mdType s.st.md) with | some f => f.fract (mdRnd s.st.md) (mdFtz s.st.md) x | none => (x, 0)))
/-- RNDI (R119). -/
def execRndi (w : FB) (s : State) : Res :=
  .next (s.runVec (typedB w (mdType s.st.md) (tyFloat (mdType s.st.md)) fun x =>
    match tyFmt (mdType s.st.md) with | some f => f.rndi (mdRnd s.st.md) (mdFtz s.st.md) x | none => (x, 0)))
/-- SATP (R120). -/
def execSatp (w : FB) (s : State) : Res :=
  .next (s.runVec (typedB w (mdType s.st.md) (tyAny (mdType s.st.md)) (satpElem s.st.md)))

/-- The conversion of one element from type `ts` to type `tt` (R122). To its own code a subnormal is copied as it is under FTZ too, where the
last lines of R122 and R74 flush a floating source (DESIGN CHOICE, log entry 81). -/
def cvtElem (md : Addr) (ts tt x : Nat) : FRes :=
  if ts = tt then (x, 0)
  else
    match tyFmt ts, tyFmt tt with
    | none, none => intRes tt (mdSat md) (intOf ts x)
    | none, some f => f.ofInt (mdRnd md) false (intOf ts x)
    | some g, some f => g.convert f (mdRnd md) (mdFtz md) x
    | some g, none =>
      let x := g.flush (mdFtz md) x
      if g.isNan x then (0, flIV)
      else
        match g.num x with
        | .inf sg => (intWrap tt (if sg then tyMin tt else tyMax tt), flIV)
        | .fin sg m e =>
          let r := toIntRound (mdRnd md) sg m e
          if r.1 < tyMin tt then (intWrap tt (tyMin tt), flIV)
          else if tyMax tt < r.1 then (intWrap tt (tyMax tt), flIV)
          else (intWrap tt r.1, flIf r.2 flNX)

/-- CVT (R121, R122): with s64 as source or target no channel is accepted (R108). -/
def execCvt (w : FCvt) (s : State) : Res :=
  let md := s.st.md
  let ts := mdType md
  let tt := w.t.toNat
  .next (s.runVec
    { u := w.u, la := 0, ok := tyAny ts && tyAny tt && ((ts != 9 && tt != 9) || (!w.a.chan && !w.d.chan)), srcs := [(srcOfA w.a, tyWords ts)], dst := w.d, dwords := tyWords tt
      pairChan := false, cnt := tyCnt ts
      f := fun _ vs l =>
        let x := (vs.getD 0 []).pair l
        packElems (tyWidth tt) ((List.range (Nat.min (tyElems ts) (tyElems tt))).map fun i => cvtElem md ts tt (tyElem ts x i)) })

/-- An XCEND instruction: one function per element, counted by elements in weigh counter 16 (R108, R123 to R126). -/
def xcendOp (w : FL) (md : Addr) (fn : Nat) : VecOp :=
  let ty := mdType md
  { u := w.u, la := w.la.toNat, ok := tyFloat ty, srcs := [(srcOfA w.a, 1)], dst := w.d, dwords := 1, pairChan := false
    cnt := (16, tyElems ty)
    f := fun _ vs l => tyLane ty (fun a _ _ =>
      match tyFmt ty with | some f => xcendElem f fn (mdRnd md) (mdFtz md) a | none => (a, 0)) vs l }

/-- RCP (R123). -/
def execRcp (w : FL) (s : State) : Res := .next (s.runVec (xcendOp w s.st.md 0))
/-- RSQ (R123). -/
def execRsq (w : FL) (s : State) : Res := .next (s.runVec (xcendOp w s.st.md 1))
/-- SQRT (R123). -/
def execSqrt (w : FL) (s : State) : Res := .next (s.runVec (xcendOp w s.st.md 2))
/-- EXP2 (R123). -/
def execExp2 (w : FL) (s : State) : Res := .next (s.runVec (xcendOp w s.st.md 3))
/-- LOG2 (R123). -/
def execLog2 (w : FL) (s : State) : Res := .next (s.runVec (xcendOp w s.st.md 4))
/-- SIN (R123). -/
def execSin (w : FL) (s : State) : Res := .next (s.runVec (xcendOp w s.st.md 5))
/-- COS (R123). -/
def execCos (w : FL) (s : State) : Res := .next (s.runVec (xcendOp w s.st.md 6))
/-- TANH (R123). -/
def execTanh (w : FL) (s : State) : Res := .next (s.runVec (xcendOp w s.st.md 7))
/-- NCDF (R123). -/
def execNcdf (w : FL) (s : State) : Res := .next (s.runVec (xcendOp w s.st.md 8))
/-- NPDF (R123). -/
def execNpdf (w : FL) (s : State) : Res := .next (s.runVec (xcendOp w s.st.md 9))

end Sys2Proof.Machine
end

