-- ==== Sys2Proof/Machine/Moment.lean ====
section
/-! DEFINITION. The moment instructions (R127 to R138): every step is one f32 operation with one rounding, and the flags of
the steps are joined. -/

namespace Sys2Proof.Machine

/-- Take a step's result and join its flags. -/
def andThen {α : Type} (r : FRes) (k : Nat → α × Word) : α × Word := let q := k r.1; (q.1, q.2 ||| r.2)

/-- MD.RND, FTZ and TYPE as the steps use them. -/
structure MCtx where
  rnd : Rnd
  ftz : Bool

/-- rnd(x + y). -/
def MCtx.add (c : MCtx) (x y : Nat) : FRes := f32.add c.rnd c.ftz false x y
/-- rnd(x − y). -/
def MCtx.sub (c : MCtx) (x y : Nat) : FRes := f32.add c.rnd c.ftz true x y
/-- rnd(x × y). -/
def MCtx.mul (c : MCtx) (x y : Nat) : FRes := f32.mul c.rnd c.ftz x y
/-- rnd(x × y + z). -/
def MCtx.fma (c : MCtx) (x y z : Nat) : FRes := f32.fma c.rnd c.ftz false false x y z
/-- rnd(−x × y + z). -/
def MCtx.fnma (c : MCtx) (x y z : Nat) : FRes := f32.fma c.rnd c.ftz true false x y z
/-- sq(x). -/
def MCtx.sq (c : MCtx) (x : Nat) : FRes := f32.sqrt c.rnd c.ftz x
/-- rnd(x / y). -/
def MCtx.div (c : MCtx) (x y : Nat) : FRes := f32.div c.rnd c.ftz x y
/-- EXP2. -/
def MCtx.exp2 (c : MCtx) (x : Nat) : FRes := xcend32 3 c.ftz x
/-- NCDF. -/
def MCtx.ncdf (c : MCtx) (x : Nat) : FRes := xcend32 8 c.ftz x
/-- NPDF. -/
def MCtx.npdf (c : MCtx) (x : Nat) : FRes := xcend32 9 c.ftz x

/-- f32 constants: 0.5, 1, 2, 4, π/8 and log₂ e (R137). -/
def kHalf : Nat := 0x3F000000
@[inherit_doc kHalf] def kOne : Nat := 0x3F800000
@[inherit_doc kHalf] def kTwo : Nat := 0x40000000
@[inherit_doc kHalf] def kFour : Nat := 0x40800000
@[inherit_doc kHalf] def kPi8 : Nat := 0x3EC90FDB
@[inherit_doc kHalf] def kLog2e : Nat := 0x3FB8AA3B

/-- The steps context of MD. -/
def mctx (md : Addr) : MCtx := ⟨mdRnd md, mdFtz md⟩

/-- A variance input below zero is bad; −0 and NaN are not (R131). -/
def varBad (ftz : Bool) (v : Nat) : Bool :=
  let v := f32.flush ftz v
  f32.sign v && !f32.isNan v && !f32.isZero v

/-- A correlation input that is NaN or beyond 1 in magnitude is bad (R131). -/
def rhoBad (ftz : Bool) (r : Nat) : Bool :=
  let r := f32.flush ftz r
  f32.isNan r || decide (kOne < r % 2 ^ 31)

/-- Stages 1 and 2 of R130 for a variance: the value used, and MCL when it was clamped. -/
def varIn (ftz : Bool) (v : Nat) : FRes :=
  let v := f32.flush ftz v
  if f32.isZero v then (0, 0) else if varBad ftz v then (0, flMCL) else (v, 0)

/-- Stages 1 and 2 of R130 for a correlation. -/
def rhoIn (ftz : Bool) (r : Nat) : FRes :=
  let r := f32.flush ftz r
  if f32.isNan r then (0, flMCL)
  else if kOne < r % 2 ^ 31 then (if f32.sign r then kOne + 2 ^ 31 else kOne, flMCL)
  else (r, 0)

/-- Stage 5 of R130: a variance result with its sign set becomes +0. -/
def varOut (v : Nat) : Nat := if f32.sign v && !f32.isNan v then 0 else v

/-- A mean and a variance with flags. -/
abbrev MRes := (Nat × Nat) × Word

/-- Stages 3 to 5 of R130 for a result in two halves. -/
def momentRes (ins : List Nat) (steps : MRes) : MRes :=
  match ins.find? f32.isNan with
  | some x => ((f32.quiet x, f32.quiet x), flIf (ins.any f32.isSnan) flIV)
  | none => ((steps.1.1, varOut steps.1.2), steps.2)

/-- Twice a correlation, exact (R133). -/
def twice (r : Nat) : Nat := (f32.mul 0 false kTwo r).1

/-- Negated encoding. -/
def fneg (x : Nat) : Nat := x ^^^ 2 ^ 31

/-- R133: MADD, and MSUB with `sub`. -/
def maddSteps (c : MCtx) (sub : Bool) (ma va mb vb r : Nat) : MRes :=
  andThen (if sub then c.sub ma mb else c.add ma mb) fun m =>
  andThen (c.add va vb) fun t =>
  if f32.isZero r then ((m, t), 0)
  else
    andThen (c.sq va) fun sa => andThen (c.sq vb) fun sb => andThen (c.mul sa sb) fun s =>
    andThen (c.fma (if sub then fneg (twice r) else twice r) s t) fun v => ((m, v), 0)

/-- R134: MMUL. -/
def mmulSteps (c : MCtx) (ma va mb vb r : Nat) : MRes :=
  andThen (c.mul ma mb) fun p =>
  andThen (c.mul ma ma) fun aa => andThen (c.mul aa vb) fun u0 =>
  andThen (c.mul mb mb) fun bb => andThen (c.fma bb va u0) fun u =>
  andThen (c.mul va vb) fun v =>
  if f32.isZero r then andThen (c.add u v) fun w => ((p, w), 0)
  else
    andThen (c.sq va) fun sa => andThen (c.sq vb) fun sb => andThen (c.mul sa sb) fun s =>
    andThen (c.fma r s p) fun m =>
    andThen (c.fma r r kOne) fun rr => andThen (c.mul v rr) fun v =>
    andThen (c.mul (twice r) p) fun q => andThen (c.add u v) fun uv =>
    andThen (c.fma q s uv) fun w => ((m, w), 0)

/-- R137: MRELU. -/
def mreluSteps (c : MCtx) (m v : Nat) : MRes :=
  if f32.isZero v then ((if f32.sign m || f32.isZero m then 0 else m, 0), 0)
  else
    andThen (c.sq v) fun s => andThen (c.div m s) fun a =>
    andThen (c.ncdf a) fun p => andThen (c.npdf a) fun d =>
    andThen (c.mul s d) fun sd => andThen (c.fma m p sd) fun m' =>
    andThen (c.fma m m v) fun mm => andThen (c.mul m s) fun ms => andThen (c.mul ms d) fun msd =>
    andThen (c.fma mm p msd) fun e2 => andThen (c.fnma m' m' e2) fun v' => ((m', v'), 0)

/-- R137: MSIG. -/
def msigSteps (c : MCtx) (m v : Nat) : MRes :=
  andThen (c.fma kPi8 v kOne) fun k => andThen (c.sq k) fun q => andThen (c.div m q) fun a =>
  andThen (c.ncdf a) fun m' => andThen (c.sub kOne m') fun n => andThen (c.mul m' n) fun g =>
  andThen (c.mul g g) fun gg => andThen (c.mul gg v) fun v' => ((m', v'), 0)

/-- R137: MEXP. -/
def mexpSteps (c : MCtx) (m v : Nat) : MRes :=
  andThen (c.fma kHalf v m) fun x => andThen (c.mul x kLog2e) fun y => andThen (c.exp2 y) fun m' =>
  andThen (c.mul v kLog2e) fun z => andThen (c.exp2 z) fun e => andThen (c.sub e kOne) fun q =>
  andThen (c.fma kTwo m v) fun x2 => andThen (c.mul x2 kLog2e) fun y2 => andThen (c.exp2 y2) fun e2 =>
  andThen (c.mul q e2) fun v' => ((m', v'), 0)

/-- R137: MGELU. -/
def mgeluSteps (c : MCtx) (m v : Nat) : MRes :=
  andThen (c.add v kOne) fun v1 => andThen (c.sq v1) fun k => andThen (c.div m k) fun a =>
  andThen (c.ncdf a) fun p => andThen (c.npdf a) fun d =>
  andThen (c.div v k) fun vk => andThen (c.mul vk d) fun vd => andThen (c.fma m p vd) fun m' =>
  andThen (c.fma a d p) fun g => andThen (c.mul g g) fun gg => andThen (c.mul gg v) fun v' => ((m', v'), 0)

/-- R137: MSQR. -/
def msqrSteps (c : MCtx) (m v : Nat) : MRes :=
  andThen (c.fma m m v) fun m' =>
  andThen (c.mul m m) fun mm => andThen (c.mul kFour mm) fun m4 =>
  andThen (c.mul v v) fun vv => andThen (c.mul kTwo vv) fun v2 =>
  andThen (c.fma m4 v v2) fun v' => ((m', v'), 0)

/-- The two halves as a lane result. -/
def mPack (r : MRes) : Addr × Word := (pairVal (BitVec.ofNat 32 r.1.1) (BitVec.ofNat 32 r.1.2), r.2)

/-- Join flags to a result. -/
def MRes.or (r : MRes) (f : Word) : MRes := (r.1, r.2 ||| f)

/-- The inputs of a one-moment instruction, its steps taken under R130. -/
def one (md : Addr) (steps : MCtx → Nat → Nat → MRes) (a : Val) (l : Lane) : MRes :=
  let ftz := mdFtz md
  let m := f32.flush ftz (a.word 0 l).toNat
  let v := varIn ftz (a.word 1 l).toNat
  (momentRes [m, v.1] (steps (mctx md) m v.1)).or v.2

/-- Whether any lane of a mask has a bad input and MVCLAMP is 0 (R131). -/
def badLanes (md : Addr) (m : Mask) (bad : Lane → Bool) : Bool := !mdMvclamp md && m.lanes.any bad

/-- A MOMNL instruction (R136). -/
def momnlOp (w : FML) (md : Addr) (steps : MCtx → Nat → Nat → MRes) : VecOp :=
  { u := w.u, la := w.la.toNat, ok := true, srcs := [(.reg w.a.idx w.a.p.toNat, 2)], dst := regDst w.d, dwords := 2
    pairChan := false, cnt := (15, 1)
    f := fun _ vs l => mPack (one md steps (vs.getD 0 []) l)
    mvar := fun m vs => badLanes md m fun l => varBad (mdFtz md) ((vs.getD 0 []).word 1 l).toNat }

/-- The correlation of a lane under MD.MCOV (R128): a value, and the flags of its clamp. -/
def rhoOf (md : Addr) (vs : List Val) (l : Lane) : FRes :=
  match mdMcov md with
  | 0 => (0, 0)
  | 1 => (kOne, 0)
  | 2 => (kOne + 2 ^ 31, 0)
  | _ => rhoIn (mdFtz md) ((vs.getD 2 []).word 0 l).toNat

/-- The correlation as an input of the NaN rule: only EXPL has one (R130). -/
def rhoIns (md : Addr) (vs : List Val) (l : Lane) : List Nat := if mdMcov md = 3 then [(rhoOf md vs l).1] else []

/-- A two-moment instruction (R132 to R134). -/
def moment2Op (w : FM2) (md : Addr) (steps : MCtx → Nat → Nat → Nat → Nat → Nat → MRes) : VecOp :=
  let ftz := mdFtz md
  { u := w.u, la := 0, ok := true
    srcs := [(.reg w.a.idx w.a.p.toNat, 2), (.reg w.b.idx (b2n w.b.p), 2)]
      ++ (if mdMcov md = 3 then [(.reg (mdMrho md) 0, 1)] else [])
    dst := regDst w.d, dwords := 2, pairChan := false, cnt := (15, 1)
    f := fun _ vs l =>
      let ma := f32.flush ftz ((vs.getD 0 []).word 0 l).toNat
      let va := varIn ftz ((vs.getD 0 []).word 1 l).toNat
      let mb := f32.flush ftz ((vs.getD 1 []).word 0 l).toNat
      let vb := varIn ftz ((vs.getD 1 []).word 1 l).toNat
      let r := rhoOf md vs l
      mPack ((momentRes ([ma, va.1, mb, vb.1] ++ rhoIns md vs l) (steps (mctx md) ma va.1 mb vb.1 r.1)).or
        (va.2 ||| vb.2 ||| r.2))
    mvar := fun m vs => badLanes md m fun l =>
      varBad ftz ((vs.getD 0 []).word 1 l).toNat || varBad ftz ((vs.getD 1 []).word 1 l).toNat
        || (mdMcov md == 3 && rhoBad ftz ((vs.getD 2 []).word 0 l).toNat) }

/-- MADD (R133). -/
def execMadd (w : FM2) (s : State) : Res := .next (s.runVec (moment2Op w s.st.md fun c => maddSteps c false))
/-- MSUB (R133). -/
def execMsub (w : FM2) (s : State) : Res := .next (s.runVec (moment2Op w s.st.md fun c => maddSteps c true))
/-- MMUL (R134). -/
def execMmul (w : FM2) (s : State) : Res := .next (s.runVec (moment2Op w s.st.md mmulSteps))

/-- MSCL (R135). -/
def execMscl (w : FMScl) (s : State) : Res :=
  let md := s.st.md
  let ftz := mdFtz md
  .next (s.runVec
    { u := w.u, la := 0, ok := true, srcs := [(.reg w.a.idx w.a.p.toNat, 2), (srcOfB w.b, 1)], dst := regDst w.d, dwords := 2
      pairChan := false, cnt := (15, 1)
      f := fun _ vs l =>
        let c := mctx md
        let m := f32.flush ftz ((vs.getD 0 []).word 0 l).toNat
        let v := varIn ftz ((vs.getD 0 []).word 1 l).toNat
        let k := f32.flush ftz ((vs.getD 1 []).word 0 l).toNat
        mPack ((momentRes [m, v.1, k] (andThen (c.mul m k) fun x => andThen (c.mul k k) fun kk =>
          andThen (c.mul v.1 kk) fun y => ((x, y), 0))).or v.2)
      mvar := fun m vs => badLanes md m fun l => varBad ftz ((vs.getD 0 []).word 1 l).toNat })

/-- MRELU (R137). -/
def execMrelu (w : FML) (s : State) : Res := .next (s.runVec (momnlOp w s.st.md mreluSteps))
/-- MSIG (R137). -/
def execMsig (w : FML) (s : State) : Res := .next (s.runVec (momnlOp w s.st.md msigSteps))
/-- MEXP (R137). -/
def execMexp (w : FML) (s : State) : Res := .next (s.runVec (momnlOp w s.st.md mexpSteps))
/-- MGELU (R137). -/
def execMgelu (w : FML) (s : State) : Res := .next (s.runVec (momnlOp w s.st.md mgeluSteps))
/-- MSQR (R137). -/
def execMsqr (w : FML) (s : State) : Res := .next (s.runVec (momnlOp w s.st.md msqrSteps))

/-- A collapse (R138): the value in v[d], +0 in v[d+1]; a NaN input gives itself quieted. -/
def mcollOp (u : Bool) (d : RegNo) (a : RegP) (k : Option RegNo) (md : Addr) (x : MCtx → Nat → Nat → Nat → FRes) : VecOp :=
  let ftz := mdFtz md
  { u := u, la := 0, ok := true
    srcs := (.reg a.idx a.p.toNat, 2) :: (match k with | some r => [(.reg r 0, 1)] | none => [])
    dst := regDst d, dwords := 2, pairChan := false, cnt := (15, 1)
    f := fun _ vs l =>
      let m := f32.flush ftz ((vs.getD 0 []).word 0 l).toNat
      let v := varIn ftz ((vs.getD 0 []).word 1 l).toNat
      let kk := f32.flush ftz ((vs.getD 1 []).word 0 l).toNat
      let r := momentRes ([m, v.1] ++ (match k with | some _ => [kk] | none => []))
        (andThen (x (mctx md) m v.1 kk) fun y => ((y, 0), 0))
      mPack ((r.1.1, 0), r.2 ||| v.2)
    mvar := fun m vs => badLanes md m fun l => varBad ftz ((vs.getD 0 []).word 1 l).toNat }

/-- MCOLL.MEAN (R138). -/
def execMcollMean (w : FMColl) (s : State) : Res :=
  .next (s.runVec (mcollOp w.u w.d w.a none s.st.md fun _ m _ _ => (m, 0)))
/-- MCOLL.STD (R138). -/
def execMcollStd (w : FMColl) (s : State) : Res :=
  .next (s.runVec (mcollOp w.u w.d w.a none s.st.md fun c _ v _ => c.sq v))
/-- MCOLL.VAR (R138). -/
def execMcollVar (w : FMColl) (s : State) : Res :=
  .next (s.runVec (mcollOp w.u w.d w.a none s.st.md fun _ _ v _ => (v, 0)))
/-- MCOLL.UCB (R138). -/
def execMcollUcb (w : FMUcb) (s : State) : Res :=
  .next (s.runVec (mcollOp w.u w.d w.a (some w.k) s.st.md fun c m v k => andThen (c.sq v) fun q => c.fma k q m))

end Sys2Proof.Machine
end

