-- ==== Sys2Proof/Machine/Windows.lean ====
section
/-! DEFINITION. The management windows (R344 to R346, R350 to R352): ownership, invalidations (R318), the registers of cores and
dies (R170, R180, R369, R373), weigh requests and signed records (R358 to R360), and any other register write. -/

namespace Sys2Proof.Machine

/-- The number of a master (R350). -/
def masterNo : Master → Nat
  | .pcieHost => 1 | .mgmtNetwork => 2 | .residentOs => 3

/-- A write by the owner; another master's is ignored and counted (R350). -/
def State.byOwner (s : State) (m : Master) (k : State → State) : Res :=
  if s.pkg.owner = masterNo m then .next (k s)
  else .next { s with pkg := { s.pkg with denied := satAdd 32 s.pkg.denied 1 } }

/-- Ownership passes (R351). -/
def State.newOwner (s : State) (n : Nat) : State :=
  { s with pkg := { s.pkg with owner := n, changes := (s.pkg.changes + 1) % 65536 } }

/-- CLAIM (R351): it finds no owner, or is ignored. -/
def State.claimed (s : State) (m : Master) (value : Nat) : State :=
  if s.pkg.owner = 0 ∧ value % 8 ≠ 0 then s.newOwner (masterNo m) else s

/-- HANDTO (R351). -/
def State.handed (s : State) (m : Master) (target : Nat) : State :=
  if s.pkg.owner = masterNo m ∧ 1 ≤ target ∧ target ≤ 3 ∧ target ≠ s.pkg.owner then s.newOwner target else s

/-- The first by number of the masters whose claims arrive in one fabric cycle (R351). -/
def firstMaster (c : Claim) : Master := c.rivals.foldl (fun a b => if masterNo b < masterNo a then b else a) c.master

/-- CLAIM (R351): of the claims of one fabric cycle, the one of the lowest master number wins. -/
def execClaim (c : Claim) (value : Nat) (s : State) : Res := .next (s.claimed (firstMaster c) value)

/-- HANDTO (R351). -/
def execHandto (m : Master) (target : Nat) (s : State) : Res := .next (s.handed m target)

/-- A write of TLBICTL (R318): while BUSY it is ignored; GO starts the invalidation it describes. -/
def State.tlbiWrite (s : State) (die : Nat) (go pcflush : Bool) (kind ctx : Nat) : State :=
  s.onDie die fun d => if d.tlbi.busy then d
    else { d with tlbi := { d.tlbi with busy := go, pcflush := pcflush, kind := kind, ctx := ctx } }

/-- TLBI_PAGE (R318). -/
def execTlbiPage (m : Master) (die ctx : Nat) (pcflush : Bool) (s : State) : Res :=
  s.byOwner m fun s => s.tlbiWrite die true pcflush 0 ctx

/-- TLBI_CONTEXT (R318). -/
def execTlbiContext (m : Master) (die ctx : Nat) (pcflush : Bool) (s : State) : Res :=
  s.byOwner m fun s => s.tlbiWrite die true pcflush 1 ctx

/-- TLBI_ALL (R318). -/
def execTlbiAll (m : Master) (die ctx : Nat) (pcflush : Bool) (s : State) : Res :=
  s.byOwner m fun s => s.tlbiWrite die true pcflush 2 ctx

/-- Whether an invalidation covers an entry (R318): KIND 0 the page that holds VA at every size. -/
def Tlbi.covers (t : Tlbi) (e : TlbEntry) : Bool :=
  match t.kind with
  | 0 => e.ctx == t.ctx && decide (e.base ≤ t.va) && decide (t.va < e.base + e.size)
  | 1 => e.ctx == t.ctx
  | 2 => true
  | _ => false

/-- Whether an invalidation covers the translation that an access of a context at an address has used (R318). -/
def State.tlbiCovers (s : State) (t : Tlbi) (ctx va : Nat) : Bool :=
  let a := va % 2 ^ 57
  match t.kind with
  | 0 => t.ctx == ctx && (a / 2 ^ 18 == t.va / 2 ^ 18
    || s.tlbs.any fun e => t.covers e && decide (e.base ≤ a) && decide (a < e.base + e.size))
  | 1 => t.ctx == ctx
  | 2 => true
  | _ => false

/-- The global accesses of a street that wait in its pair buffer, by virtual address (R367). -/
def Street.heldVas (t : Street) : List Nat :=
  match t.pair with
  | some p => p.stores.filterMap fun h => match h with
    | .global _ va _ _ _ _ _ => some va
    | .red _ _ _ _ _ va => some va
    | .spad _ _ _ _ => none
  | none => []

/-- Whether an access stands out that an agent translated with an entry that an invalidation covers (R318, R342): a reduction sent, an
access to another device, or a store in a pair buffer. -/
def State.tlbiHeld (s : State) (t : Tlbi) : Bool :=
  (s.mreds.any fun r => s.tlbiCovers t r.ctx.ctxid r.va)
    || (s.remote.any fun r => r.reply.isNone && s.tlbiCovers t r.ctx.ctxid r.va)
    || s.allStreets.any fun u => u.heldVas.any fun va => s.tlbiCovers t (match s.block? u.block with | some b => b.ctx.ctxid | none => 0) va

/-- TLBI_COMPLETE (R318, R320): every agent has finished the accesses it translated with the entries, and has dropped them. -/
def execTlbiComplete (die : Nat) (s : State) : Res :=
  let t := (s.die die).tlbi
  if !t.busy || s.tlbiHeld t then .next s
  else
    let es := s.tlbs.filter t.covers
    let s := if t.pcflush then es.foldl (fun s e => match s.ctxDesc? e.ctx with
        | some c => s.flushEntry c e
        | none => s) s else s
    .next ({ s with tlbs := s.tlbs.filter fun e => !t.covers e }.onDie die fun d => { d with tlbi := { d.tlbi with busy := false } })

/-- Zero the stall counters of a core (R170). -/
def Core.clearStalls (c : Core) : Core := { c with bins := List.replicate 18 0, reasons := List.replicate 30 0 }

/-- HCTL_CLEAR (R170). -/
def execHctlClear (m : Master) (core : Nat) (s : State) : Res := s.byOwner m fun s => s.onCore core Core.clearStalls

/-- SPCTL_CLR (R180). -/
def execSpctlClr (m : Master) (core : Nat) (s : State) : Res :=
  s.byOwner m fun s => s.onCore core fun c => { c with cecnt := 0, uecnt := 0 }

/-- Retire a bank of a group, unless the group has one retired (R180). -/
def Core.retire (c : Core) (group bank : Nat) : Core :=
  { c with ret := c.ret.modify group fun r => if r.1 then r else (true, bank % 8) }

/-- BANK_RETIRE (R180). -/
def execBankRetire (m : Master) (core group bank : Nat) (s : State) : Res :=
  s.byOwner m fun s => s.onCore core fun c => c.retire group bank

/-- A write of WCTL (R358): while BUSY it is ignored. Requests: 1 SNAP, 2 CLOSE, 3 both. -/
def State.wctlWrite (s : State) (ctx req : Nat) : State :=
  if s.pkg.wbusy then s
  else { s with pkg := { s.pkg with wctx := ctx % 2 ^ 32, wbusy := req != 0, wreq := req } }

/-- SNAP (R358). -/
def execSnap (m : Master) (ctx : Nat) (s : State) : Res := s.byOwner m fun s => s.wctlWrite ctx 1

/-- CLOSE (R358). -/
def execClose (m : Master) (ctx : Nat) (s : State) : Res := s.byOwner m fun s => s.wctlWrite ctx 2

/-- Whether a context is in use (R358). -/
def State.inUse (s : State) (ctx : Nat) : Bool :=
  (s.allBlocks.any fun b => b.ctx.ctxid == ctx || b.plq.any fun e => e.rec_.any fun r => r.ctx.ctxid == ctx)
    || ((List.range 4).any fun d => ((s.die d).pool ++ (s.die d).directq).any fun r => r.ctx.ctxid == ctx)
    || s.colls.any fun c => c.ctx.ctxid == ctx && (c.status == .running || c.status == .held)

/-- The message of a context record (R359): 384 bytes. -/
def State.recordMessage (s : State) (a : WeighArea) (siglen : Nat) : List Byte :=
  [0x5A, 0x4B, 0x57, 0x43] ++ leBytes 2 1 ++ leBytes 2 siglen ++ leBytes 4 a.ctx ++ leBytes 4 a.pid
    ++ leBytes 16 Config.serial.toNat ++ leBytes 8 a.start ++ leBytes 8 s.timeNs ++ leBytes 8 s.pkg.bootno ++ leBytes 4 a.mask
    ++ leBytes 4 0 ++ ((List.range 32).map fun i => leBytes 8 (nth a.counters i)).flatten ++ s.mem.readN (a.desc + 0x80) 32
    ++ sha256 s.pkg.meas.flatten

/-- The colour state that the queue-lock units hold is written back when its context closes (R221, R322). -/
def State.writeColours (s : State) (a : WeighArea) : State :=
  let ks := s.qlock.filter fun k => k.1 == a.ctx
  let s := ks.foldl (fun s k => s.writeColour k.1 k.2) s
  { s with qlock := s.qlock.filter (fun k => k.1 != a.ctx), colours := s.colours.filter fun k => k.ctx != a.ctx }

/-- A WCTL request is over with a STATUS. -/
def State.wctlOver (s : State) (status : Nat) : State := { s with pkg := { s.pkg with wbusy := false, wstatus := status } }

/-- Copy a weigh area to the snapshot (R358). -/
def State.snapshot (s : State) (a : WeighArea) : State :=
  { s with pkg := { s.pkg with snapCnt := a.counters, snapMask := a.mask } }

/-- CLOSE of a context that is not in use (R358 to R360): the record is written to WREC, and the weigh area is deleted. -/
def State.closeArea (s : State) (a : WeighArea) : Res :=
  let rec_ := s.pkg.wrec % 2 ^ 52 / 64 * 64
  let spent := decide (sigIndices ≤ s.pkg.nextIndex)
  let msg := s.recordMessage a (if spent then 0 else 3604)
  let sig := if spent then [] else leBytes 3604 (Config.hssSign s.pkg.nextIndex msg).toNat
  if !hbmHas rec_ || !hbmHas (rec_ + msg.length + sig.length - 1) then .fault (.noMemory rec_)
  else
    let s := (s.snapshot a).writeColours a
    let s : State := { s.poke rec_ (msg ++ sig) with
      ctxs := s.ctxs.filter fun x => x.ctx != a.ctx, pkg := if spent then s.pkg else s.pkg.takeIndex }
    .next (s.wctlOver (if spent then 2 else 0))

/-- WCTL_REQUEST_COMPLETE (R357, R358): every outstanding delta of the context is added first. -/
def execWctlRequestComplete (s : State) : Res :=
  if !s.pkg.wbusy then .next s
  else
    let ctx := s.pkg.wctx
    let s := s.flushDeltas fun d => d.ctx == ctx
    match s.ctxs.find? fun a => a.ctx == ctx with
    | none => .next (s.wctlOver 1)
    | some a =>
      if s.pkg.wreq = 1 then .next ((s.snapshot a).wctlOver 0)
      else if s.inUse ctx then .next (s.wctlOver 3)
      else s.closeArea a

/-- PLIM is written with a value in range (R352). -/
def State.plimTo (s : State) (value : Nat) : State :=
  if 1000 ≤ value ∧ value ≤ 2800 then { s with pkg := { s.pkg with plim := value } } else s

/-- PLIM_WRITE (R352). -/
def execPlimWrite (m : Master) (value : Nat) (s : State) : Res := s.byOwner m fun s => s.plimTo value

/-- Zero a range monitor (R369). -/
def RangeMon.clear (r : RangeMon) : RangeMon := { r with min := 2 ^ 64 - 1, max := 0, bins := List.replicate 16 0 }

/-- Change a range monitor of a die. -/
def State.onMon (s : State) (die mon : Nat) (f : RangeMon → RangeMon) : State :=
  s.onDie die fun d => { d with mons := d.mons.modify mon f }

/-- RANGE_MONITOR_CLEAR (R369). -/
def execRangeMonitorClear (m : Master) (die mon : Nat) (s : State) : Res := s.byOwner m fun s => s.onMon die mon RangeMon.clear

/-- A sample in a range monitor (R369). -/
def RangeMon.sample (r : RangeMon) (v : Nat) : RangeMon :=
  let b := if v < r.base then 0 else Nat.min ((v - r.base) / 2 ^ r.shift) 15
  { r with min := Nat.min r.min v, max := Nat.max r.max v, bins := r.bins.modify b fun n => satAdd 64 n 1 }

/-- RANGE_MONITOR_SAMPLE (R369): sources 8 to 15 take none. -/
def execRangeMonitorSample (die source value : Nat) (s : State) : Res :=
  if 8 ≤ source then .next s
  else .next (s.onDie die fun d => { d with mons := d.mons.map fun r => if r.en && r.source == source then r.sample value else r })

/-- The records that wait for room in a die's fault and stop queues are written as far as there is room (R346). -/
def State.drainRings (s : State) (die : Nat) : State :=
  let d := s.die die
  let (s, f) := s.ringDrain d.faults d.faults.waiting
  let (s, t) := s.ringDrain d.stops d.stops.waiting
  s.onDie die fun d => { d with faults := f, stops := t }

/-- Change one of a die's rings: 0 faults, 1 machine checks, 2 stops. -/
def Die.onRing (d : Die) (q : Nat) (f : Ring → Ring) : Die :=
  match q with
  | 0 => { d with faults := f d.faults }
  | 1 => { d with mchecks := f d.mchecks }
  | _ => { d with stops := f d.stops }

/-- A register of a ring's control block is written (R346): BASE 4 KiB aligned, LOG2 from 6 to 16, HEAD. -/
def Ring.write (r : Ring) (off v : Nat) : Ring :=
  match off with
  | 0x00 => { r with base := v / 4096 * 4096 }
  | 0x08 => if 6 ≤ bits v 0 5 ∧ bits v 0 5 ≤ 16 then { r with log2 := bits v 0 5 } else r
  | 0x10 => { r with head := v }
  | _ => r

/-- CFG of a range monitor (R369). -/
def RangeMon.config (r : RangeMon) (v : Nat) : RangeMon :=
  let r := { r with en := bit v 63, shift := bits v 8 4, source := bits v 0 4 }
  if bit v 62 then r.clear else r

/-- TRCTL (R373): a master without ownership reaches RDPTR only (R350). -/
def Core.trctl (c : Core) (v : Nat) (owner : Bool) : Core :=
  let t := { c.tr with rdptr := bits v 18 14 }
  { c with tr := if owner then { t with en := bit v 0, branches := bit v 1, marks := bit v 2, paths := bit v 3 } else t }

/-- SPCTL (R180): V and the data bank of each group take what is written until V is 1. -/
def Core.spctl (c : Core) (v : Nat) : Core :=
  let c := if bit v 16 then { c with cecnt := 0, uecnt := 0 } else c
  (List.range 4).foldl (fun c g =>
    { c with ret := c.ret.modify g fun r => if r.1 then r else (bit v (4 * g + 3), bits v (4 * g) 3) }) c

/-- A JTAB slot is written (R377, R380): a table newly named starts without heartbeats, and its members have signed (R361, log
entry 64). -/
def State.jtabWrite (s : State) (j v : Nat) : State :=
  let e := b2n (bit v 63) * 2 ^ 63 + bits v 6 46 * 64
  let s : State := { s with pkg := { s.pkg with jtab := s.pkg.jtab.set j e } }
  let s := s.onJob j fun _ => { Job.fresh j with since := s.timeNs, progress := s.timeNs }
  if bit v 63 then s.attestJob j (bits v 6 46 * 64) else s

/-- A write of a die register by the owner. -/
def State.dieWrite (s : State) (die off v : Nat) : State :=
  if off = 0x800 then s.tlbiWrite die (bit v 35) (bit v 34) (bits v 32 2) (bits v 0 32)
  else if off = 0x808 then s.onDie die fun d => if d.tlbi.busy then d else { d with tlbi := { d.tlbi with va := bits v 0 57 } }
  else if off / 0x100 = 9 ∨ off / 0x100 = 10 ∨ off / 0x100 = 11 then
    (s.onDie die fun d => d.onRing (off / 0x100 - 9) fun r => r.write (off % 0x100) v).drainRings die
  else if 0x1000 ≤ off ∧ off < 0x3000 then
    let m := (off - 0x1000) / 0x100
    if off % 0x100 = 0 then s.onMon die m fun r => r.config v
    else if off % 0x100 = 8 then s.onMon die m fun r => { r with base := v }
    else s
  else s

/-- A write of a core register by the owner. -/
def State.coreWrite (s : State) (core off v : Nat) : State :=
  match off with
  | 0x100 => s.onCore core fun c => c.spctl v
  | 0x400 => s.onCore core fun c => let c := { c with freeze := bit v 1 }; if bit v 0 then c.clearStalls else c
  | 0x600 => s.onCore core fun c => c.trctl v true
  | _ => s

/-- A write of a package register by the owner. -/
def State.pkgWrite (s : State) (off v : Nat) : State :=
  if off = 0x10 then s.plimTo (bits v 0 12)
  else if off = 0x200 then s.wctlWrite (bits v 0 32) (bits v 32 2)
  else if off = 0x208 then { s with pkg := { s.pkg with wrec := v % 2 ^ 52 } }
  else if off = 0x500 then { s with pkg := { s.pkg with fabid := bits v 0 11 } }
  else if 0x540 ≤ off ∧ off < 0x5C0 ∧ off % 8 = 0 then s.jtabWrite ((off - 0x540) / 8) v
  else s

/-- The management windows (R344): a die's registers, a core's, the package's, with the offset. -/
inductive WindowAt where
  | die (d off : Nat)
  | core (c off : Nat)
  | pkg (off : Nat)
  | out
deriving DecidableEq, Repr

/-- The first address of the windows. -/
def windowBase : Nat := 0xF000000000000

/-- Where a physical address lies in the windows. -/
def windowAt (pa : Nat) : WindowAt :=
  if pa < windowBase then .out
  else
    let x := pa - windowBase
    let d := x / 2 ^ 32
    let y := x % 2 ^ 32
    if d = 4 ∧ y < 65536 then .pkg y
    else if 4 ≤ d then .out
    else if y < 65536 then .die d y
    else if 0x1000000 ≤ y ∧ y < 0x1000000 + 384 * 65536 then .core (384 * d + (y - 0x1000000) / 65536) (y % 65536)
    else .out

/-- Word `i` of bytes, eight to a word. -/
def regWordAt (bs : List Byte) (i : Nat) : Nat := recNat bs (8 * i) 8

/-- A read of a register of a ring's control block (R346). -/
def Ring.reg (r : Ring) (off : Nat) : Nat :=
  match off with
  | 0x00 => r.base
  | 0x08 => r.drop * 2 ^ 32 + r.log2
  | 0x10 => r.head
  | 0x18 => r.tail
  | _ => 0

/-- A read of a register of a range monitor (R369): CLR reads as zero. -/
def RangeMon.reg (r : RangeMon) (off : Nat) : Nat :=
  match off with
  | 0x00 => b2n r.en * 2 ^ 63 + r.shift * 256 + r.source
  | 0x08 => r.base
  | 0x10 => r.min
  | 0x18 => r.max
  | _ => if 0x20 ≤ off ∧ off < 0xA0 then nth r.bins ((off - 0x20) / 8) else 0

/-- TLBICTL as it reads (R318): GO reads as zero. -/
def Tlbi.word (t : Tlbi) : Nat := b2n t.busy * 2 ^ 63 + b2n t.pcflush * 2 ^ 34 + t.kind % 4 * 2 ^ 32 + t.ctx % 2 ^ 32

/-- A read of a die register (R345). -/
def Die.reg (d : Die) (off : Nat) : Nat :=
  if off = 0x800 then d.tlbi.word
  else if off = 0x808 then d.tlbi.va % 2 ^ 57
  else if off / 0x100 = 9 then d.faults.reg (off % 0x100)
  else if off / 0x100 = 10 then d.mchecks.reg (off % 0x100)
  else if off / 0x100 = 11 then d.stops.reg (off % 0x100)
  else if 0x1000 ≤ off ∧ off < 0x3000 then ((d.mons[(off - 0x1000) / 0x100]?).map fun r => r.reg (off % 0x100)).getD 0
  else 0

/-- SPCTL as it reads (R180): CLR reads as zero. -/
def Core.spctlWord (c : Core) : Nat :=
  c.cecnt * 2 ^ 48 + c.uecnt * 2 ^ 32
    + ((List.range 4).map fun g => (b2n (c.ret.getD g (false, 0)).1 * 8 + (c.ret.getD g (false, 0)).2 % 8) * 16 ^ g).sum

/-- TRCTL as it reads (R373). -/
def Trace.word (t : Trace) : Nat :=
  t.wrptr % 16384 * 2 ^ 36 + t.rdptr % 16384 * 2 ^ 18 + b2n t.paths * 8 + b2n t.marks * 4 + b2n t.branches * 2 + b2n t.en

/-- A read of a core register (R170, R180, R345, R373). -/
def Core.reg (c : Core) (off : Nat) : Nat :=
  if off = 0x100 then c.spctlWord
  else if 0x200 ≤ off ∧ off < 0x400 then
    let k := (off - 0x200) / 0x100
    let o := off % 0x100
    if o < 0x48 then nth c.bins (9 * k + o / 8) else if o < 0xC0 then nth c.reasons (15 * k + (o - 0x48) / 8) else 0
  else if off = 0x400 then b2n c.freeze * 2
  else if off = 0x600 then c.tr.word
  else if 0x4000 ≤ off ∧ off < 0x8000 then c.tr.buf.nat (off - 0x4000) 8
  else 0

/-- ELECT as it reads (R350): HANDTO and CLAIM read as zero. -/
def Package.elect (p : Package) : Nat := p.denied % 2 ^ 32 * 2 ^ 32 + p.changes % 2 ^ 16 * 2 ^ 16 + p.owner % 8

/-- PSTAT (R352). -/
def Package.pstat (p : Package) : Nat :=
  p.power % 2 ^ 16 * 2 ^ 48 + p.mhz % 2 ^ 16 * 2 ^ 32 + p.temp % 256 * 256 + b2n (decide (p.mhz < 4000))

/-- PORTSTAT of a port (R377). -/
def Port.word (p : Port) : Nat :=
  p.retries % 2 ^ 16 * 2 ^ 48 + p.peer % 2 ^ 11 * 2 ^ 32 + p.peerport % 64 * 2 ^ 24 + p.lanes % 16 * 256 + p.state % 4

/-- A read of a package register (R345, R347, R352, R358, R377): SNAP and CLOSE read as zero. -/
def Package.reg (p : Package) (off : Nat) : Nat :=
  if off = 0x00 then p.elect
  else if off = 0x10 then p.plim % 4096
  else if off = 0x18 then p.pstat
  else if off = 0x20 then p.phase % 16 + p.port % 16 * 16
  else if 0x40 ≤ off ∧ off < 0x50 then regWordAt (leBytes 16 Config.serial.toNat) ((off - 0x40) / 8)
  else if 0x80 ≤ off ∧ off < 0xB8 then regWordAt (leBytes 56 Config.devkey.toNat) ((off - 0x80) / 8)
  else if 0x100 ≤ off ∧ off < 0x200 then regWordAt p.meas.flatten ((off - 0x100) / 8)
  else if off = 0x200 then b2n p.wbusy * 2 ^ 63 + p.wstatus % 256 * 2 ^ 40 + p.wctx % 2 ^ 32
  else if off = 0x208 then p.wrec
  else if 0x300 ≤ off ∧ off < 0x400 then nth p.snapCnt ((off - 0x300) / 8)
  else if off = 0x400 then p.snapMask
  else if off = 0x500 then p.fabid % 2 ^ 11
  else if 0x540 ≤ off ∧ off < 0x5C0 then nth p.jtab ((off - 0x540) / 8)
  else if 0x600 ≤ off ∧ off < 0x780 then ((p.ports[(off - 0x600) / 8]?).map Port.word).getD 0
  else 0

/-- WINDOW READ (R6, R344, R345, R351): what any master reads in the eight bytes at an 8-byte aligned address of the windows.
Write-only and reserved bits, and unlisted offsets, read as zero. A read changes nothing (log entry 65). -/
def State.windowRead (s : State) (pa : Nat) : Addr :=
  BitVec.ofNat 64 (match windowAt pa with
    | .die d off => (s.die d).reg off
    | .core c off => (s.core c).reg off
    | .pkg off => s.pkg.reg off
    | .out => 0)

/-- Whether an offset of a die window names HEAD of a queue, which any master writes (R350). -/
def headOff (off : Nat) : Bool := off == 0x910 || off == 0xA10 || off == 0xB10

/-- REGISTER_WRITE (R344, R350): ELECT, HEAD and RDPTR take every master's writes, the others the owner's; an unlisted offset
ignores them. -/
def execRegisterWrite (m : Master) (pa : Nat) (value : Addr) (s : State) : Res :=
  let v := value.toNat
  match windowAt pa with
  | .out => .next s
  | .die d off =>
    if headOff off then .next (s.dieWrite d off v) else s.byOwner m fun s => s.dieWrite d off v
  | .core c off =>
    if off = 0x600 ∧ s.pkg.owner ≠ masterNo m then .next (s.onCore c fun k => k.trctl v false)
    else s.byOwner m fun s => s.coreWrite c off v
  | .pkg off =>
    if off = 0 then .next ((s.claimed m (bits v 4 3)).handed m (bits v 8 3))
    else s.byOwner m fun s => s.pkgWrite off v

end Sys2Proof.Machine
end

