-- ==== Sys2Proof/Machine/Dispatch.lean ====
section
/-! DEFINITION. What each instruction and event does: one arm per constructor. -/

namespace Sys2Proof.Machine

/-- Execute one instruction word of the street in focus, or one event. -/
def exec (i : Instr) (s : State) : Host.Outcome State Fault Refusal :=
  match i with
  | .ill z => Sys2Proof.Machine.execIll z s
  | .iadd w => Sys2Proof.Machine.execIadd w s
  | .isub w => Sys2Proof.Machine.execIsub w s
  | .imul w => Sys2Proof.Machine.execImul w s
  | .imulh w => Sys2Proof.Machine.execImulh w s
  | .nmulh w => Sys2Proof.Machine.execNmulh w s
  | .imad w => Sys2Proof.Machine.execImad w s
  | .imin w => Sys2Proof.Machine.execImin w s
  | .imax w => Sys2Proof.Machine.execImax w s
  | .nmin w => Sys2Proof.Machine.execNmin w s
  | .nmax w => Sys2Proof.Machine.execNmax w s
  | .and w => Sys2Proof.Machine.execAnd w s
  | .or w => Sys2Proof.Machine.execOr w s
  | .xor w => Sys2Proof.Machine.execXor w s
  | .andn w => Sys2Proof.Machine.execAndn w s
  | .shl w => Sys2Proof.Machine.execShl w s
  | .shr w => Sys2Proof.Machine.execShr w s
  | .sar w => Sys2Proof.Machine.execSar w s
  | .rotl w => Sys2Proof.Machine.execRotl w s
  | .sel w => Sys2Proof.Machine.execSel w s
  | .iseq w => Sys2Proof.Machine.execIseq w s
  | .isne w => Sys2Proof.Machine.execIsne w s
  | .islt w => Sys2Proof.Machine.execIslt w s
  | .isle w => Sys2Proof.Machine.execIsle w s
  | .nslt w => Sys2Proof.Machine.execNslt w s
  | .nsle w => Sys2Proof.Machine.execNsle w s
  | .bfx w => Sys2Proof.Machine.execBfx w s
  | .bfi w => Sys2Proof.Machine.execBfi w s
  | .perm w => Sys2Proof.Machine.execPerm w s
  | .mov w => Sys2Proof.Machine.execMov w s
  | .not w => Sys2Proof.Machine.execNot w s
  | .ineg w => Sys2Proof.Machine.execIneg w s
  | .iabs w => Sys2Proof.Machine.execIabs w s
  | .popc w => Sys2Proof.Machine.execPopc w s
  | .clz w => Sys2Proof.Machine.execClz w s
  | .brev w => Sys2Proof.Machine.execBrev w s
  | .voteany w => Sys2Proof.Machine.execVoteany w s
  | .voteall w => Sys2Proof.Machine.execVoteall w s
  | .ballot w => Sys2Proof.Machine.execBallot w s
  | .nnz w => Sys2Proof.Machine.execNnz w s
  | .slide w => Sys2Proof.Machine.execSlide w s
  | .li w => Sys2Proof.Machine.execLi w s
  | .iaddi w => Sys2Proof.Machine.execIaddi w s
  | .andi w => Sys2Proof.Machine.execAndi w s
  | .ori w => Sys2Proof.Machine.execOri w s
  | .xori w => Sys2Proof.Machine.execXori w s
  | .shli w => Sys2Proof.Machine.execShli w s
  | .shri w => Sys2Proof.Machine.execShri w s
  | .sari w => Sys2Proof.Machine.execSari w s
  | .islti w => Sys2Proof.Machine.execIslti w s
  | .add w => Sys2Proof.Machine.execAdd w s
  | .sub w => Sys2Proof.Machine.execSub w s
  | .mul w => Sys2Proof.Machine.execMul w s
  | .fma w => Sys2Proof.Machine.execFma w s
  | .fms w => Sys2Proof.Machine.execFms w s
  | .fnma w => Sys2Proof.Machine.execFnma w s
  | .min w => Sys2Proof.Machine.execMin w s
  | .max w => Sys2Proof.Machine.execMax w s
  | .ceq w => Sys2Proof.Machine.execCeq w s
  | .cne w => Sys2Proof.Machine.execCne w s
  | .clt w => Sys2Proof.Machine.execClt w s
  | .cle w => Sys2Proof.Machine.execCle w s
  | .cun w => Sys2Proof.Machine.execCun w s
  | .dot2 w => Sys2Proof.Machine.execDot2 w s
  | .dot4 w => Sys2Proof.Machine.execDot4 w s
  | .rshr w => Sys2Proof.Machine.execRshr w s
  | .abs w => Sys2Proof.Machine.execAbs w s
  | .neg w => Sys2Proof.Machine.execNeg w s
  | .fract w => Sys2Proof.Machine.execFract w s
  | .rndi w => Sys2Proof.Machine.execRndi w s
  | .satp w => Sys2Proof.Machine.execSatp w s
  | .cvt w => Sys2Proof.Machine.execCvt w s
  | .rcp w => Sys2Proof.Machine.execRcp w s
  | .rsq w => Sys2Proof.Machine.execRsq w s
  | .sqrt w => Sys2Proof.Machine.execSqrt w s
  | .exp2 w => Sys2Proof.Machine.execExp2 w s
  | .log2 w => Sys2Proof.Machine.execLog2 w s
  | .sin w => Sys2Proof.Machine.execSin w s
  | .cos w => Sys2Proof.Machine.execCos w s
  | .tanh w => Sys2Proof.Machine.execTanh w s
  | .ncdf w => Sys2Proof.Machine.execNcdf w s
  | .npdf w => Sys2Proof.Machine.execNpdf w s
  | .mrelu w => Sys2Proof.Machine.execMrelu w s
  | .msig w => Sys2Proof.Machine.execMsig w s
  | .mexp w => Sys2Proof.Machine.execMexp w s
  | .mgelu w => Sys2Proof.Machine.execMgelu w s
  | .msqr w => Sys2Proof.Machine.execMsqr w s
  | .madd w => Sys2Proof.Machine.execMadd w s
  | .msub w => Sys2Proof.Machine.execMsub w s
  | .mmul w => Sys2Proof.Machine.execMmul w s
  | .mscl w => Sys2Proof.Machine.execMscl w s
  | .mcollMean w => Sys2Proof.Machine.execMcollMean w s
  | .mcollStd w => Sys2Proof.Machine.execMcollStd w s
  | .mcollVar w => Sys2Proof.Machine.execMcollVar w s
  | .mcollUcb w => Sys2Proof.Machine.execMcollUcb w s
  | .ld w => Sys2Proof.Machine.execLd w s
  | .st w => Sys2Proof.Machine.execSt w s
  | .lds w => Sys2Proof.Machine.execLds w s
  | .sts w => Sys2Proof.Machine.execSts w s
  | .atom w => Sys2Proof.Machine.execAtom w s
  | .matom w => Sys2Proof.Machine.execMatom w s
  | .mred w => Sys2Proof.Machine.execMred w s
  | .ldx w => Sys2Proof.Machine.execLdx w s
  | .scat w => Sys2Proof.Machine.execScat w s
  | .waita w => Sys2Proof.Machine.execWaita w s
  | .fence w => Sys2Proof.Machine.execFence w s
  | .cacheWb w => Sys2Proof.Machine.execCacheWb w s
  | .cacheInv w => Sys2Proof.Machine.execCacheInv w s
  | .cacheWbinv w => Sys2Proof.Machine.execCacheWbinv w s
  | .pref w => Sys2Proof.Machine.execPref w s
  | .chmap w => Sys2Proof.Machine.execChmap w s
  | .chstat w => Sys2Proof.Machine.execChstat w s
  | .clrsync u => Sys2Proof.Machine.execClrsync u s
  | .clrqHeld w => Sys2Proof.Machine.execClrqHeld w s
  | .clrqOwner w => Sys2Proof.Machine.execClrqOwner w s
  | .clrqDepth w => Sys2Proof.Machine.execClrqDepth w s
  | .clrwait w => Sys2Proof.Machine.execClrwait w s
  | .clrnoteOne w => Sys2Proof.Machine.execClrnoteOne w s
  | .clrnoteAll w => Sys2Proof.Machine.execClrnoteAll w s
  | .clrclean w => Sys2Proof.Machine.execClrclean w s
  | .bra w => Sys2Proof.Machine.execBra w s
  | .brp w => Sys2Proof.Machine.execBrp w s
  | .call w => Sys2Proof.Machine.execCall w s
  | .brx w => Sys2Proof.Machine.execBrx w s
  | .callx w => Sys2Proof.Machine.execCallx w s
  | .ret u => Sys2Proof.Machine.execRet u s
  | .exit u => Sys2Proof.Machine.execExit u s
  | .yield u => Sys2Proof.Machine.execYield u s
  | .nop u => Sys2Proof.Machine.execNop u s
  | .trap w => Sys2Proof.Machine.execTrap w s
  | .tret u retry => Sys2Proof.Machine.execTret u retry s
  | .bkpt w => Sys2Proof.Machine.execBkpt w s
  | .trmark w => Sys2Proof.Machine.execTrmark w s
  | .halt u force => Sys2Proof.Machine.execHalt u force s
  | .mode w => Sys2Proof.Machine.execMode w s
  | .sread w => Sys2Proof.Machine.execSread w s
  | .swrite w => Sys2Proof.Machine.execSwrite w s
  | .mmt w => Sys2Proof.Machine.execMmt w s
  | .mmts w => Sys2Proof.Machine.execMmts w s
  | .mmm w => Sys2Proof.Machine.execMmm w s
  | .panz w => Sys2Proof.Machine.execPanz w s
  | .panld w => Sys2Proof.Machine.execPanld w s
  | .panst w => Sys2Proof.Machine.execPanst w s
  | .panrd w => Sys2Proof.Machine.execPanrd w s
  | .panwr w => Sys2Proof.Machine.execPanwr w s
  | .panstat w => Sys2Proof.Machine.execPanstat w s
  | .tpost w => Sys2Proof.Machine.execTpost w s
  | .launch w => Sys2Proof.Machine.execLaunch w s
  | .tqstat w => Sys2Proof.Machine.execTqstat w s
  | .cpy w => Sys2Proof.Machine.execCpy w s
  | .cpyred w => Sys2Proof.Machine.execCpyred w s
  | .cpystat w => Sys2Proof.Machine.execCpystat w s
  | .tlwait w => Sys2Proof.Machine.execTlwait w s
  | .tlread w => Sys2Proof.Machine.execTlread w s
  | .tladv w => Sys2Proof.Machine.execTladv w s
  | .bar w => Sys2Proof.Machine.execBar w s
  | .bara w => Sys2Proof.Machine.execBara w s
  | .barinit w => Sys2Proof.Machine.execBarinit w s
  | .barinv w => Sys2Proof.Machine.execBarinv w s
  | .trav w => Sys2Proof.Machine.execTrav w s
  | .travw w => Sys2Proof.Machine.execTravw w s
  | .coll w => Sys2Proof.Machine.execColl w s
  | .collstat w => Sys2Proof.Machine.execCollstat w s
  | .saln w => Sys2Proof.Machine.execSaln w s
  | .smeta w => Sys2Proof.Machine.execSmeta w s
  | .faultPoint street index => Sys2Proof.Machine.execFaultPoint street index s
  | .servicedFaultReplay who fix => Sys2Proof.Machine.execServicedFaultReplay who fix s
  | .monitorFire line => Sys2Proof.Machine.execMonitorFire line s
  | .preemptionRequest block image => Sys2Proof.Machine.execPreemptionRequest block image s
  | .blockSave block => Sys2Proof.Machine.execBlockSave block s
  | .forcedSave block => Sys2Proof.Machine.execForcedSave block s
  | .swapCandidate block => Sys2Proof.Machine.execSwapCandidate block s
  | .swapOut block image => Sys2Proof.Machine.execSwapOut block image s
  | .restore block => Sys2Proof.Machine.execRestore block s
  | .directPost die ctx addr tid record => Sys2Proof.Machine.execDirectPost die ctx addr tid record s
  | .ingestion die => Sys2Proof.Machine.execIngestion die s
  | .dispatch die => Sys2Proof.Machine.execDispatch die s
  | .launchReservation die => Sys2Proof.Machine.execLaunchReservation die s
  | .timelineAdvance block tl => Sys2Proof.Machine.execTimelineAdvance block tl s
  | .engineChoose cluster => Sys2Proof.Machine.execEngineChoose cluster s
  | .priorityAgeing cluster => Sys2Proof.Machine.execPriorityAgeing cluster s
  | .merge cluster => Sys2Proof.Machine.execMerge cluster s
  | .engineFetchFault cluster => Sys2Proof.Machine.execEngineFetchFault cluster s
  | .engineFaultServiced op fix => Sys2Proof.Machine.execEngineFaultServiced op fix s
  | .copyComplete copy => Sys2Proof.Machine.execCopyComplete copy s
  | .walkStep walk => Sys2Proof.Machine.execWalkStep walk s
  | .mredPerform red => Sys2Proof.Machine.execMredPerform red s
  | .remoteAccess pa op => Sys2Proof.Machine.execRemoteAccess pa op s
  | .remoteAck req reply => Sys2Proof.Machine.execRemoteAck req reply s
  | .collectiveComplete coll outcome => Sys2Proof.Machine.execCollectiveComplete coll outcome s
  | .heartbeatSend job => Sys2Proof.Machine.execHeartbeatSend job s
  | .heartbeatReceive job beat => Sys2Proof.Machine.execHeartbeatReceive job beat s
  | .heartbeatTimeout job dev => Sys2Proof.Machine.execHeartbeatTimeout job dev s
  | .progressTimeout job dev => Sys2Proof.Machine.execProgressTimeout job dev s
  | .hold job dev => Sys2Proof.Machine.execHold job dev s
  | .release job dev => Sys2Proof.Machine.execRelease job dev s
  | .abort job seq => Sys2Proof.Machine.execAbort job seq s
  | .flitReplay port => Sys2Proof.Machine.execFlitReplay port s
  | .laneLoss port lanes => Sys2Proof.Machine.execLaneLoss port lanes s
  | .contextEnd ctx => Sys2Proof.Machine.execContextEnd ctx s
  | .haltRequest target force => Sys2Proof.Machine.execHaltRequest target force s
  | .blockHalt block => Sys2Proof.Machine.execBlockHalt block s
  | .continueRun block street pc => Sys2Proof.Machine.execContinueRun block street pc s
  | .claim c value => Sys2Proof.Machine.execClaim c value s
  | .handto m_ target => Sys2Proof.Machine.execHandto m_ target s
  | .tlbiPage m_ die ctx pcflush => Sys2Proof.Machine.execTlbiPage m_ die ctx pcflush s
  | .tlbiContext m_ die ctx pcflush => Sys2Proof.Machine.execTlbiContext m_ die ctx pcflush s
  | .tlbiAll m_ die ctx pcflush => Sys2Proof.Machine.execTlbiAll m_ die ctx pcflush s
  | .tlbiComplete die => Sys2Proof.Machine.execTlbiComplete die s
  | .hctlClear m_ core => Sys2Proof.Machine.execHctlClear m_ core s
  | .spctlClr m_ core => Sys2Proof.Machine.execSpctlClr m_ core s
  | .bankRetire m_ core group bank => Sys2Proof.Machine.execBankRetire m_ core group bank s
  | .snap m_ ctx => Sys2Proof.Machine.execSnap m_ ctx s
  | .close m_ ctx => Sys2Proof.Machine.execClose m_ ctx s
  | .plimWrite m_ value => Sys2Proof.Machine.execPlimWrite m_ value s
  | .rangeMonitorClear m_ die mon => Sys2Proof.Machine.execRangeMonitorClear m_ die mon s
  | .rangeMonitorSample die source value => Sys2Proof.Machine.execRangeMonitorSample die source value s
  | .registerWrite m_ pa value => Sys2Proof.Machine.execRegisterWrite m_ pa value s
  | .reset => Sys2Proof.Machine.execReset s
  | .bootRetry => Sys2Proof.Machine.execBootRetry s
  | .measExtend k digest => Sys2Proof.Machine.execMeasExtend k digest s
  | .clockStep power temps => Sys2Proof.Machine.execClockStep power temps s
  | .thermalShutdown => Sys2Proof.Machine.execThermalShutdown s
  | .weighDeltaFlush agent ctx => Sys2Proof.Machine.execWeighDeltaFlush agent ctx s
  | .pageCounterFlush agent ctx page => Sys2Proof.Machine.execPageCounterFlush agent ctx page s
  | .traceSync core => Sys2Proof.Machine.execTraceSync core s
  | .yieldExpiry street => Sys2Proof.Machine.execYieldExpiry street s
  | .parityUpdate core => Sys2Proof.Machine.execParityUpdate core s
  | .comparePoint street => Sys2Proof.Machine.execComparePoint street s
  | .compareTimeout street => Sys2Proof.Machine.execCompareTimeout street s
  | .correctedErrorThreshold die place => Sys2Proof.Machine.execCorrectedErrorThreshold die place s
  | .illegalWord word => Sys2Proof.Machine.execIllegalWord word s
  | .arithmeticCycle => Sys2Proof.Machine.execArithmeticCycle s
  | .l1Eviction core line => Sys2Proof.Machine.execL1Eviction core line s
  | .softError loc flips => Sys2Proof.Machine.execSoftError loc flips s
  | .powerLoss => Sys2Proof.Machine.execPowerLoss s
  | .linkUp port peer peerport lanes => Sys2Proof.Machine.execLinkUp port peer peerport lanes s
  | .imageFetchComplete port got => Sys2Proof.Machine.execImageFetchComplete port got s
  | .wctlRequestComplete => Sys2Proof.Machine.execWctlRequestComplete s

end Sys2Proof.Machine
end

