-- ==== Sys2Proof/Machine/Place.lean ====
section
/-! DEFINITION. A word placed where the next step fetches it: in a street that is about to issue at its next fetch address,
else in a block of one street placed as a LAUNCH places one, with a page table that maps its text (log entry 18). -/

namespace Sys2Proof.Machine

/-- The physical address from which the next step fetches a word, when it fetches one. -/
def State.nextFetch (s : State) : Option Nat :=
  let go (s : State) (sid : StreetId) : Option Nat :=
    let s := s.focus sid
    if s.mayIssue sid && !(s.st.haltReq && !s.st.tlevel) && !s.st.pairFull then
      match s.st.selectFrom (s.mayRun s.blk s.st) with
      | none => none
      | some (i, _) =>
        match translate s s.st.core s.blk.ctx (s.st.paths.get i).pc.toNat .fetch with
        | .ok pa _ _ _ _ => some pa
        | _ => none
    else none
  if !s.pkg.powered then none
  else
    match s.agenda with
    | .issue sid :: rest => go { s with agenda := rest } sid
    | .event _ :: _ => none
    | [] =>
      match s.dueAdvance with
      | some _ => none
      | none => match s.nextStreet with | some t => go s t.sid | none => none

/-- The virtual and the physical address of the placed text. -/
def placedText : Nat := 0x40000

/-- The page table of the placed context: levels 0 to 3 at physical 0, 0x10000, 0x8000 and 0x8400, and a leaf with R, W and X
for the text's page (R314, R315). -/
def placedTables (m : Memory) : Memory :=
  let m := m.putNat 0x0 8 (2 ^ 63 + 0x10000)
  let m := m.putNat 0x10000 8 (2 ^ 63 + 0x8000)
  let m := m.putNat 0x8000 8 (2 ^ 63 + 0x8400)
  m.putNat 0x8408 8 (0xF8 * 2 ^ 56 + 1 * 256)

/-- The placed block: one street, every resource a core can give it. -/
def placedBlock (id : Nat) (sid : StreetId) : Block :=
  { Block.absent with
    life := .placed, id := id, ctx := { CtxDesc.zero with ctxid := 1 }, text := placedText, sids := [sid]
    hdr := { KHeader.zero with regs := 64, streets := 1, spad := 1024, pans := 256, chans := 64, colours := true } }

/-- The placed street, as R52 gives it at placement, in the last slot of core 0. -/
def placedStreet (id : Nat) (sid : StreetId) : Street :=
  { Street.absent with
    life := .running, sid := sid, block := id, slot := 15
    paths := (Vector.replicate 8 PathEntry.free).set 0
      { pc := BitVec.ofNat 64 placedText, mask := Mask.all, depth := 0, reason := .branch, age := 0, grant := 0, wait := .none } }

/-- Place the block and its street, in focus, as the next block of slot 15 of core 0 (R8), and schedule the street. -/
def State.placeOne (s : State) : State :=
  let sid := mkSid (nth (s.core 0).gens 15 + 1) 0 15
  let (id, s) := s.fresh
  let s := s.onCore 0 fun c => { c with gens := c.gens.modify 15 (· + 1) }
  { s.onDie 0 fun d => { d with still := false } with
    st := placedStreet id sid, blk := placedBlock id sid
    streets := if s.st.there then s.st :: s.streets else s.streets
    blocks := if s.blk.there then s.blk :: s.blocks else s.blocks
    mem := placedTables s.mem, pkg := { s.pkg with powered := true }, agenda := .issue sid :: s.agenda }

/-- The bytes of an instruction given as a number in the numbering of the opcode table. -/
def tableBytes (nbits w : Nat) : List Byte := bytesOfWord (BitVec.ofNat 32 (w % 2 ^ nbits))

/-- Put an instruction where the next step fetches it. -/
def State.placeWord (s : State) (nbits w : Nat) : State :=
  match s.nextFetch with
  | some pa => { s with mem := s.mem.writeN pa (tableBytes nbits w) }
  | none =>
    let s := s.placeOne
    { s with mem := s.mem.writeN placedText (tableBytes nbits w) }

end Sys2Proof.Machine
end

