-- ==== Sys2Proof/Machine/Step.lean ====
section
/-! DEFINITION. The step: one instruction of one street, or one event of another agent. What a step does around `exec` stands
in Machine/Issue.lean. -/

namespace Sys2Proof.Machine

/-- Apply a function to a next state. -/
def onNext (r : Res) (f : State → State) : Res :=
  match r with
  | .next s => .next (f s)
  | .fault x => .fault x
  | .refused x => .refused x

/-- One step of the machine. -/
def step (s : State) : Host.Outcome State Fault Refusal :=
  match s.plan with
  | .over r => r
  | .event i t => onNext (exec i t) State.afterEvent
  | .issue i t => onNext (exec i t) (State.issued t)

/-- The state with an instruction stored where the next step fetches it (log entry 18). -/
def State.withFetchWord (s : State) (nbits w : Nat) : State := s.placeWord nbits w

end Sys2Proof.Machine
end

