-- ==== Sys2Proof/Safety.lean ====
section
/-! DEFINITION. The terms the statements use: safe runs, when an instruction is ready to complete, what a vector instruction
leaves, which bytes of memory may change beside those an instruction stores to, and a quiet machine. -/

namespace Sys2Proof.Machine

/-- A step answers a next state. -/
def Steps (s t : State) : Prop := step s = .next t

/-- The states a state can reach. -/
inductive Reach (s : State) : State → Prop
  | here : Reach s s
  | more {t u : State} : Reach s t → Steps t u → Reach s u

/-- A state from which every reachable state steps on: no address without memory is accessed (R321). -/
def SafeRun (s : State) : Prop := ∀ t, Reach s t → ∃ u, Steps t u

/-- The entry in use has moved to the next instruction, and the street is not stalled. -/
def Advanced (s t : State) : Prop :=
  t.st.paths = s.st.paths.set s.st.sel { s.st.path with pc := s.st.path.pc + 4 } ∧ t.st.stall = none

/-- A vector instruction completes: it is legal (R40), its channels are bound (R205), a lane is active (R56), every entry it
reads is there and its push has room (R25), no moment input traps (R131), and no operand is uncorrectable (R362). -/
structure VecReady (s : State) (o : VecOp) : Prop where
  legal   : s.vecOk o = true
  bound   : s.vecChanBad o = false
  active  : s.active ≠ 0
  present : s.present (s.gather o.srcs) = true
  room    : s.roomFor (s.gather o.srcs) o.dst o.dwords = true
  moment  : o.mvar (lanesUsed o.u s.active) (s.gather o.srcs).vals = false
  sound   : ∀ x ∈ o.srcs, s.srcBroken (lanesUsed o.u s.active) x = none

/-- The value and the flags of a lane: under U = 1 those of lane 0 on lane 0's operands (R63). -/
def laneResult (s : State) (o : VecOp) (l : Lane) : Addr × Word :=
  if o.u then o.f 1 (s.gather o.srcs).vals 0 else o.f s.active (s.gather o.srcs).vals l

/-- Whether a lane is written: the active ones, or all 64 under U = 1 (R7, R63). -/
def Written (s : State) (u : Bool) (l : Lane) : Prop := u = true ∨ s.active.has l = true

/-- Whether register r is word `r - d` of a register destination of so many words. -/
def InDst (d : Dst) (words : Nat) (r : RegNo) : Prop :=
  d.chan = false ∧ d.idx.toNat ≤ r.toNat ∧ r.toNat < d.idx.toNat + words

/-- What a vector instruction leaves. Its results stand in the written lanes of its destination registers, or as pushed
entries in which the other lanes hold zero (R13); flags are raised, none is cleared (R55); the sources' pops are made; the
entry in use moves on; the work is counted for the weigh area (R355); an uncorrectable word among those written is gone;
nothing else changes. -/
structure VecDone (s t : State) (o : VecOp) : Prop where
  frame : t = { s with
    st := { s.st with
      regs := t.st.regs, sr := t.st.sr, paths := t.st.paths, windows := t.st.windows, stall := t.st.stall }
    blk := { s.blk with queues := t.blk.queues }, upsets := t.upsets, wdeltas := t.wdeltas, ctxs := t.ctxs }
  entry : Advanced s t
  regs : ∀ (r : RegNo) (l : Lane),
    (InDst o.dst o.dwords r ∧ Written s o.u l →
      (t.st.regs.get r.toFin).lane l = (laneResult s o l).1.extractLsb' (32 * (r.toNat - o.dst.idx.toNat)) 32)
    ∧ (¬ (InDst o.dst o.dwords r ∧ Written s o.u l) → (t.st.regs.get r.toFin).lane l = (s.st.regs.get r.toFin).lane l)
  flags : ∀ i, i < 32 → t.st.sr.getLsbD i = (s.st.sr.getLsbD i || (decide (i < 7)
    && (lanesUsed o.u s.active).lanes.any fun l => (laneResult s o l).2.getLsbD i))
  errors : t.upsets = s.upsets.filter fun x => !(!o.dst.chan
    && errInRegs x.1 s.st.sid o.dst.idx.toNat o.dwords (if o.u then Mask.all else s.active))
  queues : ∀ q, q < 16 → t.queue q = (s.popAll (s.gather o.srcs)).queue q
    ++ (if o.dst.chan = true ∧ s.queueOf o.dst.idx = some q then
          (List.range o.dwords).map fun i => SVec.gen fun l =>
            if o.u || s.active.has l then (laneResult s o l).1.extractLsb' (32 * i) 32 else 0
        else [])

/-- The bytes of the per-page counter records of a context, which accesses may count in (R319, R320). -/
def CounterByte (c : CtxDesc) (a : Nat) : Prop := ∃ ea ca, counterAddr c ea = some ca ∧ ca ≤ a ∧ a < ca + 12

/-- Every byte of memory outside some addresses and the context's counter records reads as before. -/
def SameMem (s t : State) (p : Nat → Prop) : Prop :=
  ∀ a, ¬ p a → ¬ CounterByte s.blk.ctx a → t.mem.read a = s.mem.read a

/-- No address at all. -/
def nowhere (_ : Nat) : Prop := False

/-- A quiet machine around the street in focus: it is not paired, nothing is broken or poisoned, no watch range is set, the
context has no colours, no monitor is armed, no barrier is in service, and nothing the street sent is outstanding. -/
structure Quiet (s : State) : Prop where
  single  : s.st.pair = none
  sound   : s.upsets = []
  clean   : s.poison = []
  noWatch : ∀ w ∈ s.blk.ctx.watch, bit w.1 63 = false
  plain   : s.blk.ctx.crtcount = 0 ∧ (s.core s.st.core).lookaside = []
  noMons  : (∀ c ∈ s.cores, c.monitors = []) ∧ ∀ d ∈ s.dies, d.unitMons = []
  noBars  : s.bars = []
  sentNone : s.mreds = [] ∧ s.remote = []

/-- A virtual address that the street in focus may access, at a physical address of HBM, on a page without format (R314 to
R316, R321). -/
def Mapped (s : State) (acc : Acc) (va pa : Nat) : Prop :=
  ∃ pte ea base size, translate s s.st.core s.blk.ctx va acc = .ok pa pte ea base size ∧ pteFMT pte = 0 ∧ pteRH pte = false
    ∧ s.foreign va pa = false

/-- Every earlier state of a sector that a load of the street may still find, in an open window of an acquire or before what another of
its lanes has stored, is its state now (R31, R67). -/
def PastFresh (s : State) : Prop := ∀ (l : Lane), ∀ x ∈ s.pastCopies s.st.core l.val 0, x.data = s.sectorBytes x.pa

/-- So is every copy of a sector in the L1 of the street's core (R185, R193). -/
def L1Fresh (s : State) : Prop := PastFresh s ∧ ∀ x ∈ (s.core s.st.core).l1, x.data = s.sectorBytes x.pa

/-- What an access may change beside its effect: the L1 copies and earlier states of sectors, L2 presence, which units stand packed,
translations kept, counts, write counts, the lines seen, and since when the street has heard of others. -/
def Rest (s t : State) : State :=
  { s with
    st := { s.st with
      paths := t.st.paths, stall := t.st.stall, windows := t.st.windows, heard := t.st.heard, seen := t.st.seen, reserves := t.st.reserves }
    cores := t.cores, l2 := t.l2, packed := t.packed, tlbs := t.tlbs, lineVer := t.lineVer, wdeltas := t.wdeltas, ctxs := t.ctxs, mem := t.mem }

end Sys2Proof.Machine
end

