-- ==== Sys2Proof/Certificates/Slice0/Obligations.lean ====
section
/-! DEFINITION. The statements for the provers. Each says which rules of spec/ it formalises; the definitions above a statement
write out what the spec says, in terms of their own. -/

namespace Sys2Proof.Say

end Sys2Proof.Say

open Sys2Proof Sys2Proof.Machine Sys2Proof.Say

/-! ### Vector instructions: integer, logic and lane movement -/

namespace Sys2Proof.Say

/-- An exact integer kept modulo 2^32, or clamped with SR.SAT under MD.SAT (R91). -/
def intResult (sat : Bool) (x : Int) : Word × Word :=
  if sat then
    (BitVec.ofInt 32 (max (-2147483648) (min x 2147483647)), if x < -2147483648 ∨ 2147483647 < x then flSAT else 0)
  else (BitVec.ofInt 32 x, 0)

/-- A result that raises no flag. -/
def quietly (x : Word) : Word × Word := (x, 0)

/-- A predicate: all ones where the relation holds, 0 where it does not (R95). -/
def asPred (b : Bool) : Word × Word := (if b then 0xFFFFFFFF else 0, 0)

/-- The integer and logic instructions of format A on two sources, with their results under MD.SAT (R93 to R95, R97). -/
def integerPairs : List ((FA → Instr) × (Bool → Word → Word → Word × Word)) :=
  [ (.iadd, fun sat a b => intResult sat (a.toInt + b.toInt)),
    (.isub, fun sat a b => intResult sat (a.toInt - b.toInt)),
    (.imul, fun sat a b => intResult sat (a.toInt * b.toInt)),
    (.imulh, fun _ a b => quietly (BitVec.ofInt 32 (a.toInt * b.toInt / 4294967296))),
    (.nmulh, fun _ a b => quietly (BitVec.ofNat 32 (a.toNat * b.toNat / 4294967296))),
    (.imin, fun _ a b => quietly (BitVec.ofInt 32 (min a.toInt b.toInt))),
    (.imax, fun _ a b => quietly (BitVec.ofInt 32 (max a.toInt b.toInt))),
    (.nmin, fun _ a b => quietly (BitVec.ofNat 32 (min a.toNat b.toNat))),
    (.nmax, fun _ a b => quietly (BitVec.ofNat 32 (max a.toNat b.toNat))),
    (.and, fun _ a b => quietly (a &&& b)),
    (.or, fun _ a b => quietly (a ||| b)),
    (.xor, fun _ a b => quietly (a ^^^ b)),
    (.andn, fun _ a b => quietly (a &&& ~~~b)) ]

/-- The compares of format A (R95). -/
def integerCompares : List ((FA → Instr) × (Word → Word → Word × Word)) :=
  [ (.iseq, fun a b => asPred (decide (a = b))),
    (.isne, fun a b => asPred (decide (a ≠ b))),
    (.islt, fun a b => asPred (decide (a.toInt < b.toInt))),
    (.isle, fun a b => asPred (decide (a.toInt ≤ b.toInt))),
    (.nslt, fun a b => asPred (decide (a.toNat < b.toNat))),
    (.nsle, fun a b => asPred (decide (a.toNat ≤ b.toNat))) ]

/-- The shifts and BFX (R94, R97): a count past 31 gives 0, or the sign for SAR; ROTL takes the count modulo 32. -/
def integerShifts : List ((FA → Instr) × (Word → Word → Word × Word)) :=
  [ (.shl, fun a b => quietly (if b.toNat < 32 then BitVec.ofNat 32 (a.toNat * 2 ^ b.toNat) else 0)),
    (.shr, fun a b => quietly (if b.toNat < 32 then BitVec.ofNat 32 (a.toNat / 2 ^ b.toNat) else 0)),
    (.sar, fun a b => quietly (BitVec.ofInt 32 (a.toInt / 2 ^ min b.toNat 31))),
    (.rotl, fun a b => quietly (a <<< (b.toNat % 32) ||| a >>> (32 - b.toNat % 32))),
    (.bfx, fun a b => quietly (BitVec.ofNat 32 (a.toNat / 2 ^ (b.toNat % 32) % 2 ^ (b.toNat / 32 % 32)))) ]

/-- R90 to R93: every integer instruction of two sources completes in each lane with the exact sum, difference, product, high
product, minimum, maximum or logic result, clamped under MD.SAT as R91 says. -/
def IntegerPairsGiveExactResults : Prop :=
  ∀ (w : FA) (s : State), ∀ p ∈ integerPairs, VecReady s (vecA w (p.2 (mdSat s.st.md))) →
    ∃ t, exec (p.1 w) s = .next t ∧ VecDone s t (vecA w (p.2 (mdSat s.st.md)))

/-- R94, R95, R97: the compares, shifts and BFX complete with their results. -/
def ComparesAndShiftsGiveTheirResults : Prop :=
  ∀ (w : FA) (s : State), ∀ p ∈ integerCompares ++ integerShifts, VecReady s (vecA w p.2) →
    ∃ t, exec (p.1 w) s = .next t ∧ VecDone s t (vecA w p.2)

/-- Bit i of BFI's result: of a's field inside the field of d that b describes, else of d (R97). -/
def bfiBits (a b d : Word) : Word :=
  let pos := b.toNat % 32
  let len := b.toNat / 32 % 32
  BitVec.ofFnLE fun i : Fin 32 => if pos ≤ i.val ∧ i.val < pos + len then a.getLsbD (i.val - pos) else d.getLsbD i.val

/-- The integer instructions that also read d (R93, R96, R97). -/
def integerTriples : List ((FA3 → Instr) × (Bool → Word → Word → Word → Word × Word)) :=
  [ (.imad, fun sat a b d => intResult sat (a.toInt * b.toInt + d.toInt)),
    (.sel, fun _ a b d => quietly (if d.getLsbD 0 then a else b)),
    (.bfi, fun _ a b d => quietly (bfiBits a b d)) ]

/-- R93, R96, R97: IMAD, SEL and BFI complete. -/
def TriplesReadTheirDestination : Prop :=
  ∀ (w : FA3) (s : State), ∀ p ∈ integerTriples, VecReady s (vecA3 w (p.2 (mdSat s.st.md))) →
    ∃ t, exec (p.1 w) s = .next t ∧ VecDone s t (vecA3 w (p.2 (mdSat s.st.md)))

/-- The number of 1 bits. -/
def bitCount (a : Word) : Nat := ((List.range 32).filter fun i => a.getLsbD i).length

/-- The number of 0 bits above the highest 1 bit; 32 for 0. -/
def zerosAbove (a : Word) : Nat := ((List.range 33).find? fun n => decide (a.toNat * 2 ^ n ≥ 2147483648)).getD 32

/-- The integer instructions of one source (R100). -/
def integerSingles : List ((FB → Instr) × (Bool → Word → Word × Word)) :=
  [ (.mov, fun _ a => quietly a),
    (.not, fun _ a => quietly (~~~a)),
    (.ineg, fun sat a => intResult sat (-a.toInt)),
    (.iabs, fun sat a => intResult sat (if a.toInt < 0 then -a.toInt else a.toInt)),
    (.popc, fun _ a => quietly (BitVec.ofNat 32 (bitCount a))),
    (.clz, fun _ a => quietly (BitVec.ofNat 32 (zerosAbove a))),
    (.brev, fun _ a => quietly (BitVec.ofFnLE fun i : Fin 32 => a.getLsbD (31 - i.val))) ]

/-- R100: MOV, NOT, INEG, IABS, POPC, CLZ and BREV complete. -/
def SinglesGiveTheirResults : Prop :=
  ∀ (w : FB) (s : State), ∀ p ∈ integerSingles, VecReady s (vecB w (p.2 (mdSat s.st.md))) →
    ∃ t, exec (p.1 w) s = .next t ∧ VecDone s t (vecB w (p.2 (mdSat s.st.md)))

/-- The format K instructions on a source and the sign-extended immediate (R106). -/
def immediates : List ((FK → Instr) × (Bool → Word → Word → Word × Word)) :=
  [ (.iaddi, fun sat a i => intResult sat (a.toInt + i.toInt)),
    (.andi, fun _ a i => quietly (a &&& i)),
    (.ori, fun _ a i => quietly (a ||| i)),
    (.xori, fun _ a i => quietly (a ^^^ i)),
    (.shli, fun _ a i => quietly (if i.toNat < 32 then BitVec.ofNat 32 (a.toNat * 2 ^ i.toNat) else 0)),
    (.shri, fun _ a i => quietly (if i.toNat < 32 then BitVec.ofNat 32 (a.toNat / 2 ^ i.toNat) else 0)),
    (.sari, fun _ a i => quietly (BitVec.ofInt 32 (a.toInt / 2 ^ min i.toNat 31))),
    (.islti, fun _ a i => asPred (decide (a.toInt < i.toInt))) ]

/-- The operation of LI (R105): the immediate sign-extended, or with h its 17 bits above the low 15 bits of d. -/
def liOp (w : FI) : VecOp :=
  { u := w.u, la := 0, ok := true, srcs := if w.h then [(.reg w.d 0, 1)] else [], dst := regDst w.d, dwords := 1
    pairChan := false, cnt := (14, 1)
    f := fun _ vs l => (if w.h then
        BitVec.ofNat 64 (w.imm.toNat * 32768 + ((vs.getD 0 []).word 0 l).toNat % 32768)
      else (w.imm.signExtend 32).setWidth 64, 0) }

/-- R105, R106: LI and the format K instructions complete. -/
def ImmediatesGiveTheirResults : Prop :=
  (∀ (w : FK) (s : State), ∀ p ∈ immediates,
    VecReady s (vecK w fun a => p.2 (mdSat s.st.md) a (w.imm.signExtend 32)) →
      ∃ t, exec (p.1 w) s = .next t ∧ VecDone s t (vecK w fun a => p.2 (mdSat s.st.md) a (w.imm.signExtend 32)))
  ∧ ∀ (w : FI) (s : State), VecReady s (liOp w) → ∃ t, exec (.li w) s = .next t ∧ VecDone s t (liOp w)

/-- The lanes of a mask whose bit 0 of the first source is set. -/
def setLanes (m : Mask) (vs : List Val) (l : Lane) : Bool := m.has l && ((vs.getD 0 []).word 0 l).getLsbD 0

/-- PERM, the votes and BALLOT (R98, R99, R101): PERM takes the lane that the low six bits of b name, inactive ones too. -/
def permOp (w : FA) : VecOp :=
  { vecA w (fun a _ => quietly a) with
    f := fun _ vs l => (((vs.getD 0 []).word 0 (Fin.ofNat 64 ((vs.getD 1 []).word 0 l).toNat)).setWidth 64, 0) }
@[inherit_doc permOp] def voteOp (w : FB) (all : Bool) : VecOp :=
  { vecB w quietly with
    f := fun m vs _ => (if (if all then allLanes.all (fun l => !m.has l || setLanes m vs l) else allLanes.any (setLanes m vs))
      then 0xFFFFFFFF else 0, 0) }
@[inherit_doc permOp] def ballotOp (w : FB) : VecOp :=
  { vecB w quietly with dwords := 2, pairChan := true, f := fun m vs _ => (BitVec.ofFnLE (setLanes m vs), 0) }

/-- NNZ (R102): how many elements of MD.TYPE are nonzero, the sign of a floating one not counting. -/
def nnzOp (w : FB) (ty : Nat) : VecOp :=
  { vecB w quietly with
    srcs := [(srcOfA w.a, if ty = 9 then 2 else 1)], dwords := if ty = 9 then 2 else 1, pairChan := true
    f := fun _ vs l => (BitVec.ofNat 64 ((List.range (tyElems ty)).filter fun i =>
      nonzeroElem ty (tyElem ty ((vs.getD 0 []).pair l) i)).length, 0) }

/-- R98 to R103: PERM, VOTEANY, VOTEALL, BALLOT and NNZ complete. -/
def LanesMeetInVotesAndPermutes : Prop :=
  ∀ (s : State),
    (∀ w, VecReady s (permOp w) → ∃ t, exec (.perm w) s = .next t ∧ VecDone s t (permOp w))
    ∧ (∀ w, VecReady s (voteOp w false) → ∃ t, exec (.voteany w) s = .next t ∧ VecDone s t (voteOp w false))
    ∧ (∀ w, VecReady s (voteOp w true) → ∃ t, exec (.voteall w) s = .next t ∧ VecDone s t (voteOp w true))
    ∧ (∀ w, VecReady s (ballotOp w) → ∃ t, exec (.ballot w) s = .next t ∧ VecDone s t (ballotOp w))
    ∧ ∀ w, VecReady s (nnzOp w (mdType s.st.md)) →
        ∃ t, exec (.nnz w) s = .next t ∧ VecDone s t (nnzOp w (mdType s.st.md))

/-- Element e of SLIDE's result (R104), over the 64 lanes' elements of a and the old d: the element k places below (up) or
above, and past the ends what FILL says. -/
def slideValue (up : Bool) (fill : Fill) (k total : Nat) (a old : Nat → Nat) (e : Nat) : Nat :=
  if up then
    if k ≤ e then a (e - k)
    else match fill with | .zero => 0 | .edge => a 0 | .old => old e | .wrap => a ((e + total * k - k) % total)
  else
    if e + k < total then a (e + k)
    else match fill with | .zero => 0 | .edge => a (total - 1) | .old => old e | .wrap => a ((e + k) % total)

/-- The operation of SLIDE under MD.TYPE. -/
def slideOp (w : FSlide) (ty : Nat) : VecOp :=
  let n := tyWords ty
  { u := w.u, la := 0, ok := true, srcs := (srcOfA w.a, n) :: (if w.fill = .old then [(.reg w.d.idx 0, n)] else [])
    dst := w.d, dwords := n, pairChan := true, cnt := (14, 1)
    f := fun _ vs l =>
      let el (j e : Nat) : Nat := tyElem ty ((vs.getD j []).pair (Fin.ofNat 64 (e / tyElems ty))) (e % tyElems ty)
      (BitVec.ofNat 64 ((List.range (tyElems ty)).foldl (fun x i =>
        x + slideValue w.up w.fill w.k.toNat (64 * tyElems ty) (el 0) (el 1) (l.val * tyElems ty + i) * 2 ^ (i * tyWidth ty)) 0), 0) }

/-- R104: SLIDE completes. -/
def SlideShiftsElements : Prop :=
  ∀ (w : FSlide) (s : State), VecReady s (slideOp w (mdType s.st.md)) →
    ∃ t, exec (.slide w) s = .next t ∧ VecDone s t (slideOp w (mdType s.st.md))

end Sys2Proof.Say

/-! ### Vector instructions: typed arithmetic, XCEND and the moments -/

namespace Sys2Proof.Say

/-- An element read as an integer: two's complement under the signed types (codes 0, 5, 7 and 9), else unsigned (R68, R111). -/
def elemInt (ty x : Nat) : Int :=
  if ty = 0 ∨ ty = 5 ∨ ty = 7 ∨ ty = 9 then (if x < 2 ^ (tyWidth ty - 1) then (x : Int) else (x : Int) - 2 ^ tyWidth ty) else x

/-- The least and the greatest value of an integer type. -/
def elemLow (ty : Nat) : Int := if ty = 0 ∨ ty = 5 ∨ ty = 7 ∨ ty = 9 then -(2 ^ (tyWidth ty - 1)) else 0
@[inherit_doc elemLow] def elemHigh (ty : Nat) : Int :=
  if ty = 0 ∨ ty = 5 ∨ ty = 7 ∨ ty = 9 then 2 ^ (tyWidth ty - 1) - 1 else 2 ^ tyWidth ty - 1

/-- An exact integer kept modulo 2^n, or clamped to the type with SR.SAT (R70). -/
def elemResult (ty : Nat) (sat : Bool) (x : Int) : FRes :=
  let keep (y : Int) : Nat := (y % 2 ^ tyWidth ty).toNat
  if sat then (keep (max (elemLow ty) (min x (elemHigh ty))), if x < elemLow ty ∨ elemHigh ty < x then flSAT else 0)
  else (keep x, 0)

/-- The typed instructions of two sources (R111 to R114): the exact integer, and the floating operation, of an element. -/
def typedPairs : List ((FA → Instr) × (Int → Int → Int) × (Fmt → Rnd → Bool → Nat → Nat → FRes)) :=
  [ (.add, fun x y => x + y, fun f rnd ftz a b => f.add rnd ftz false a b),
    (.sub, fun x y => x - y, fun f rnd ftz a b => f.add rnd ftz true a b),
    (.mul, fun x y => x * y, fun f rnd ftz a b => f.mul rnd ftz a b) ]

/-- The operation of a typed instruction of two sources under MD. -/
def pairOp (w : FA) (md : Addr) (fi : Int → Int → Int) (ff : Fmt → Rnd → Bool → Nat → Nat → FRes) : VecOp :=
  let ty := mdType md
  typedA w ty (decide (ty ≤ 11)) fun a b =>
    match tyFmt ty with
    | some f => ff f (mdRnd md) (mdFtz md) a b
    | none => elemResult ty (mdSat md) (fi (elemInt ty a) (elemInt ty b))

/-- The fused instructions: whether the product and whether d is negated (R111, R112). -/
def typedTriples : List ((FA3 → Instr) × Bool × Bool) := [(.fma, false, false), (.fms, false, true), (.fnma, true, false)]

/-- The operation of a fused instruction under MD: one rounding of the exact ±(a × b) ± d. -/
def fusedOp (w : FA3) (md : Addr) (negP negD : Bool) : VecOp :=
  let ty := mdType md
  typedA3 w ty (decide (ty ≤ 11)) fun a b d =>
    match tyFmt ty with
    | some f => f.fma (mdRnd md) (mdFtz md) negP negD a b d
    | none =>
      let p := elemInt ty a * elemInt ty b
      let e := elemInt ty d
      elemResult ty (mdSat md) ((if negP then -p else p) + (if negD then -e else e))

/-- R108 to R112: ADD, SUB, MUL, FMA, FMS and FNMA complete under every type code 0 to 11, element by element. That a NaN source
comes before an invalid product is deduced (log entry 17). -/
def TypedArithmeticFollowsTheType : Prop :=
  (∀ (w : FA) (s : State), ∀ p ∈ typedPairs, VecReady s (pairOp w s.st.md p.2.1 p.2.2) →
    ∃ t, exec (p.1 w) s = .next t ∧ VecDone s t (pairOp w s.st.md p.2.1 p.2.2))
  ∧ ∀ (w : FA3) (s : State), ∀ p ∈ typedTriples, VecReady s (fusedOp w s.st.md p.2.1 p.2.2) →
      ∃ t, exec (p.1 w) s = .next t ∧ VecDone s t (fusedOp w s.st.md p.2.1 p.2.2)

/-- The operation of MIN and MAX under MD: a source unchanged; a floating type follows R113's own order. -/
def extremeOp (w : FA) (md : Addr) (greater : Bool) : VecOp :=
  let ty := mdType md
  typedA w ty (decide (ty ≤ 11)) fun a b =>
    match tyFmt ty with
    | some f => f.minMax (mdFtz md) greater a b
    | none => (if greater then (if elemInt ty a ≤ elemInt ty b then b else a)
        else (if elemInt ty a ≤ elemInt ty b then a else b), 0)

/-- The compares: the result with a NaN source, whether every NaN sets IV, and whether the relation holds of a sign (R114). -/
def typedCompares : List ((FA → Instr) × Bool × Bool × (Int → Bool)) :=
  [ (.ceq, false, false, fun c => decide (c = 0)), (.cne, true, false, fun c => decide (c ≠ 0)),
    (.clt, false, true, fun c => decide (c < 0)), (.cle, false, true, fun c => decide (c ≤ 0)) ]

/-- The result of a compare of two elements: all ones or all zeros. -/
def compareElem (md : Addr) (nan allIv : Bool) (rel : Int → Bool) (a b : Nat) : FRes :=
  let ty := mdType md
  let ones (c : Bool) : Nat := if c then 2 ^ tyWidth ty - 1 else 0
  match tyFmt ty with
  | some f =>
    if f.isNan a ∨ f.isNan b then (ones nan, if allIv ∨ f.isSnan a ∨ f.isSnan b then flIV else 0)
    else (ones (rel ((f.num (f.flush (mdFtz md) a)).cmp (f.num (f.flush (mdFtz md) b)))), 0)
  | none => (ones (rel (elemInt ty a - elemInt ty b).sign), 0)

/-- R113, R114: MIN, MAX and the compares complete; CUN, which holds where a source is NaN, takes floating types only. -/
def TypedComparesFollowTheType : Prop :=
  ∀ (w : FA) (s : State),
    (VecReady s (extremeOp w s.st.md false) → ∃ t, exec (.min w) s = .next t ∧ VecDone s t (extremeOp w s.st.md false))
    ∧ (VecReady s (extremeOp w s.st.md true) → ∃ t, exec (.max w) s = .next t ∧ VecDone s t (extremeOp w s.st.md true))
    ∧ (∀ p ∈ typedCompares,
        let o := typedA w (mdType s.st.md) (decide (mdType s.st.md ≤ 11)) (compareElem s.st.md p.2.1 p.2.2.1 p.2.2.2)
        VecReady s o → ∃ t, exec (p.1 w) s = .next t ∧ VecDone s t o)
    ∧ (let o := typedA w (mdType s.st.md) (tyFmt (mdType s.st.md)).isSome
          (compareElem s.st.md true false fun _ => false)
       VecReady s o → ∃ t, exec (.cun w) s = .next t ∧ VecDone s t o)

/-- The exact integer dot product of two packed words (R115). -/
def dotInt (ty : Nat) (a b d : Word) : Int :=
  ((List.range (tyElems ty)).map fun i =>
    elemInt ty (a.toNat / 2 ^ (tyWidth ty * i) % 2 ^ tyWidth ty) * elemInt ty (b.toNat / 2 ^ (tyWidth ty * i) % 2 ^ tyWidth ty)).sum
      + d.toInt

/-- The operation of DOT2 and DOT4 under MD: the sum is exact and is rounded, or clamped under MD.SAT, once. -/
def dotProduct (w : FA3) (md : Addr) (types : List Nat) : VecOp :=
  let ty := mdType md
  { vecA3 w (fun a _ _ => quietly a) with
    ok := decide (ty ∈ types), cnt := tyCnt ty
    f := fun _ vs l =>
      let a := (vs.getD 0 []).word 0 l
      let b := (vs.getD 1 []).word 0 l
      let d := (vs.getD 2 []).word 0 l
      match tyFmt ty with
      | some f =>
        let el (x : Word) : List Nat := (List.range (tyElems ty)).map fun i => x.toNat / 2 ^ (tyWidth ty * i) % 2 ^ tyWidth ty
        let r := dotFloat f (mdRnd md) (mdFtz md) (el a) (el b) d.toNat
        (BitVec.ofNat 64 r.1, r.2)
      | none => let r := intResult (mdSat md) (dotInt ty a b d); (r.1.setWidth 64, r.2) }

/-- R116: x shifted right by k, half rounded toward +∞, clamped to the type. -/
def shiftRound (ty k : Nat) (x : Int) : FRes :=
  elemResult ty true (if k = 0 then x else (x + 2 ^ (k - 1)) / 2 ^ k)

/-- The operation of RSHR: 32-bit sources into n32 and i32, two or four signed source words into packed types, a pair for i64. -/
def rshrOp (w : FA) (ty : Nat) : VecOp :=
  let aw := if ty = 5 ∨ ty = 6 ∨ ty = 9 then 2 else if ty = 7 ∨ ty = 8 then 4 else 1
  { u := w.u, la := 0, srcs := [(srcOfA w.a, aw), (srcOfB w.b, tyWords ty)], dst := w.d, dwords := tyWords ty
    ok := decide (ty = 0 ∨ ty = 1 ∨ (5 ≤ ty ∧ ty ≤ 9)) && (decide (ty ≤ 1) || (!w.a.chan && !w.d.chan))
    pairChan := false, cnt := tyCnt ty
    f := fun _ vs l =>
      let k := ((vs.getD 1 []).word 0 l).toNat % 64
      let a := vs.getD 0 []
      if ty = 9 then let r := shiftRound 9 k (a.pair l).toInt; (BitVec.ofNat 64 r.1, r.2)
      else if ty = 1 then let r := shiftRound 1 k (a.word 0 l).toNat; (BitVec.ofNat 64 r.1, r.2)
      else packElems (tyWidth ty) ((List.range (tyElems ty)).map fun e => shiftRound ty k (a.word e l).toInt) }

/-- R115, R116: the dot products and RSHR complete. A NaN source before an invalid sum, and the sign of an exact zero sum,
are the model's choice (log entries 58 and 79). -/
def DotsAndRoundingShifts : Prop :=
  (∀ (w : FA3) (s : State),
    (VecReady s (dotProduct w s.st.md [3, 4, 5, 6]) →
      ∃ t, exec (.dot2 w) s = .next t ∧ VecDone s t (dotProduct w s.st.md [3, 4, 5, 6]))
    ∧ (VecReady s (dotProduct w s.st.md [7, 8]) →
      ∃ t, exec (.dot4 w) s = .next t ∧ VecDone s t (dotProduct w s.st.md [7, 8])))
  ∧ ∀ (w : FA) (s : State), VecReady s (rshrOp w (mdType s.st.md)) →
      ∃ t, exec (.rshr w) s = .next t ∧ VecDone s t (rshrOp w (mdType s.st.md))

/-- ABS, NEG and SATP of an element (R118, R120): a floating sign bit alone changes; SATP clamps to 0 through 1. -/
def typedSingles : List ((FB → Instr) × (Nat → Bool → Int → FRes) × (Fmt → Nat → FRes)) :=
  [ (.abs, fun ty sat x => elemResult ty sat (if x < 0 then -x else x), fun f x => (x % 2 ^ (f.width - 1), 0)),
    (.neg, fun ty sat x => elemResult ty sat (-x), fun f x => (x ^^^ 2 ^ (f.width - 1), 0)),
    (.satp, fun ty _ x => elemResult ty false (max x 0), fun f x =>
      if f.isNan x then (0, if f.isSnan x then flIV else 0) else if f.sign x then (0, 0) else (min x f.one, 0)) ]

/-- FRACT and RNDI of an element (R119). -/
def floatSingles : List ((FB → Instr) × (Fmt → Rnd → Bool → Nat → FRes)) :=
  [(.fract, fun f rnd ftz x => f.fract rnd ftz x), (.rndi, fun f rnd ftz x => f.rndi rnd ftz x)]

/-- The conversion of one element (R122): a code to itself copies; integers clamp only under MD.SAT; a floating value rounds to
an integer in MD.RND and clamps with IV, NaN to 0 with IV. -/
def convertElem (md : Addr) (ts tt x : Nat) : FRes :=
  if ts = tt then (x, 0)
  else
    match tyFmt ts, tyFmt tt with
    | none, none => elemResult tt (mdSat md) (elemInt ts x)
    | none, some f => f.ofInt (mdRnd md) false (elemInt ts x)
    | some g, some f => g.convert f (mdRnd md) (mdFtz md) x
    | some g, none =>
      if g.isNan x then (0, flIV)
      else
        match g.num (g.flush (mdFtz md) x) with
        | .inf neg => ((elemResult tt false (if neg then elemLow tt else elemHigh tt)).1, flIV)
        | .fin neg m e =>
          let r := toIntRound (mdRnd md) neg m e
          ((elemResult tt true r.1).1, if r.1 < elemLow tt ∨ elemHigh tt < r.1 then flIV else if r.2 then flNX else 0)

/-- The operation of CVT; a pair type on either side admits no channel (R108, R121). -/
def cvtOp (w : FCvt) (md : Addr) : VecOp :=
  let ts := mdType md
  let tt := w.t.toNat
  { u := w.u, la := 0, srcs := [(srcOfA w.a, tyWords ts)], dst := w.d
    ok := decide (ts ≤ 11) && decide (tt ≤ 11) && ((ts != 9 && tt != 9) || (!w.a.chan && !w.d.chan))
    dwords := tyWords tt, pairChan := false, cnt := tyCnt ts
    f := fun _ vs l => packElems (tyWidth tt) ((List.range (min (tyElems ts) (tyElems tt))).map fun i =>
      convertElem md ts tt (tyElem ts ((vs.getD 0 []).pair l) i)) }

/-- R117 to R122: ABS, NEG, SATP, FRACT, RNDI and CVT complete. The zero of FRACT is the model's choice (log entry 59). -/
def OneSourceTypedOperations : Prop :=
  (∀ (w : FB) (s : State), ∀ p ∈ typedSingles,
    let ty := mdType s.st.md
    let o := typedB w ty (decide (ty ≤ 11)) fun x =>
      match tyFmt ty with | some f => p.2.2 f x | none => p.2.1 ty (mdSat s.st.md) (elemInt ty x)
    VecReady s o → ∃ t, exec (p.1 w) s = .next t ∧ VecDone s t o)
  ∧ (∀ (w : FB) (s : State), ∀ p ∈ floatSingles, ∀ f, tyFmt (mdType s.st.md) = some f →
      let o := typedB w (mdType s.st.md) true (p.2 f (mdRnd s.st.md) (mdFtz s.st.md))
      VecReady s o → ∃ t, exec (p.1 w) s = .next t ∧ VecDone s t o)
  ∧ ∀ (w : FCvt) (s : State), VecReady s (cvtOp w s.st.md) → ∃ t, exec (.cvt w) s = .next t ∧ VecDone s t (cvtOp w s.st.md)

end Sys2Proof.Say

/-- R71 to R73: a value that a format represents is its own rounding, in every mode and with no flag. -/
def Obligations.RoundingKeepsRepresentedValues : Prop :=
  ∀ f ∈ [f32, f16, bf16], ∀ (rnd x : Nat) (neg : Bool) (m : Nat) (e : Int),
    x < 2 ^ f.width → f.num x = .fin neg m e → f.round rnd false neg m e = (x, 0)

namespace Sys2Proof.Say

/-- The XCEND instructions with the number of their function in R123's order. -/
def xcendList : List ((FL → Instr) × Nat) :=
  [(.rcp, 0), (.rsq, 1), (.sqrt, 2), (.exp2, 3), (.log2, 4), (.sin, 5), (.cos, 6), (.tanh, 7), (.ncdf, 8), (.npdf, 9)]

/-- The poles and fixed points of R124 at f32: function, source, result and flags. -/
def xcendSpecials : List (Nat × Nat × Nat × Word) :=
  [ (0, 0x00000000, 0x7F800000, 0), (0, 0x80000000, 0xFF800000, 0), (0, 0x7F800000, 0x00000000, 0),
    (0, 0xFF800000, 0x80000000, 0), (1, 0x00000000, 0x7F800000, 0), (1, 0x80000000, 0xFF800000, 0),
    (1, 0x7F800000, 0x00000000, 0), (1, 0xBF800000, 0x7FC00000, flIV), (2, 0x80000000, 0x80000000, 0),
    (2, 0x7F800000, 0x7F800000, 0), (2, 0xBF800000, 0x7FC00000, flIV), (2, 0x40800000, 0x40000000, 0),
    (3, 0x00000000, 0x3F800000, 0), (3, 0x7F800000, 0x7F800000, 0), (3, 0xFF800000, 0x00000000, 0),
    (4, 0x3F800000, 0x00000000, 0), (4, 0x00000000, 0xFF800000, 0), (4, 0x7F800000, 0x7F800000, 0),
    (4, 0xBF800000, 0x7FC00000, flIV), (5, 0x00000000, 0x00000000, 0), (5, 0x7F800000, 0x7FC00000, flIV),
    (6, 0x00000000, 0x3F800000, 0), (6, 0x7F800000, 0x7FC00000, flIV), (7, 0x80000000, 0x80000000, 0),
    (7, 0x7F800000, 0x3F800000, 0), (7, 0xFF800000, 0xBF800000, 0), (8, 0x7F800000, 0x3F800000, 0),
    (8, 0xFF800000, 0x00000000, 0), (9, 0x7F800000, 0x00000000, 0) ]

/-- The f32 value of a function of R123 at an element (R124), which does not depend on MD.RND. -/
def curve (fn : Nat) (ftz : Bool) (x : Nat) : FRes := xcendElem f32 fn 0 ftz x

/-- An element of an XCEND result (R123 to R125): SQRT rounds the exact root once to its format; the others give the f32 value,
or at a narrow type widen the element, take the f32 value and round it once in MD.RND. -/
def curveElem (f : Fmt) (fn : Nat) (rnd : Rnd) (ftz : Bool) (x : Nat) : FRes :=
  if fn = 2 then f.sqrt rnd ftz x
  else if f = f32 then curve fn ftz x
  else if f.isNan x then (f.quiet x, if f.isSnan x then flIV else 0)
  else
    let r := curve fn ftz (f.convert f32 0 false (f.flush ftz x)).1
    if f32.isNan r.1 then (f.qnan, r.2)
    else let n := f32.convert f rnd ftz r.1; (n.1, r.2 ||| n.2)

/-- The operation of an XCEND instruction under MD: floating types only, counted by elements in weigh counter 16 (R108). -/
def curveOp (w : FL) (md : Addr) (fn : Nat) : VecOp :=
  let ty := mdType md
  { u := w.u, la := w.la.toNat, ok := (tyFmt ty).isSome, srcs := [(srcOfA w.a, 1)], dst := w.d, dwords := 1, pairChan := false
    cnt := (16, tyElems ty)
    f := fun _ vs l => packElems (tyWidth ty) ((List.range (tyElems ty)).map fun i =>
      curveElem ((tyFmt ty).getD f32) fn (mdRnd md) (mdFtz md) (tyElem ty ((vs.getD 0 []).pair l) i)) }

/-- 2^i at f32 with a sign, for −149 ≤ i ≤ 127. -/
def powerCode (neg : Bool) (i : Int) : Nat :=
  (if neg then 2 ^ 31 else 0) + (if i < -126 then 2 ^ (i + 149).toNat else (i + 127).toNat * 2 ^ 23)

/-- A small integer at f32. -/
def intCode (n : Int) : Nat := (f32.round 0 false (decide (n < 0)) n.natAbs 0).1

/-- The exact inputs of R124 that are neither zeros nor infinities, with their results: powers of two under RCP and LOG2, powers
of four under RSQ, integers under EXP2. -/
inductive ExactAt : Nat → Nat → Nat → Prop
  | rcp (neg : Bool) (i : Int) : -127 ≤ i → i ≤ 126 → ExactAt 0 (powerCode neg i) (powerCode neg (-i))
  | rsq (i : Int) : -74 ≤ i → i ≤ 63 → ExactAt 1 (powerCode false (2 * i)) (powerCode false (-i))
  | exp2 (n : Int) : n ≠ 0 → -149 ≤ n → n ≤ 127 → ExactAt 3 (intCode n) (powerCode false n)
  | log2 (i : Int) : -149 ≤ i → i ≤ 127 → ExactAt 4 (powerCode false i) (intCode i)

/-- R124's value of each function but SQRT: a NaN is quieted, with IV where it signals; an exact input gives its exact result with
no flag, unless FTZ flushes a subnormal; every other finite nonzero input sets NX, the negative ones of RSQ and LOG2, which
give a NaN with IV, apart; NPDF of zero sets NX too. -/
def CurveFollowsTable (fn : Nat) : Prop :=
  ∀ (ftz : Bool) (x : Nat), x < 2 ^ 32 →
    (f32.isNan x = true → curve fn ftz x = (f32.quiet x, if f32.isSnan x then flIV else 0))
    ∧ (∀ y, ExactAt fn x y → (ftz = true → f32.isSub x = false ∧ f32.isSub y = false) → curve fn ftz x = (y, 0))
    ∧ (f32.isNan x = false → f32.isInf x = false → f32.isZero x = false → (ftz = true → f32.isSub x = false) →
        (if (fn = 1 ∨ fn = 4) ∧ f32.sign x = true then curve fn ftz x = (f32.qnan, flIV)
         else (∀ y, ¬ ExactAt fn x y) → (curve fn ftz x).2 &&& flNX = flNX))
    ∧ (f32.isZero x = true → fn = 9 → (curve fn ftz x).2 &&& flNX = flNX)
    ∧ (ftz = true → f32.isSub x = true → curve fn ftz x = curve fn ftz (if f32.sign x then 0x80000000 else 0))
    ∧ ∀ rnd, xcendElem f32 fn rnd ftz x = curve fn ftz x

/-- R108, R123 to R126: the XCEND instructions complete, opening their window; R124's tables of special and exact inputs give
those results, in every rounding mode, and every other finite input sets NX. Which neighbour of the exact value such an input
gives is the model's free choice within the bound of R72 (log entries 15 and 60) and is not stated. -/
def TranscendentalsComplete : Prop :=
  (∀ (w : FL) (s : State), ∀ p ∈ xcendList, VecReady s (curveOp w s.st.md p.2) →
    ∃ t, exec (p.1 w) s = .next t ∧ VecDone s t (curveOp w s.st.md p.2))
  ∧ (∀ q ∈ xcendSpecials, ∀ rnd < 4, ∀ ftz, xcendElem f32 q.1 rnd ftz q.2.1 = (q.2.2.1, q.2.2.2))
  ∧ ∀ fn < 10, fn ≠ 2 → CurveFollowsTable fn

/-- The OR of the flags of an instruction's steps (R129). -/
def stepFlags (steps : List FRes) : Word := steps.foldl (fun f r => f ||| r.2) 0

/-- The steps of MRELU (R137): each is one f32 operation rounded once in MD.RND, from the mean m and the variance v. -/
def reluSteps (rnd : Rnd) (ftz : Bool) (m v : Nat) : MRes :=
  if f32.isZero v then ((if f32.sign m ∨ f32.isZero m then 0 else m, 0), 0)
  else
    let s := f32.sqrt rnd ftz v
    let a := f32.div rnd ftz m s.1
    let p := curve 8 ftz a.1
    let d := curve 9 ftz a.1
    let sd := f32.mul rnd ftz s.1 d.1
    let x := f32.fma rnd ftz false false m p.1 sd.1
    let mm := f32.fma rnd ftz false false m m v
    let ms := f32.mul rnd ftz m s.1
    let msd := f32.mul rnd ftz ms.1 d.1
    let e := f32.fma rnd ftz false false mm.1 p.1 msd.1
    let y := f32.fma rnd ftz true false x.1 x.1 e.1
    ((x.1, y.1), stepFlags [s, a, p, d, sd, x, mm, ms, msd, e, y])

/-- The steps of MSIG (R137), with π/8 = 0x3EC90FDB. -/
def sigSteps (rnd : Rnd) (ftz : Bool) (m v : Nat) : MRes :=
  let c := f32.fma rnd ftz false false 0x3EC90FDB v 0x3F800000
  let q := f32.sqrt rnd ftz c.1
  let a := f32.div rnd ftz m q.1
  let x := curve 8 ftz a.1
  let n := f32.add rnd ftz true 0x3F800000 x.1
  let g := f32.mul rnd ftz x.1 n.1
  let gg := f32.mul rnd ftz g.1 g.1
  let y := f32.mul rnd ftz gg.1 v
  ((x.1, y.1), stepFlags [c, q, a, x, n, g, gg, y])

/-- The steps of MEXP (R137), with log₂ e = 0x3FB8AA3B. -/
def expSteps (rnd : Rnd) (ftz : Bool) (m v : Nat) : MRes :=
  let h := f32.fma rnd ftz false false 0x3F000000 v m
  let hl := f32.mul rnd ftz h.1 0x3FB8AA3B
  let x := curve 3 ftz hl.1
  let z := f32.mul rnd ftz v 0x3FB8AA3B
  let ez := curve 3 ftz z.1
  let q := f32.add rnd ftz true ez.1 0x3F800000
  let t := f32.fma rnd ftz false false 0x40000000 m v
  let tl := f32.mul rnd ftz t.1 0x3FB8AA3B
  let et := curve 3 ftz tl.1
  let y := f32.mul rnd ftz q.1 et.1
  ((x.1, y.1), stepFlags [h, hl, x, z, ez, q, t, tl, et, y])

/-- The steps of MGELU (R137). -/
def geluSteps (rnd : Rnd) (ftz : Bool) (m v : Nat) : MRes :=
  let v1 := f32.add rnd ftz false v 0x3F800000
  let c := f32.sqrt rnd ftz v1.1
  let a := f32.div rnd ftz m c.1
  let p := curve 8 ftz a.1
  let d := curve 9 ftz a.1
  let vc := f32.div rnd ftz v c.1
  let vd := f32.mul rnd ftz vc.1 d.1
  let x := f32.fma rnd ftz false false m p.1 vd.1
  let g := f32.fma rnd ftz false false a.1 d.1 p.1
  let gg := f32.mul rnd ftz g.1 g.1
  let y := f32.mul rnd ftz gg.1 v
  ((x.1, y.1), stepFlags [v1, c, a, p, d, vc, vd, x, g, gg, y])

/-- The steps of MSQR (R137). -/
def sqrSteps (rnd : Rnd) (ftz : Bool) (m v : Nat) : MRes :=
  let x := f32.fma rnd ftz false false m m v
  let mm := f32.mul rnd ftz m m
  let m4 := f32.mul rnd ftz 0x40800000 mm.1
  let vv := f32.mul rnd ftz v v
  let v2 := f32.mul rnd ftz 0x40000000 vv.1
  let y := f32.fma rnd ftz false false m4.1 v v2.1
  ((x.1, y.1), stepFlags [x, mm, m4, vv, v2, y])

/-- The MOMNL instructions with their steps. -/
def momnlList : List ((FML → Instr) × (Rnd → Bool → Nat → Nat → MRes)) :=
  [(.mrelu, reluSteps), (.msig, sigSteps), (.mexp, expSteps), (.mgelu, geluSteps), (.msqr, sqrSteps)]

/-- The operation of a MOMNL instruction under MD, with R130's stages around its steps and R131's trap. -/
def unitOp (w : FML) (md : Addr) (steps : Rnd → Bool → Nat → Nat → MRes) : VecOp :=
  let ftz := mdFtz md
  { u := w.u, la := w.la.toNat, ok := true, srcs := [(.reg w.a.idx w.a.p.toNat, 2)], dst := regDst w.d, dwords := 2
    pairChan := false, cnt := (15, 1)
    f := fun _ vs l =>
      let m := f32.flush ftz ((vs.getD 0 []).word 0 l).toNat
      let v := varIn ftz ((vs.getD 0 []).word 1 l).toNat
      let r := momentRes [m, v.1] (steps (mdRnd md) ftz m v.1)
      (pairVal (BitVec.ofNat 32 r.1.1) (BitVec.ofNat 32 r.1.2), r.2 ||| v.2)
    mvar := fun m vs => !mdMvclamp md && m.lanes.any fun l => varBad ftz ((vs.getD 0 []).word 1 l).toNat }

/-- The steps of MADD, and of MSUB with `sub`, which negates μb and ρ (R133). -/
def sumSteps (sub : Bool) (rnd : Rnd) (ftz : Bool) (ma va mb vb r : Nat) : MRes :=
  let x := f32.add rnd ftz sub ma mb
  let t := f32.add rnd ftz false va vb
  if f32.isZero r then ((x.1, t.1), stepFlags [x, t])
  else
    let sa := f32.sqrt rnd ftz va
    let sb := f32.sqrt rnd ftz vb
    let s := f32.mul rnd ftz sa.1 sb.1
    let c := (f32.mul 0 false 0x40000000 (if sub then r ^^^ 0x80000000 else r)).1
    let y := f32.fma rnd ftz false false c s.1 t.1
    ((x.1, y.1), stepFlags [x, t, sa, sb, s, y])

/-- The steps of MMUL (R134). -/
def productSteps (rnd : Rnd) (ftz : Bool) (ma va mb vb r : Nat) : MRes :=
  let p := f32.mul rnd ftz ma mb
  let aa := f32.mul rnd ftz ma ma
  let u0 := f32.mul rnd ftz aa.1 vb
  let bb := f32.mul rnd ftz mb mb
  let u := f32.fma rnd ftz false false bb.1 va u0.1
  let v := f32.mul rnd ftz va vb
  if f32.isZero r then
    let y := f32.add rnd ftz false u.1 v.1
    ((p.1, y.1), stepFlags [p, aa, u0, bb, u, v, y])
  else
    let sa := f32.sqrt rnd ftz va
    let sb := f32.sqrt rnd ftz vb
    let s := f32.mul rnd ftz sa.1 sb.1
    let x := f32.fma rnd ftz false false r s.1 p.1
    let rr := f32.fma rnd ftz false false r r 0x3F800000
    let v' := f32.mul rnd ftz v.1 rr.1
    let q := f32.mul rnd ftz (f32.mul 0 false 0x40000000 r).1 p.1
    let uv := f32.add rnd ftz false u.1 v'.1
    let y := f32.fma rnd ftz false false q.1 s.1 uv.1
    ((x.1, y.1), stepFlags [p, aa, u0, bb, u, v, sa, sb, s, x, rr, v', q, uv, y])

/-- The two-moment instructions with their steps. -/
def momentPairs : List ((FM2 → Instr) × (Rnd → Bool → Nat → Nat → Nat → Nat → Nat → MRes)) :=
  [(.madd, sumSteps false), (.msub, sumSteps true), (.mmul, productSteps)]

/-- The correlation ρ of a lane (R128), clamped with MCL where MD.MVCLAMP lets a bad one through (R131). -/
def correlation (md : Addr) (x : Word) : FRes :=
  match mdMcov md with
  | 0 => (0, 0)
  | 1 => (0x3F800000, 0)
  | 2 => (0xBF800000, 0)
  | _ =>
    let r := f32.flush (mdFtz md) x.toNat
    if f32.isNan r then (0, flMCL)
    else if 0x3F800000 < r % 2 ^ 31 then (if f32.sign r then 0xBF800000 else 0x3F800000, flMCL)
    else (r, 0)

/-- Whether a correlation that MRHO names is bad: NaN or beyond 1 in magnitude. -/
def badRho (md : Addr) (x : Word) : Bool :=
  let r := f32.flush (mdFtz md) x.toNat
  f32.isNan r || decide (0x3F800000 < r % 2 ^ 31)

/-- The operation of MADD, MSUB and MMUL under MD; EXPL alone reads MRHO, after the sources (R128, R130 to R132). -/
def jointOp (w : FM2) (md : Addr) (steps : Rnd → Bool → Nat → Nat → Nat → Nat → Nat → MRes) : VecOp :=
  let ftz := mdFtz md
  { u := w.u, la := 0, ok := true
    srcs := [(.reg w.a.idx w.a.p.toNat, 2), (.reg w.b.idx (b2n w.b.p), 2)]
      ++ (if mdMcov md = 3 then [(.reg (mdMrho md) 0, 1)] else [])
    dst := regDst w.d, dwords := 2, pairChan := false, cnt := (15, 1)
    f := fun _ vs l =>
      let ma := f32.flush ftz ((vs.getD 0 []).word 0 l).toNat
      let va := varIn ftz ((vs.getD 0 []).word 1 l).toNat
      let mb := f32.flush ftz ((vs.getD 1 []).word 0 l).toNat
      let vb := varIn ftz ((vs.getD 1 []).word 1 l).toNat
      let c := correlation md ((vs.getD 2 []).word 0 l)
      let r := momentRes ([ma, va.1, mb, vb.1] ++ (if mdMcov md = 3 then [c.1] else []))
        (steps (mdRnd md) ftz ma va.1 mb vb.1 c.1)
      (pairVal (BitVec.ofNat 32 r.1.1) (BitVec.ofNat 32 r.1.2), r.2 ||| va.2 ||| vb.2 ||| c.2)
    mvar := fun m vs => !mdMvclamp md && m.lanes.any fun l =>
      varBad ftz ((vs.getD 0 []).word 1 l).toNat || varBad ftz ((vs.getD 1 []).word 1 l).toNat
        || (decide (mdMcov md = 3) && badRho md ((vs.getD 2 []).word 0 l)) }

/-- The collapses with the value they keep, from mean, variance and k (R138). -/
def collapses : List ((FMColl → Instr) × (Rnd → Bool → Nat → Nat → Nat → FRes)) :=
  [ (.mcollMean, fun _ _ m _ _ => (m, 0)), (.mcollStd, fun rnd ftz _ v _ => f32.sqrt rnd ftz v),
    (.mcollVar, fun _ _ _ v _ => (v, 0)) ]

/-- Mean plus k standard deviations, each step rounded once (R138). -/
def upperBound (rnd : Rnd) (ftz : Bool) (m v k : Nat) : FRes :=
  let q := f32.sqrt rnd ftz v
  let r := f32.fma rnd ftz false false k q.1 m
  (r.1, q.2 ||| r.2)

/-- The operation of MCOLL under MD: the value in v[d], +0 in v[d+1]; UCB also reads k. -/
def collapseOp (u : Bool) (d : RegNo) (a : RegP) (k : Option RegNo) (md : Addr)
    (x : Rnd → Bool → Nat → Nat → Nat → FRes) : VecOp :=
  let ftz := mdFtz md
  { u := u, la := 0, ok := true
    srcs := (.reg a.idx a.p.toNat, 2) :: (match k with | some r => [(.reg r 0, 1)] | none => [])
    dst := regDst d, dwords := 2, pairChan := false, cnt := (15, 1)
    f := fun _ vs l =>
      let m := f32.flush ftz ((vs.getD 0 []).word 0 l).toNat
      let v := varIn ftz ((vs.getD 0 []).word 1 l).toNat
      let kk := f32.flush ftz ((vs.getD 1 []).word 0 l).toNat
      let y := x (mdRnd md) ftz m v.1 kk
      let r := momentRes ([m, v.1] ++ (if k.isSome then [kk] else [])) ((y.1, 0), y.2)
      (pairVal (BitVec.ofNat 32 r.1.1) 0, r.2 ||| v.2)
    mvar := fun m vs => !mdMvclamp md && m.lanes.any fun l => varBad ftz ((vs.getD 0 []).word 1 l).toNat }

/-- The operation of MSCL (R135): mean k·m and variance v·k², with R130's stages around them. -/
def msclOp (w : FMScl) (md : Addr) : VecOp :=
  let ftz := mdFtz md
  { u := w.u, la := 0, ok := true, srcs := [(.reg w.a.idx w.a.p.toNat, 2), (srcOfB w.b, 1)], dst := regDst w.d, dwords := 2
    pairChan := false, cnt := (15, 1)
    f := fun _ vs l =>
      let rnd := mdRnd md
      let m := f32.flush ftz ((vs.getD 0 []).word 0 l).toNat
      let v := varIn ftz ((vs.getD 0 []).word 1 l).toNat
      let k := f32.flush ftz ((vs.getD 1 []).word 0 l).toNat
      let x := f32.mul rnd ftz m k
      let kk := f32.mul rnd ftz k k
      let y := f32.mul rnd ftz v.1 kk.1
      let r := momentRes [m, v.1, k] ((x.1, y.1), x.2 ||| kk.2 ||| y.2)
      (pairVal (BitVec.ofNat 32 r.1.1) (BitVec.ofNat 32 r.1.2), r.2 ||| v.2)
    mvar := fun m vs => !mdMvclamp md && m.lanes.any fun l => varBad ftz ((vs.getD 0 []).word 1 l).toNat }

/-- R127 to R138: the moment instructions complete in both registers of the destination pair, with the results and flags of
their steps; the value of EXP2, NCDF and NPDF inside a step is the free choice of log entries 15 and 60, and a NaN that arises in
a step follows log entry 31. -/
def MomentsComplete : Prop :=
  (∀ (w : FML) (s : State), ∀ p ∈ momnlList, VecReady s (unitOp w s.st.md p.2) →
    ∃ t, exec (p.1 w) s = .next t ∧ VecDone s t (unitOp w s.st.md p.2))
  ∧ (∀ (w : FM2) (s : State), ∀ p ∈ momentPairs, VecReady s (jointOp w s.st.md p.2) →
    ∃ t, exec (p.1 w) s = .next t ∧ VecDone s t (jointOp w s.st.md p.2))
  ∧ (∀ (w : FMScl) (s : State), VecReady s (msclOp w s.st.md) →
    ∃ t, exec (.mscl w) s = .next t ∧ VecDone s t (msclOp w s.st.md))
  ∧ (∀ (w : FMColl) (s : State), ∀ p ∈ collapses, VecReady s (collapseOp w.u w.d w.a none s.st.md p.2) →
    ∃ t, exec (p.1 w) s = .next t ∧ VecDone s t (collapseOp w.u w.d w.a none s.st.md p.2))
  ∧ ∀ (w : FMUcb) (s : State), VecReady s (collapseOp w.u w.d w.a (some w.k) s.st.md upperBound) →
    ∃ t, exec (.mcollUcb w) s = .next t ∧ VecDone s t (collapseOp w.u w.d w.a (some w.k) s.st.md upperBound)

end Sys2Proof.Say

/-! ### Reset, memory, encodings and the step -/

namespace Sys2Proof.Say

/-- R180, R318, R349, R350, R352, R358, R360, R369, R373, R377, R380: RESET leaves, from every state, what the spec's Reset columns and
texts give ELECT, PSTAT, PLIM, the measurements, WCTL, FABID, JTAB, PORTSTAT, TLBICTL, MIN, MAX and the bins of the range monitors, SPCTL,
HCTL and TRCTL; the
package is powered, its clock stands at zero and no street is placed. CFG and BASE of a range monitor, and the other registers without
a Reset column, have values of the model (log entry 12) and are not stated here. -/
def ResetGivesTheStatedValues : Prop :=
  ∀ s, ∃ t, exec .reset s = .next t ∧ t.pkg.powered = true
    ∧ t.pkg.meas = List.replicate 8 (List.replicate 32 0) ∧ t.pkg.plim = 2800 ∧ t.pkg.fabid = 0x7FF ∧ t.clock = 0
    ∧ (t.pkg.denied = 0 ∧ t.pkg.changes = 0 ∧ t.pkg.owner = 0) ∧ (t.pkg.power = 0 ∧ t.pkg.mhz = 4000 ∧ t.pkg.temp = 0)
    ∧ (t.pkg.wbusy = false ∧ t.pkg.wstatus = 0 ∧ t.pkg.wctx = 0)
    ∧ t.pkg.jtab = List.replicate 16 0
    ∧ t.pkg.ports = List.replicate 48 { retries := 0, peer := 0, peerport := 0, lanes := 0, state := 0 }
    ∧ (∀ d, let b := (t.die d).tlbi
        b.busy = false ∧ b.pcflush = false ∧ b.kind = 0 ∧ b.ctx = 0)
    ∧ (∀ d, (t.die d).mons.length = 32 ∧ ∀ m ∈ (t.die d).mons, m.min = 2 ^ 64 - 1 ∧ m.max = 0 ∧ m.bins = List.replicate 16 0)
    ∧ (∀ c, let k := t.core c
        k.cecnt = 0 ∧ k.uecnt = 0 ∧ k.ret = List.replicate 4 (false, 0) ∧ k.freeze = false
          ∧ k.tr.en = false ∧ k.tr.branches = false ∧ k.tr.marks = false ∧ k.tr.paths = false ∧ k.tr.wrptr = 0 ∧ k.tr.rdptr = 0)
    ∧ t.st.there = false ∧ t.streets = []

/-- The memory of the machine after reset is in its canonical form. -/
def ResetMemoryIsCanonical : Prop := State.reset.mem.wf = true

end Sys2Proof.Say

/-- Every step keeps memory in its canonical form, whichever instruction or event it is: addresses strictly rising and no entry
that holds what an unlisted address reads as. The form is the model's own (log entry 2). -/
def Obligations.StepKeepsMemoryCanonical : Prop :=
  ∀ s t, s.mem.wf = true → step s = .next t → t.mem.wf = true

/-- Every instruction that is well formed and has an encoding decodes from it to itself, with every operand at every value the
encoding admits. -/
def Obligations.DecodeInvertsEncode : Prop :=
  ∀ (i : Instr) (w : Word), i.wf = true → encode i = some w → decode w = .ok i

namespace Sys2Proof.Say

/-- Words that the spec writes out, with what they stand for (R122, R123, R143, R144, R147 to R151, R154). -/
def specWords : List (Word × Instr) :=
  [ (0xD0000001, .bra { u := false, off := 1 }), (0xD2220002, .brp { u := false, p := 8, pol := true, off := 2 }),
    (0xD6005001, .callx { u := false, a := 20 }), (0xD6000002, .ret false), (0xD6000003, .exit false),
    (0xD6000004, .yield false), (0xD6000005, .nop false), (0xE12000C8, .mode { f := 2, val := 0xC8 }),
    (0xE2060000, .sread { u := false, d := 3, n := 0 }), (0xE4000818, .swrite { u := false, a := ⟨false, 2, 0⟩, n := 24 }),
    (0xD8100000, .tret false false), (0xD8100001, .tret false true),
    (0x800C10A5, .cvt { u := false, d := ⟨false, 6⟩, a := ⟨false, 4, 0⟩, t := 10 }),
    (0x900A1020, .rcp { u := false, d := ⟨false, 5⟩, a := ⟨false, 4, 0⟩, la := 2 }) ]

end Sys2Proof.Say

/-- The words that the spec writes out decode to the instructions they stand for. -/
def Obligations.WordsOfTheSpecDecode : Prop := ∀ p ∈ specWords, decode p.1 = .ok p.2

namespace Sys2Proof.Say

/-- The street in focus is the one whose turn has come, no street of a higher slot of its core has issued in the cycle (R209), no
access to a pan stands in its windows (R283), and it may issue from entry k (R58, R166), the one whose load or atomic waits for another
device where one does (R27). -/
structure Turns (s : State) (rest : List Turn) (k : Fin 8) (aged : Bool) : Prop where
  turn     : s.agenda = .issue s.st.sid :: rest
  power    : s.pkg.powered = true
  there    : s.st.there = true
  eligible : s.eligible s.blk s.st = true
  noHalt   : s.st.haltDue = false
  unpaired : s.st.pair = none
  inTurn   : s.inSlotTurn s.st = true
  noPan    : s.st.panWaits = false
  selected : s.nextEntry = some (k, aged)

end Sys2Proof.Say

/-- When the bytes at the selected entry's PC translate, to memory of this device, and decode to a well-formed instruction, a step
is that instruction's meaning after the word is read from its single copy, and around it the ageing, merging and window counting of
`State.issued`; an instruction of R27's list closes the open windows first (R40, R58). Bytes that decode to nothing well formed take ILLEGAL,
and those of a formatted page take FMT_PARTIAL (R85). -/
def Obligations.StepRunsTheDecodedInstruction : Prop :=
  ∀ (s : State) (rest : List Turn) (k : Fin 8) (aged : Bool) (pa pte ea base size : Nat),
    Turns s rest k aged →
    let c := { s with agenda := rest, st := s.st.choose k aged }
    translate c c.st.core c.blk.ctx c.st.path.pc.toNat .fetch = .ok pa pte ea base size →
    let u := touch c c.st.core c.blk.ctx .fetch pa pte ea base size
    (pteFMT pte ≠ 0 → step s = .next (State.issued c (c.takeTrap 4 0 c.st.path.pc.toNat))) ∧
    (pteFMT pte = 0 → pteRH pte = false → u.badSector pa 4 (pteMS pte) = none →
    let f := u.loadCopy pa 4 c.blk.ctx.ctxid (pteMS pte)
    (∀ i rem, decodeBytes f.1 = .ok (i, rem) → i.wf = true →
      let v := if endsWindows i then { f.2 with st := { f.2.st with windows := [] } } else f.2
      step s = onNext (exec i v) (State.issued v))
    ∧ ((∀ i rem, decodeBytes f.1 = .ok (i, rem) → i.wf = false) →
      step s = .next (State.issued f.2 (f.2.takeTrap 1 0 0))))

/-- R58: among the entries that may run, one with a grant comes first; else, of those of AGE 256 or more, the one of greatest
AGE, then deepest, then of lowest PC, which is granted; else the deepest, then the one of lowest PC. A street with no such entry
is not eligible, and its turn issues nothing. R149's passed-over entry is left out by the premise. -/
def Obligations.SelectionFollowsGrantAgeDepth : Prop :=
  (∀ (s : State) (rest : List Turn), s.agenda = .issue s.st.sid :: rest → s.st.there = true → s.mayRun s.blk s.st = [] →
    s.st.haltDue = false → s.eligible s.blk s.st = false ∧ step s = .next { s with agenda := rest })
  ∧ ∀ (t : Street) (all : List (Fin 8 × PathEntry)), t.passOver = none →
    (all ≠ [] → (t.selectFrom all).isSome = true)
    ∧ ∀ k r, t.selectFrom all = some (k, r) → ∃ e, (k, e) ∈ all
      ∧ ((0 < e.grant ∧ r = false)
        ∨ ((∀ f ∈ all, f.2.grant = 0) ∧ r = true ∧ 256 ≤ e.age ∧ ∀ f ∈ all, f.2.age < e.age ∨ (f.2.age = e.age
            ∧ (f.2.depth < e.depth ∨ (f.2.depth = e.depth ∧ e.pc.toNat ≤ f.2.pc.toNat))))
        ∨ ((∀ f ∈ all, f.2.grant = 0 ∧ f.2.age < 256) ∧ r = false
          ∧ ∀ f ∈ all, f.2.depth < e.depth ∨ (f.2.depth = e.depth ∧ e.pc.toNat ≤ f.2.pc.toNat)))

namespace Sys2Proof.Say

/-- What a register operand of one word reads outside every window (R12, R21): the lane of the register that the slot's
permutation names. -/
def readLane (s : State) (r : RegNo) (slot : Nat) (l : Lane) : Word :=
  let kind := (s.st.md.toNat / 2 ^ (14 + 8 * slot)) % 4
  let k := (s.st.md.toNat / 2 ^ (8 + 8 * slot)) % 64
  let from_ : Nat :=
    if slot = 0 then l.val
    else if kind = 0 then (l.val + k) % 64 else if kind = 1 then k else if kind = 2 then l.val ^^^ k else (k + 64 - l.val) % 64
  (s.st.regs.get r.toFin).lane (Fin.ofNat 64 from_)

end Sys2Proof.Say

/-- R12, R13, R25, R205: what the source operands read. A register operand gives each lane the word its permutation slot names;
a channel operand that pops gives the head of its queue and is present when an entry is there, and the queue then begins at the
next entry. The registers are those outside every window; inside one, log entry 3 names the free choice. -/
def Obligations.OperandsReadRegistersAndChannels : Prop :=
  ∀ (s : State), s.st.windows = [] →
    (∀ r slot l, slot < 4 → ((s.gather [(.reg r slot, 1)]).vals.getD 0 []).word 0 l = readLane s r slot l)
    ∧ (∀ r r' slot slot' l, slot < 4 → slot' < 4 →
        ((s.gather [(.reg r slot, 1), (.reg r' slot', 1)]).vals.getD 0 []).word 0 l = readLane s r slot l
        ∧ ((s.gather [(.reg r slot, 1), (.reg r' slot', 1)]).vals.getD 1 []).word 0 l = readLane s r' slot' l)
    ∧ ∀ c q, s.queueOf c = some q → q < 16 →
        (s.present (s.gather [(.chan c true, 1)]) = true ↔ s.queue q ≠ [])
        ∧ ∀ v es, s.queue q = v :: es →
          (s.gather [(.chan c true, 1)]).vals = [[v]]
          ∧ (s.popAll (s.gather [(.chan c true, 1)])).queue q = es
          ∧ (s.popAll (s.gather [(.chan c false, 1)])).queue q = v :: es

/-! ### Control flow, modes, special registers and channels -/

namespace Sys2Proof.Say

/-- The lanes of the issuing path split by their targets (R61): each target has one entry, the lanes that go to `first` keep the
issuing entry, the others take the lowest free indices in ascending order of target, and no other entry changes. -/
structure SplitTo (s t : State) (way : Lane → Addr) (first : Addr) (depth : Nat) : Prop where
  lanes : ∀ l, s.st.path.mask.has l = true → ∃ i : Fin 8, (i = s.st.sel ∨ (s.st.paths.get i).reason = .free)
    ∧ (t.st.paths.get i).pc = way l ∧ (t.st.paths.get i).depth = depth ∧ (i = s.st.sel ∨ (t.st.paths.get i).reason = .branch)
    ∧ ∀ k : Lane, (t.st.paths.get i).mask.has k = (s.st.path.mask.has k && decide (way k = way l))
  first : (t.st.paths.get s.st.sel).pc = first
  order : ∀ i j : Fin 8, i < j → (s.st.paths.get i).reason = .free → (s.st.paths.get j).reason = .free →
    (t.st.paths.get j).reason ≠ .free →
      (t.st.paths.get i).reason ≠ .free ∧ (t.st.paths.get i).pc.toNat < (t.st.paths.get j).pc.toNat
  others : ∀ i, i ≠ s.st.sel → (s.st.paths.get i).reason ≠ .free → t.st.paths.get i = s.st.paths.get i

/-- The distinct targets of the lanes of the issuing path. -/
def wayCount (s : State) (way : Lane → Addr) : Nat := ((s.st.path.mask.lanes.map way).dedup).length

/-- Whether the path table has room for them (R61). -/
def Room (s : State) (way : Lane → Addr) : Prop := wayCount s way ≤ s.st.freeEntries.length + 1

/-- The lowest target of the lanes of the issuing path. -/
def IsLowest (s : State) (way : Lane → Addr) (a : Addr) : Prop :=
  (∃ l, s.st.path.mask.has l = true ∧ way l = a) ∧ ∀ l, s.st.path.mask.has l = true → a.toNat ≤ (way l).toNat

/-- Only the path table, and the trace of the core, may have changed. -/
def PathsOnly (s t : State) : Prop :=
  t = { s with st := { s.st with paths := t.st.paths, stall := none }, cores := t.cores }

/-- The target of a relative transfer (R142). -/
def jumpTo (pc : Addr) (off : Addr) : Addr := pc + 4 + 4 * off

/-- Where BRP sends a lane (R143). -/
def brpTarget (w : FBrp) (s : State) (l : Lane) : Addr :=
  if ((s.rdReg 0 w.p).lane (if w.u then 0 else l)).getLsbD 0 = w.pol then jumpTo s.st.path.pc (w.off.signExtend 64)
  else s.st.path.pc + 4

/-- Where BRX and CALLX send a lane (R144). -/
def pairTarget (w : FPair) (s : State) (l : Lane) : Addr :=
  let k : Lane := if w.u then 0 else l
  (s.rdReg 1 (regPlus w.a 1)).lane k ++ (s.rdReg 0 w.a).lane k

end Sys2Proof.Say

/-- R61, R142 to R144: BRA moves the whole path; BRP and BRX split it by target and change nothing else; a split that finds too
few free entries takes PATHS; a computed target that is no multiple of 4 takes ALIGN. -/
def Obligations.BranchesSplitThePath : Prop :=
  (∀ (w : FC) (s : State), exec (.bra w) s = .next { s with st := { s.st with
      paths := s.st.paths.set s.st.sel { s.st.path with pc := jumpTo s.st.path.pc (w.off.signExtend 64) }, stall := none } })
  ∧ (∀ (w : FBrp) (s : State), w.p.toNat < s.blk.hdr.regs → s.upsets = [] → s.st.path.mask ≠ 0 →
      s.st.path.reason = .branch →
      (Room s (brpTarget w s) → ∃ t, exec (.brp w) s = .next t ∧ PathsOnly s t
        ∧ SplitTo s t (brpTarget w s)
            (if ∃ l, s.st.path.mask.has l = true ∧ brpTarget w s l = s.st.path.pc + 4 then s.st.path.pc + 4
              else jumpTo s.st.path.pc (w.off.signExtend 64)) s.st.path.depth)
      ∧ (¬ Room s (brpTarget w s) → exec (.brp w) s = .next (s.takeTrap 10 0 0)))
  ∧ ∀ (w : FPair) (s : State), w.a.toNat % 2 = 0 → w.a.toNat + 2 ≤ s.blk.hdr.regs → s.upsets = [] → s.st.path.mask ≠ 0 →
      s.st.path.reason = .branch →
      (Room s (pairTarget w s) → (∀ l, s.st.path.mask.has l = true → (pairTarget w s l).toNat % 4 = 0) →
        ∃ t a, exec (.brx w) s = .next t ∧ PathsOnly s t ∧ IsLowest s (pairTarget w s) a
          ∧ SplitTo s t (pairTarget w s) a s.st.path.depth)
      ∧ (¬ Room s (pairTarget w s) → exec (.brx w) s = .next (s.takeTrap 10 0 0))
      ∧ (∀ l, Room s (pairTarget w s) → s.st.path.mask.has l = true → (pairTarget w s l).toNat % 4 ≠ 0 →
          (∀ k, k < l → s.st.path.mask.has k = true → (pairTarget w s k).toNat % 4 = 0) →
          exec (.brx w) s = .next (s.takeTrap 3 0 (pairTarget w s l).toNat))

namespace Sys2Proof.Say

/-- The address of a lane's return address at a depth (R145, R146). -/
def frameSlot (s : State) (depth : Nat) (l : Lane) : Nat := (s.st.fstk.toNat + 512 * depth + 8 * l.val) % 2 ^ 64

/-- The frame-stack words of the path's lanes lie in HBM at `pa`, apart from each other and from every counter record. -/
structure FrameAt (s : State) (acc : Acc) (depth : Nat) (pa : Lane → Nat) : Prop where
  mapped : ∀ l, s.st.path.mask.has l = true → Mapped s acc (frameSlot s depth l) (pa l)
  apart  : ∀ l k, s.st.path.mask.has l = true → s.st.path.mask.has k = true → l ≠ k → pa l + 8 ≤ pa k ∨ pa k + 8 ≤ pa l
  free   : ∀ l i, s.st.path.mask.has l = true → i < 8 → ¬ CounterByte s.blk.ctx (pa l + i)

/-- A byte of a return address that a call stores. -/
def FrameByte (s : State) (pa : Lane → Nat) (a : Nat) : Prop :=
  ∃ l i, s.st.path.mask.has l = true ∧ i < 8 ∧ a = pa l + i

/-- R145, R146: CALL and CALLX store PC + 4 for each lane of the path at FSTK + 512 × DEPTH + 8 × L and go to their targets one
DEPTH deeper; no other byte changes beside counter records, and no register or flag. -/
def CallsStoreReturnAddresses : Prop :=
  ∀ (s : State) (pa : Lane → Nat), Quiet s → s.mem.wf = true → s.st.path.mask ≠ 0 → s.st.path.reason = .branch → s.st.path.depth < 65535 →
    FrameAt s .write s.st.path.depth pa →
    let stored (t : State) : Prop := t = Rest s t ∧ SameMem s t (FrameByte s pa)
      ∧ ∀ l, s.st.path.mask.has l = true → t.mem.nat (pa l) 8 = (s.st.path.pc + 4).toNat
    (∀ w : FC, ∃ t, exec (.call w) s = .next t ∧ stored t
      ∧ SplitTo s t (fun _ => jumpTo s.st.path.pc (w.off.signExtend 64)) (jumpTo s.st.path.pc (w.off.signExtend 64))
          (s.st.path.depth + 1))
    ∧ ∀ w : FPair, w.a.toNat % 2 = 0 → w.a.toNat + 2 ≤ s.blk.hdr.regs → Room s (pairTarget w s) →
        (∀ l, s.st.path.mask.has l = true → (pairTarget w s l).toNat % 4 = 0) →
        ∃ t a, exec (.callx w) s = .next t ∧ stored t ∧ IsLowest s (pairTarget w s) a
          ∧ SplitTo s t (pairTarget w s) a (s.st.path.depth + 1)

/-- R147: RET from a frame whose lanes hold no colour loads each lane's return address and goes there one DEPTH up; the
street's engine operations of that frame then belong to the calling one; memory keeps every byte beside counter records. -/
def ReturnsLoadReturnAddresses : Prop :=
  ∀ (u : Bool) (s : State) (pa : Lane → Nat), Quiet s → L1Fresh s → s.st.holds = [] → s.st.path.mask ≠ 0 →
    s.st.path.reason = .branch → 0 < s.st.path.depth → s.st.tlevel = false →
    FrameAt s .read (s.st.path.depth - 1) pa →
    let back (l : Lane) : Addr := BitVec.ofNat 64 (s.mem.nat (pa l) 8)
    Room s back → (∀ l, s.st.path.mask.has l = true → (back l).toNat % 4 = 0) →
    ∃ t a, exec (.ret u) s = .next t ∧ IsLowest s back a ∧ SplitTo s t back a (s.st.path.depth - 1)
      ∧ t = { Rest s t with st := { (Rest s t).st with ops := t.st.ops } } ∧ SameMem s t nowhere
      ∧ t.st.ops = s.st.ops.map fun o =>
          if (o.lanes &&& s.st.path.mask) ≠ 0 ∧ s.st.path.depth ≤ o.depth then { o with depth := s.st.path.depth - 1 } else o

/-- What is left of the street when the issuing path's lanes exit. -/
def leftBehind (s : State) : Street :=
  { s.st with paths := s.st.paths.set s.st.sel PathEntry.free, tlevel := false, trap := none, stall := none }

/-- R147 to R149: EXIT, and RET at DEPTH 0, free the entry of the issuing path; with another entry left nothing else changes,
and with none left the street has exited while another street of its block goes on. YIELD and NOP change no register, flag or
memory; YIELD also gives up the grant, eight cycles of eligibility and the next selection. -/
def PathsEndYieldAndIdle : Prop :=
  ∀ (u : Bool) (s : State),
    (s.st.pair = none → s.st.holds = [] → s.colours = [] → s.st.clrw = [] → s.st.tlevel = false → s.st.life = .running →
      ∀ i ∈ [Instr.exit u, .ret u], (i = .ret u → s.st.path.depth = 0) →
        ((∃ k, k ≠ s.st.sel ∧ (s.st.paths.get k).reason ≠ .free) → exec i s = .next { s with st := leftBehind s })
        ∧ ((∀ k, k ≠ s.st.sel → (s.st.paths.get k).reason = .free) →
          (∃ x ∈ s.streets, x.there = true ∧ x.block = s.st.block ∧ x.over = false) →
          exec i s = .next { s with st := { leftBehind s with life := .exited } }))
    ∧ exec (.nop u) s = .next { s with st := { s.st with
        paths := s.st.paths.set s.st.sel { s.st.path with pc := s.st.path.pc + 4 }, stall := none } }
    ∧ exec (.yield u) s = .next { s with st := { s.st with
        paths := s.st.paths.set s.st.sel { s.st.path with pc := s.st.path.pc + 4, grant := 0 }, stall := none
        yieldUntil := s.clock + 9, passOver := some s.st.sel } }

/-- The fields of MD that MODE writes: lowest bit and width of each field number (R54, R150). -/
def modeFields : List (Nat × Nat) :=
  [(0, 4), (4, 2), (6, 8), (14, 2), (16, 8), (24, 8), (32, 8), (40, 3), (43, 2), (45, 6), (51, 1), (52, 12)]

/-- MD with one field replaced, bit by bit. -/
def mdWith (md : Addr) (lo w : Nat) (val : BitVec 20) : Addr :=
  BitVec.ofFnLE fun i : Fin 64 => if lo ≤ i.val ∧ i.val < lo + w then val.getLsbD (i.val - lo) else md.getLsbD i.val

/-- Whether a value of MD is one that R54 allows with so many declared registers. -/
def mdAllowed (md : Addr) (regs : Nat) : Prop :=
  md.toNat % 16 < 12 ∧ md.toNat / 2 ^ 40 % 8 < 7 ∧ (md.getLsbD 13 = false → md.toNat / 2 ^ 6 % 128 = 0)
    ∧ md.toNat / 2 ^ 6 % 64 < regs ∧ md.toNat / 2 ^ 45 % 64 < regs ∧ md.toNat / 2 ^ 58 < regs

/-- R150: MODE writes its field of MD and no other state but the place of the path, whatever lanes are active; a value that R54
forbids takes ILLEGAL. -/
def ModeWritesOneField : Prop :=
  ∀ (w : FMode) (s : State) (f : Nat × Nat), modeFields[w.f.toNat]? = some f →
    (mdAllowed (mdWith s.st.md f.1 f.2 w.val) s.blk.hdr.regs → ∃ t, exec (.mode w) s = .next t ∧ Advanced s t
      ∧ t.st.md = mdWith s.st.md f.1 f.2 w.val
      ∧ t = { s with st := { s.st with md := t.st.md, paths := t.st.paths, stall := none } })
    ∧ (¬ mdAllowed (mdWith s.st.md f.1 f.2 w.val) s.blk.hdr.regs → exec (.mode w) s = .next (s.takeTrap 1 0 0))

/-- The value of a special register in a lane, outside every window (R153); DPOS is stated by its fields. -/
def specialValue (s : State) (l : Lane) : Nat → Word
  | 0 => BitVec.ofNat 32 l.val
  | 1 => s.st.sr
  | 2 => s.st.md.extractLsb' 0 32
  | 3 => s.st.md.extractLsb' 32 32
  | 4 => s.st.path.mask.extractLsb' 0 32
  | 5 => s.st.path.mask.extractLsb' 32 32
  | 6 => BitVec.ofNat 32 s.st.path.depth
  | 7 => if s.st.tlevel then 1 else 0
  | 8 => BitVec.ofNat 32 s.st.slot
  | 9 => BitVec.ofNat 32 s.st.sindex
  | 10 => s.st.sid
  | 11 => BitVec.ofNat 32 (coreY s.st.core * 256 + coreX s.st.core)
  | 12 => BitVec.ofNat 32 (s.blk.height * 2 ^ 24 + s.blk.width * 2 ^ 16 + (coreY s.blk.core - s.blk.y0) * 256
      + (coreX s.blk.core - s.blk.x0))
  | 13 => BitVec.ofNat 32 (s.dieClock s.st.die)
  | 14 => s.st.clkhi
  | 15 => BitVec.ofNat 32 s.blk.ctx.ctxid
  | 16 => s.st.thand.extractLsb' 0 32
  | 17 => s.st.thand.extractLsb' 32 32
  | 18 => s.st.tsave.extractLsb' 0 32
  | 19 => s.st.tsave.extractLsb' 32 32
  | 20 => s.st.fstk.extractLsb' 0 32
  | 21 => s.st.fstk.extractLsb' 32 32
  | 22 => (s.st.hscr.get 0).lane l
  | 23 => (s.st.hscr.get 1).lane l
  | 24 => (s.st.hscr.get 2).lane l
  | 25 => (s.st.hscr.get 3).lane l
  | _ => s.st.ctxflags &&& 3

/-- R151 to R153: SREAD writes the special register into the active lanes of d, all 64 lanes under U = 1 or for an HSCR register,
and nothing else; a read of CLKLO latches the high word for CLKHI. -/
def SpecialRegistersAreRead : Prop :=
  ∀ (w : FSread) (s : State), w.n.toNat ≤ 26 → w.d.toNat < s.blk.hdr.regs → s.st.windows = [] →
    (s.active ≠ 0 ∨ (22 ≤ w.n.toNat ∧ w.n.toNat ≤ 25)) →
    ∃ t, exec (.sread w) s = .next t ∧ Advanced s t
      ∧ t = { s with
          st := { s.st with regs := t.st.regs, paths := t.st.paths, clkhi := t.st.clkhi, stall := none }, upsets := t.upsets }
      ∧ (s.upsets = [] → t.upsets = [])
      ∧ t.st.clkhi = (if w.n = 13 then BitVec.ofNat 32 (s.dieClock s.st.die / 2 ^ 32) else s.st.clkhi)
      ∧ ∀ r l, (t.st.regs.get (r : RegNo).toFin).lane l =
          if r = w.d ∧ (w.u = true ∨ (22 ≤ w.n.toNat ∧ w.n.toNat ≤ 25) ∨ s.active.has l = true) then
            specialValue s (if w.u = true ∧ ¬ (22 ≤ w.n.toNat ∧ w.n.toNat ≤ 25) then 0 else l) w.n.toNat
          else (s.st.regs.get r.toFin).lane l

/-- The street after a write of a special register: x the value of the one lane, v those of all lanes (R153). -/
def specialPut (t : Street) (x : Word) (v : SVec) : Nat → Street
  | 1 => { t with sr := x &&& 0x7F }
  | 2 => { t with md := t.md.extractLsb' 32 32 ++ x }
  | 3 => { t with md := x ++ t.md.extractLsb' 0 32 }
  | 16 => { t with thand := t.thand.extractLsb' 32 32 ++ (x &&& 0xFFFFFFFC) }
  | 17 => { t with thand := x ++ t.thand.extractLsb' 0 32 }
  | 18 => { t with tsave := t.tsave.extractLsb' 32 32 ++ (x &&& 0xFFFFFF00) }
  | 19 => { t with tsave := x ++ t.tsave.extractLsb' 0 32 }
  | 20 => { t with fstk := t.fstk.extractLsb' 32 32 ++ (x &&& 0xFFFFFE00) }
  | 21 => { t with fstk := x ++ t.fstk.extractLsb' 0 32 }
  | 22 => { t with hscr := t.hscr.set 0 v }
  | 23 => { t with hscr := t.hscr.set 1 v }
  | 24 => { t with hscr := t.hscr.set 2 v }
  | 25 => { t with hscr := t.hscr.set 3 v }
  | _ => t

/-- The special registers that SWRITE may write. -/
def writable : List Nat := [1, 2, 3, 16, 17, 18, 19, 20, 21, 22, 23, 24, 25]

/-- R151 to R153: SWRITE from a register writes the special register with the value of the lowest active lane, of lane 0 under
U = 1, or of every lane for an HSCR register, and nothing else; a forbidden MD takes ILLEGAL; a privileged register in a user
context takes PRIV. -/
def SpecialRegistersAreWritten : Prop :=
  ∀ (w : FSwrite) (s : State), w.n.toNat ∈ writable → w.a.chan = false → w.a.idx.toNat < s.blk.hdr.regs →
    s.st.windows = [] → s.upsets = [] → (s.active ≠ 0 ∨ 22 ≤ w.n.toNat) →
    let v : SVec := SVec.gen fun l => readLane s w.a.idx w.a.p.toNat l
    let lane : Lane := if w.u then 0 else s.active.lowest.getD 0
    let u := specialPut s.st (v.lane lane) v w.n.toNat
    (mdAllowed u.md s.blk.hdr.regs → (16 ≤ w.n.toNat → w.n.toNat ≤ 21 → s.blk.ctx.user = false) →
      exec (.swrite w) s = .next { s with st := { u with
        paths := s.st.paths.set s.st.sel { s.st.path with pc := s.st.path.pc + 4 }, stall := none } })
    ∧ (¬ mdAllowed u.md s.blk.hdr.regs → exec (.swrite w) s = .next (s.takeTrap 1 0 0))
    ∧ (mdAllowed u.md s.blk.hdr.regs → 16 ≤ w.n.toNat → w.n.toNat ≤ 21 → s.blk.ctx.user = true →
      exec (.swrite w) s = .next (s.takeTrap 2 0 0))

end Sys2Proof.Say

/-- R205 to R208: CHMAP binds the channel to the queue that the register names, or unbinds it; CHSTAT writes whether the channel is
bound, to which queue and how many entries stand there. Each changes nothing else, and takes CHAN past the declared channels. -/
def Obligations.ChannelsBindAndReport : Prop :=
  ∀ (w : FChan) (s : State), w.i.toNat < s.blk.hdr.regs → s.st.windows = [] → s.upsets = [] → s.active ≠ 0 →
    let lane : Lane := if w.u then 0 else s.active.lowest.getD 0
    let x := (s.st.regs.get w.i.toFin).lane lane
    (w.c.toNat < s.blk.hdr.chans →
      exec (.chmap w) s = .next { s with st := { s.st with
        chans := s.st.chans.set w.c.toNat (if x.getLsbD 31 then none else some (x.toNat % 16))
        paths := s.st.paths.set s.st.sel { s.st.path with pc := s.st.path.pc + 4 }, stall := none } }
      ∧ ∃ t, exec (.chstat w) s = .next t ∧ Advanced s t
        ∧ t = { s with st := { s.st with regs := t.st.regs, paths := t.st.paths, stall := none } }
        ∧ ∀ r l, (t.st.regs.get (r : RegNo).toFin).lane l =
            if r = w.i ∧ (w.u = true ∨ s.active.has l = true) then
              match s.st.chans.get w.c.toFin with
              | none => 0
              | some q => BitVec.ofNat 32 (2 ^ 31 + q * 65536 + min (s.queue q).length 8 * 256)
            else (s.st.regs.get r.toFin).lane l)
    ∧ (s.blk.hdr.chans ≤ w.c.toNat →
      exec (.chmap w) s = .next (s.takeTrap 9 0 0) ∧ exec (.chstat w) s = .next (s.takeTrap 9 0 0))

/-! ### Traps, halts and the debugger -/

namespace Sys2Proof.Say

/-- The entries of the pending-launch queue, and the reservations of channel entries, that are left when the issuing path gives up what
it has reserved at its PC and DEPTH (R194, R304). -/
def plqLeft (s : State) : List PlqEntry :=
  s.blk.plq.filter fun e => e.rec_.isSome || e.sid != s.st.sid || e.at_ != (s.st.path.pc, s.st.path.depth)
@[inherit_doc plqLeft] def reservesLeft (s : State) : List ((Addr × Nat) × Nat) :=
  s.st.reserves.filter fun r => r.1 != (s.st.path.pc, s.st.path.depth)

/-- What taking a trap leaves when the save area lies at physical address pa (R64, R158): the 256 bytes of the save area, trap
level 1, the trapping entry at THAND one DEPTH deeper, the other entries held; MD, SR, registers and channels unchanged. -/
structure Trapped (s t : State) (cause code pa : Nat) : Prop where
  frame : t = { Rest s t with
    st := { (Rest s t).st with tlevel := true, windows := [], reserves := reservesLeft s, trap := t.st.trap }
    blk := { s.blk with plq := plqLeft s } }
  entry : t.st.paths = s.st.paths.set s.st.sel
    { s.st.path with pc := s.st.thand, depth := s.st.path.depth + 1, reason := .branch, wait := .none }
  stall : t.st.stall = none
  held  : ∀ i, t.st.isHeld i = true ↔ i ≠ s.st.sel ∧ (s.st.paths.get i).reason ≠ .free
  saved : t.mem.nat pa 8 = s.st.path.pc.toNat ∧ t.mem.nat (pa + 8) 8 = s.st.path.mask.toNat ∧ t.mem.nat (pa + 16) 4 = cause
    ∧ t.mem.nat (pa + 20) 4 = code ∧ t.mem.nat (pa + 24) 8 = 0 ∧ t.mem.nat (pa + 32) 1 = s.st.sel.val
    ∧ ∀ i, 33 ≤ i → i < 64 → t.mem.read (pa + i) = 0
  table : ∀ i : Fin 8, let e := s.st.paths.get i
    let a := pa + 64 + 24 * i.val
    t.mem.nat a 8 = e.pc.toNat ∧ t.mem.nat (a + 8) 8 = e.mask.toNat ∧ t.mem.nat (a + 16) 2 = e.depth % 65536
      ∧ t.mem.nat (a + 18) 1 = (match e.reason with | .free => 0 | .branch => 1 | .colourPark => 2 | .wait => 3)
      ∧ t.mem.nat (a + 19) 1 = e.grant % 256 ∧ t.mem.nat (a + 20) 2 = e.age % 65536 ∧ t.mem.nat (a + 22) 2 = 0
  other : SameMem s t fun a => pa ≤ a ∧ a < pa + 256

/-- R37, R39, R40, R64, R154 to R156, R158: at trap level 0 with a handler, TRAP takes SWTRAP with its code, BKPT without a
debugger takes BKPT with its tag, an illegal or unlisted word and TRET take ILLEGAL, and HALT in a user context takes PRIV:
the save area is written, the handler's entry is made, and nothing else changes, but that the path gives up a channel entry
or a queue entry it has reserved. The DEPTH above 65,535 is the model's choice (log entry 52). -/
def TrapsSaveAndEnterTheHandler : Prop :=
  ∀ (s : State) (pa : Nat), Quiet s → s.mem.wf = true → s.st.tlevel = false → s.st.thand ≠ 0 → Mapped s .write s.st.tsave.toNat pa →
    (∀ w, ∃ t, exec (.trap w) s = .next t ∧ Trapped s t 16 w.val.toNat pa)
    ∧ (∀ w, s.st.ctxflags.getLsbD 1 = false → ∃ t, exec (.bkpt w) s = .next t ∧ Trapped s t 17 w.val.toNat pa)
    ∧ (∀ z, ∃ t, exec (.ill z) s = .next t ∧ Trapped s t 1 0 pa)
    ∧ (∀ w, ∃ t, exec (.illegalWord w) s = .next t ∧ Trapped s t 1 0 pa)
    ∧ (∀ u r, ∃ t, exec (.tret u r) s = .next t ∧ Trapped s t 1 0 pa)
    ∧ (∀ u f, s.blk.ctx.user = true → ∃ t, exec (.halt u f) s = .next t ∧ Trapped s t 2 0 pa)

/-- Where the next stop record of the street's die goes, when its queue has room (R346). -/
def stopSlot (s : State) : Nat :=
  let r := (s.die s.st.die).stops
  r.base + 64 * (r.tail % 2 ^ r.log2)

/-- No monitor is armed anywhere, so that no write wakes a path (R186). -/
def NoMonitors (s : State) : Prop := (∀ c ∈ s.cores, c.monitors = []) ∧ ∀ d ∈ s.dies, d.unitMons = []

/-- The die's stop queue has room and no record waits (R346); no barrier stands in memory and no monitor is armed. -/
def StopRoom (s : State) : Prop :=
  (s.die s.st.die).stops.full = false ∧ (s.die s.st.die).stops.waiting = [] ∧ s.bars = [] ∧ NoMonitors s

/-- A stop record has been posted to the street's die, and no other byte of memory has changed (R346, R370). -/
structure StopRecorded (s t : State) (cause level code : Nat) (pc mask : Addr) : Prop where
  tail  : (t.die s.st.die).stops = { (s.die s.st.die).stops with tail := ((s.die s.st.die).stops.tail + 1) % 2 ^ 64 }
  who   : t.mem.nat (stopSlot s) 4 = s.blk.ctx.pid % 2 ^ 32 ∧ t.mem.nat (stopSlot s + 4) 4 = s.blk.tid % 2 ^ 32
    ∧ t.mem.nat (stopSlot s + 8) 4 = s.st.sid.toNat
  what  : t.mem.nat (stopSlot s + 12) 1 = cause ∧ t.mem.nat (stopSlot s + 13) 1 = level
    ∧ t.mem.nat (stopSlot s + 32) 4 = code ∧ t.mem.nat (stopSlot s + 40) 8 = 0
  place : t.mem.nat (stopSlot s + 16) 8 = pc.toNat ∧ t.mem.nat (stopSlot s + 24) 8 = mask.toNat
    ∧ t.mem.nat (stopSlot s + 48) 8 = s.dieClock s.st.die % 2 ^ 64
  other : ∀ a, a < stopSlot s ∨ stopSlot s + 64 ≤ a → t.mem.read a = s.mem.read a

/-- R154, R155, R370: with a debugger attached BKPT stops the street with a record that names the BKPT, and the street goes on
after it. HALT, not in a user context, stops the street at its next instruction with a record; at trap level 1 without `.f` it
is deferred to the TRET. The street has one path here. -/
def BreakpointsAndHaltsStopTheStreet : Prop :=
  ∀ (s : State), StopRoom s → s.mem.wf = true → (∀ k, k ≠ s.st.sel → (s.st.paths.get k).reason = .free) → s.st.path.reason = .branch →
    (∀ k, s.st.isHeld k = false) → s.st.passOver = none →
    let next := { s.st.path with pc := s.st.path.pc + 4 }
    (∀ w, s.st.ctxflags.getLsbD 1 = true → ∃ t, exec (.bkpt w) s = .next t
      ∧ StopRecorded s t 17 (b2n s.st.tlevel) w.val.toNat s.st.path.pc s.st.path.mask
      ∧ t = { s with
          st := { s.st with life := .debugStop, stall := none, paths := s.st.paths.set s.st.sel next }
          blk := { s.blk with plq := plqLeft s }
          mem := t.mem, lineVer := t.lineVer, dies := t.dies })
    ∧ (∀ u f, s.blk.ctx.user = false → (s.st.tlevel = false ∨ f = true) → ∃ t, exec (.halt u f) s = .next t
      ∧ StopRecorded s t 19 (b2n s.st.tlevel) 0 (s.st.path.pc + 4) s.st.path.mask
      ∧ t = { s with
          st := { s.st with life := .halted, stall := none, windows := s.st.windows.filter (·.pan.isSome)
                            haltReq := s.st.haltReq && s.st.tlevel, haltForce := false
                            paths := s.st.paths.set s.st.sel next }
          mem := t.mem, lineVer := t.lineVer, dies := t.dies })
    ∧ ∀ u, s.blk.ctx.user = false → s.st.tlevel = true →
        exec (.halt u false) s = .next { s with st := { s.st with
          haltReq := true, stall := none, paths := s.st.paths.set s.st.sel next } }

/-- R160, R363: a trap at trap level 1, or with no handler, halts the street by containment: every entry freed, every colour the
street holds released poisoned, and a stop record of the trap's cause posted, which is stated where the street holds no
colour, so that no other word is written. Another street of the block goes on here. That the stop record has the trap's cause
is deduced (log entry 38). -/
def DoubleTrapsContainTheStreet : Prop :=
  ∀ (w : FVal) (s : State), Quiet s → StopRoom s → s.mem.wf = true → (s.st.tlevel = true ∨ s.st.thand = 0) → s.st.life = .running →
    (∀ x ∈ s.streets, x.there = true → x.sid ≠ s.st.sid) →
    (∃ x ∈ s.streets, x.there = true ∧ x.block = s.st.block ∧ x.over = false) →
    ∃ t, exec (.trap w) s = .next t
      ∧ (t.die s.st.die).stops.tail = ((s.die s.st.die).stops.tail + 1) % 2 ^ 64
      ∧ (s.st.holds = [] → s.colours = [] → StopRecorded s t 16 (b2n s.st.tlevel) w.val.toNat s.st.path.pc s.st.path.mask)
      ∧ t.st.life = .contained ∧ (∀ i, (t.st.paths.get i).reason = .free) ∧ t.st.holds = []
      ∧ (∀ h ∈ s.st.holds, (t.colour s.blk.ctx.ctxid h.colour).poison = true
          ∧ (t.colour s.blk.ctx.ctxid h.colour).owner = none)
      ∧ t.st.regs = s.st.regs ∧ t.st.md = s.st.md ∧ t.st.sr = s.st.sr

end Sys2Proof.Say

/-- R159: TRET at trap level 1 frees every handler entry and resumes entry PIDX with the PC and MASK that stand in the save area, at
PC under `.retry` and at PC + 4 without, at its saved DEPTH with AGE and GRANT 0; the held entries are selectable again, and
MD, SR and the registers stay as the handler left them. No lane holds a colour or waits here, no post of the street holds an entry
without a record, and no halt is pending. That PC and
MASK are those at offsets 0 and 8 of the area is the model's choice (log entry 71). -/
def Obligations.TrapReturnRestoresThePath : Prop :=
  ∀ (u retry : Bool) (s : State) (f : TrapFrame) (pa : Nat), Quiet s → s.st.tlevel = true → s.st.trap = some f → f.pidx < 8 →
    Mapped s .read s.st.tsave.toNat pa → (∀ i, i < 16 → ¬ CounterByte s.blk.ctx (pa + i)) →
    s.st.holds = [] → s.colours = [] → s.st.clrw = [] → s.mem.nat (pa + 8) 8 ≠ 0 → s.st.haltReq = false →
    (∀ x ∈ s.st :: s.streets, ∀ i, (x.paths.get i).reason ≠ .wait) → (∀ e ∈ s.blk.plq, e.sid = s.st.sid → e.rec_.isSome = true) →
    let pc : Addr := BitVec.ofNat 64 (s.mem.nat pa 8)
    let mask : Mask := BitVec.ofNat 64 (s.mem.nat (pa + 8) 8)
    mask &&& ~~~f.mask = 0 →
    ∃ t, exec (.tret u retry) s = .next t ∧ SameMem s t nowhere
      ∧ t = { Rest s t with st := { (Rest s t).st with tlevel := false, trap := none } } ∧ t.st.stall = none
      ∧ ∀ i : Fin 8,
          if i.val = f.pidx then
            t.st.paths.get i = { pc := if retry then pc else pc + 4, mask := mask, depth := f.depth, reason := .branch
                                 age := 0, grant := 0, wait := .none }
          else if s.st.isHeld i then t.st.paths.get i = s.st.paths.get i
          else (t.st.paths.get i).reason = .free

namespace Sys2Proof.Say

/-- R18, R154, R373, R374: TRMARK puts a MARK packet of the street's slot and its value into the core's trace ring when tracing
and marks are on and nothing was lost before, and else only moves on. The path goes on at the next instruction. -/
def TraceMarksAreWritten : Prop :=
  ∀ (w : FVal) (s : State),
    let tr := (s.core s.st.core).tr
    tr.buf.wf = true →
    let next := { s.st with paths := s.st.paths.set s.st.sel { s.st.path with pc := s.st.path.pc + 4 }, stall := none }
    ((tr.en = false ∨ tr.marks = false) → exec (.trmark w) s = .next { s with st := next })
    ∧ (tr.en = true → tr.marks = true → tr.lost = 0 → tr.time = s.dieClock (coreDie s.st.core) →
      tr.since < 255 → tr.wrptr < 16384 → tr.rdptr < 16384 →
        4 ≤ (tr.rdptr + 32767 - tr.wrptr) % 16384 → s.st.slot < 16 →
        ∃ t, exec (.trmark w) s = .next t ∧ t = { s with st := next, cores := t.cores }
          ∧ (t.core s.st.core).tr.wrptr = (tr.wrptr + 4) % 16384
          ∧ (t.core s.st.core).tr.buf.read tr.wrptr = BitVec.ofNat 8 (0x60 + s.st.slot)
          ∧ (∀ i, i < 3 → (t.core s.st.core).tr.buf.read ((tr.wrptr + 1 + i) % 16384)
              = BitVec.ofNat 8 (w.val.toNat / 256 ^ i))
          ∧ ∀ a, (∀ i, i < 4 → a ≠ (tr.wrptr + i) % 16384) → (t.core s.st.core).tr.buf.read a = tr.buf.read a)

end Sys2Proof.Say

/-! ### Coloured data -/

namespace Sys2Proof.Say

/-- Entry i of a region table whose entries stand at physical addresses pa: BASE, BYTES and COLOUR (R210). -/
structure TableEntry where
  base   : Nat
  len    : Nat
  colour : Nat
deriving DecidableEq, Repr

@[inherit_doc TableEntry] def tableEntry (m : Memory) (pa : Nat → Nat) (i : Nat) : TableEntry :=
  let w0 := m.nat (pa i) 8
  let w1 := m.nat (pa i + 8) 8
  { base := w0 / 128 % 2 ^ 50 * 128, len := w1 / 128 % 2 ^ 41 * 128, colour := w1 / 2 ^ 48 % 4096 }

/-- R211 on the entries of a table: reserved bits zero, COLOUR and BYTES not zero, the end within 2^57, BASE strictly ascending and
no overlap. -/
def TableValid (m : Memory) (pa : Nat → Nat) (n : Nat) : Prop :=
  (∀ i, i < n → m.nat (pa i) 8 % 128 = 0 ∧ m.nat (pa i) 8 / 2 ^ 57 = 0 ∧ m.nat (pa i + 8) 8 % 128 = 0
    ∧ m.nat (pa i + 8) 8 / 2 ^ 60 = 0 ∧ (tableEntry m pa i).colour ≠ 0 ∧ (tableEntry m pa i).len ≠ 0
    ∧ (tableEntry m pa i).base + (tableEntry m pa i).len ≤ 2 ^ 57)
  ∧ ∀ i, i + 1 < n → (tableEntry m pa i).base + (tableEntry m pa i).len ≤ (tableEntry m pa (i + 1)).base

/-- The entries of a context's table lie at pa, in memory of this device, as the street's core translates them. -/
def TableAt (s : State) (ctx : CtxDesc) (pa : Nat → Nat) : Prop :=
  ∀ i, i < ctx.crtcount → ∃ pte ea base size, translate s s.st.core ctx (ctx.crtbase + 16 * i) .read = .ok (pa i) pte ea base size
    ∧ pteRH pte = false

end Sys2Proof.Say

/-- R211, R212: with a valid table and nothing in the lookaside, the lookup finds the region that covers an address, and no region
where none covers it. -/
def Obligations.LookupFindsTheCoveringRegion : Prop :=
  ∀ (s : State) (pa : Nat → Nat) (va : Nat), (s.core s.st.core).lookaside = [] → s.blk.ctx.crtcount ≤ 65536 →
    TableAt s s.blk.ctx pa → TableValid s.mem pa s.blk.ctx.crtcount →
    let e (i : Nat) : TableEntry := tableEntry s.mem pa i
    (∀ i, i < s.blk.ctx.crtcount → (e i).base ≤ va % 2 ^ 57 → va % 2 ^ 57 < (e i).base + (e i).len →
      lookColour s s.st.core s.blk.ctx va
        = .colour (some { ctx := s.blk.ctx.ctxid, base := (e i).base, len := (e i).len, colour := (e i).colour }))
    ∧ ((∀ i, i < s.blk.ctx.crtcount → ¬ ((e i).base ≤ va % 2 ^ 57 ∧ va % 2 ^ 57 < (e i).base + (e i).len)) →
      lookColour s s.st.core s.blk.ctx va = .colour none)

/-- R214, R215, R217, R226: a lane acquires a free colour at its path's DEPTH; a colour with another owner is joined at the tail
of its FIFO, once; at a release the head of the FIFO becomes owner at the DEPTH it joined with, and with an empty FIFO the
colour is free. -/
def Obligations.ColoursAreHandedInOrder : Prop :=
  ∀ (s : State) (ctx lane c depth : Nat), c ≠ 0 → s.st.holdsColour lane c = false →
    let k := s.colour ctx c
    (k.owner = none →
      let t := (acquireLanes ctx depth [(lane, c)] s).2.2
      (acquireLanes ctx depth [(lane, c)] s).1 = [lane] ∧ (t.colour ctx c).owner = some (s.st.sid, lane, depth)
      ∧ t.st.holds = s.st.holds ++ [{ colour := c, lane := lane, depth := depth }]
      ∧ ∀ d, d ≠ c → t.colour ctx d = s.colour ctx d)
    ∧ (∀ o, k.owner = some o →
      let t := (acquireLanes ctx depth [(lane, c)] s).2.2
      (acquireLanes ctx depth [(lane, c)] s).2.1 = [lane] ∧ t.st.holds = s.st.holds ∧ (t.colour ctx c).owner = some o
      ∧ (if ∃ w ∈ k.fifo, w.sid = s.st.sid ∧ w.lane = lane then (t.colour ctx c).fifo = k.fifo
        else ∃ n, (t.colour ctx c).fifo = k.fifo ++ [{ idx := n, sid := s.st.sid, lane := lane, depth := depth, kind := false }]))
    ∧ ∀ (sid : StreetId) (o : Nat), ((s.street? sid).bind (·.pair)) = none →
        let t := s.releaseOne sid ctx o c false
        (k.fifo = [] → (t.colour ctx c).owner = none)
        ∧ ∀ w rest, k.fifo = w :: rest →
          (t.colour ctx c).owner = some (w.sid, w.lane, w.depth) ∧ (t.colour ctx c).fifo = rest

namespace Sys2Proof.Say

/-- The colours that the lanes of a colour instruction found, and the state after the lookups (R212). -/
def Looked? (s : State) (u : Bool) (a : RegNo) (cs : List (Nat × Nat × Nat)) (v : State) : Prop :=
  State.lookLanes (s.addrLanes u s.active a) s = .ok (cs, v)

/-- The colour that a lane's address has. -/
def colourOf (cs : List (Nat × Nat × Nat)) (lane : Nat) : Nat := ((cs.find? fun x => x.1 == lane).map (·.2.2)).getD 0

/-- The record by which a lane holds a colour. -/
def holdOf (s : State) (lane c : Nat) : Option Hold := s.st.holds.find? fun h => h.colour == c && h.lane == lane

/-- The words that CLRQ gives of colour c: kind 0 HELD, 1 OWNER, 2 DEPTH (R224). -/
def queryWord (s : State) (kind lane c i : Nat) : Word :=
  let k := s.colour s.blk.ctx.ctxid c
  if kind = 0 then (if c ≠ 0 ∧ (holdOf s lane c).isSome then 0xFFFFFFFF else 0)
  else if kind = 2 then
    (if c = 0 then 0xFFFFFFFF else match holdOf s lane c with | some h => BitVec.ofNat 32 h.depth | none => 0xFFFFFFFF)
  else if c = 0 then 0
  else
    match k.owner with
    | some (sid, ln, _) =>
      if i = 0 then sid else BitVec.ofNat 32 (2 ^ 31 + (if k.poison then 2 ^ 30 else 0) + ln * 65536 + c)
    | none => if i = 0 then 0 else BitVec.ofNat 32 ((if k.poison then 2 ^ 30 else 0) + c)

/-- CLRQ.HELD, OWNER and DEPTH with their kinds. -/
def queries : List ((FClrq → Instr) × Nat) := [(.clrqHeld, 0), (.clrqOwner, 1), (.clrqDepth, 2)]

/-- A colour instruction may proceed: a street that is not paired, an even address pair below the declared count, a lane active, no
broken register and no monitor that a write to a colour's records could fire. -/
structure ColourReady (s : State) (a : RegNo) : Prop where
  single : s.st.pair = none
  pair   : a.toNat % 2 = 0 ∧ a.toNat + 2 ≤ s.blk.hdr.regs
  active : s.active ≠ 0
  sound  : s.upsets = []
  noMons : NoMonitors s

/-- R224: CLRQ writes what it asks of the colour of each lane's address, for lane 0 in all 64 lanes under U = 1, and changes nothing
but the destination and the core's lookaside. -/
def ColourQueriesReport : Prop :=
  ∀ (w : FClrq) (s v : State) (cs : List (Nat × Nat × Nat)), ∀ p ∈ queries, ColourReady s w.a →
    w.d.toNat + (if p.2 = 1 then 2 else 1) ≤ s.blk.hdr.regs → (p.2 = 1 → w.d.toNat % 2 = 0) → Looked? s w.u w.a cs v →
    ∃ t, exec (p.1 w) s = .next t ∧ Advanced s t
      ∧ t = { s with
          st := { s.st with regs := t.st.regs, windows := t.st.windows, paths := t.st.paths, reserves := reservesLeft s, stall := none }
          cores := t.cores }
      ∧ ∀ (r : RegNo) (l : Lane), (t.st.regs.get r.toFin).lane l =
          if w.d.toNat ≤ r.toNat ∧ r.toNat < w.d.toNat + (if p.2 = 1 then 2 else 1) ∧ (w.u = true ∨ s.active.has l = true) then
            let k := if w.u then 0 else l.val
            queryWord s p.2 k (colourOf cs k) (r.toNat - w.d.toNat)
          else (s.st.regs.get r.toFin).lane l

/-- R225: CLRWAIT of a lane that is alone on its path and holds the colour releases it, sleeps on it and waits; a lane handed the
colour again gets 0 and goes on; a lane that does not hold it gets 1 and goes on. -/
def ColourWaitsSleepAndWake : Prop :=
  ∀ (w : FClrw) (s v : State) (l : Lane) (va c : Nat), ColourReady s w.a → w.d.toNat < s.blk.hdr.regs → w.u = false →
    s.st.path.reason = .branch → s.active = 1 <<< l.val → s.st.path.mask = 1 <<< l.val →
    Looked? s w.u w.a [(l.val, va, c)] v → s.mreds = [] → s.remote = [] →
    s.st.ops = [] → (∀ k ∈ s.colours, ∀ x ∈ k.fifo ++ k.sleep, x.kind = false) → (∀ d, (l.val, d) ∈ s.st.clrw → d = false) →
    let result (t : State) (x : Word) : Prop :=
      Advanced s t ∧ ∀ (r : RegNo) (k : Lane), (t.st.regs.get r.toFin).lane k =
        if r = w.d ∧ k = l then x else (s.st.regs.get r.toFin).lane k
    ((l.val, false) ∈ s.st.clrw → ∃ t, exec (.clrwait w) s = .next t ∧ result t 0 ∧ (l.val, false) ∉ t.st.clrw)
    ∧ ((l.val, false) ∉ s.st.clrw → (c = 0 ∨ holdOf s l.val c = none) → ∃ t, exec (.clrwait w) s = .next t ∧ result t 1)
    ∧ ∀ h, (l.val, false) ∉ s.st.clrw → c ≠ 0 → holdOf s l.val c = some h → (s.colour s.blk.ctx.ctxid c).fifo = [] →
        s.st.there = true → (∀ x ∈ s.streets, x.sid ≠ s.st.sid) →
        ∃ t, exec (.clrwait w) s = .next t ∧ t.st.regs = s.st.regs ∧ t.st.stall = none
          ∧ t.st.path = { s.st.path with reason := .wait, wait := .colour va, grant := 0 }
          ∧ t.st.holds = s.st.holds.filter (fun x => !(x.colour == c && x.lane == l.val))
          ∧ (t.colour s.blk.ctx.ctxid c).owner = none
          ∧ ∃ n, (t.colour s.blk.ctx.ctxid c).sleep
              = (s.colour s.blk.ctx.ctxid c).sleep ++ [{ idx := n, sid := s.st.sid, lane := l.val, depth := h.depth, kind := true }]

/-- R226, R227: CLRNOTE moves the earliest sleeper, or all sleepers, of the colour of each address to the tail of its FIFO, whose
head takes a colour without owner; CLRCLEAN, where it is permitted, clears POISON of the colours it finds. What the records that the
spec keeps in memory then hold is not stated here. -/
def ColourNotesAndCleaning : Prop :=
  ∀ (w : FPair) (s v : State) (cs : List (Nat × Nat × Nat)), ColourReady s w.a → Looked? s w.u w.a cs v →
    (exec (.clrnoteOne w) s = .next (cs.foldl (fun u x => u.noteColour x.2.2 false) v).done
      ∧ exec (.clrnoteAll w) s = .next (cs.foldl (fun u x => u.noteColour x.2.2 true) v).done)
    ∧ (∀ (u : State) (c : Nat) (all : Bool), c ≠ 0 →
        let k := u.colour u.blk.ctx.ctxid c
        let moved := if all then k.sleep else k.sleep.take 1
        let t := u.noteColour c all
        (t.colour u.blk.ctx.ctxid c).sleep = (if all then [] else k.sleep.drop 1)
        ∧ (∀ o, k.owner = some o → (t.colour u.blk.ctx.ctxid c).owner = some o ∧ (t.colour u.blk.ctx.ctxid c).fifo = k.fifo ++ moved)
        ∧ (k.owner = none → ∀ x rest, k.fifo ++ moved = x :: rest →
            (t.colour u.blk.ctx.ctxid c).owner = some (x.sid, x.lane, x.depth) ∧ (t.colour u.blk.ctx.ctxid c).fifo = rest)
        ∧ t.st.regs = u.st.regs)
    ∧ ((s.blk.ctx.user = false ∨ s.st.ctxflags.getLsbD 0 = true) →
        ∃ t, exec (.clrclean w) s = .next t ∧ Advanced s t
          ∧ t = { s with
              st := { s.st with paths := t.st.paths, stall := none }, cores := t.cores, colours := t.colours
              qlock := t.qlock, mem := t.mem, lineVer := t.lineVer }
          ∧ ∀ c, t.colour s.blk.ctx.ctxid c = (if c ≠ 0 ∧ (∃ x ∈ cs, x.2.2 = c) then
              { s.colour s.blk.ctx.ctxid c with poison := false } else s.colour s.blk.ctx.ctxid c))
    ∧ (s.blk.ctx.user = true → s.st.ctxflags.getLsbD 0 = false → exec (.clrclean w) s = .next (s.takeTrap 2 0 0))

/-- The context of the block in focus with the region table that its descriptor names now (R223, R353). -/
def tableNow (s : State) : CtxDesc :=
  { s.blk.ctx with
    crtbase := s.mem.nat (s.blk.ctx.desc + 0x38) 8, crtcount := s.mem.nat (s.blk.ctx.desc + 0x40) 4 }

/-- R211, R223, R353: CLRSYNC reads the table's base and count again; a valid table is put into use and every core drops the
context's region entries; one that is not valid takes CLR_TABLE with FADDR 0. -/
def ColourSyncChecksTheTable : Prop :=
  ∀ (u : Bool) (s : State) (pa : Nat → Nat), s.st.pair = none → s.mreds = [] → hbmHas (s.blk.ctx.desc + 0x38) = true →
    TableAt s (tableNow s) pa →
    (TableValid s.mem pa (tableNow s).crtcount → ∃ t, exec (.clrsync u) s = .next t ∧ Advanced s t
      ∧ t.blk = { s.blk with ctx := tableNow s } ∧ t.mem = s.mem ∧ t.st.regs = s.st.regs
      ∧ ∀ c, ∀ e ∈ (t.core c).lookaside, e.ctx ≠ s.blk.ctx.ctxid ∧ e ∈ (s.core c).lookaside)
    ∧ (¬ TableValid s.mem pa (tableNow s).crtcount → exec (.clrsync u) s = .next (s.takeTrap 8 0 0))

end Sys2Proof.Say

/-! ### Global memory -/

namespace Sys2Proof.Say

/-- The lanes an access uses: the active ones, or lane 0 under U = 1 (R56, R63). -/
def usedLanes (s : State) (u : Bool) : List Lane := (if u then (1 : Mask) else s.active).lanes

/-- The lane whose operands lane l uses. -/
def srcLane (u : Bool) (l : Lane) : Lane := if u then 0 else l

/-- The address that lane l reads from an address pair (R190). -/
def laneAddr (s : State) (u : Bool) (a : RegNo) (l : Lane) : Nat :=
  ((s.rdReg 5 (regPlus a 1)).lane (srcLane u l) ++ (s.rdReg 4 a).lane (srcLane u l)).toNat

/-- Accesses of n bytes at these addresses can be performed by a quiet machine: a lane is active, every address is aligned and
lies in HBM on a page without format that allows the access, and meets no counter record (R190, R314 to R321). -/
structure AccessReady (s : State) (u : Bool) (n : Nat) (acc : Acc) (va pa : Lane → Nat) : Prop where
  quiet   : Quiet s
  active  : s.active ≠ 0
  aligned : ∀ l ∈ usedLanes s u, va l % n = 0
  mapped  : ∀ l ∈ usedLanes s u, Mapped s acc (va l) (pa l)
  free    : ∀ l ∈ usedLanes s u, ∀ i, i < n → ¬ CounterByte s.blk.ctx (pa l + i)

/-- An even pair, and registers for so many words. -/
def PairOk (s : State) (a : RegNo) : Prop := a.toNat % 2 = 0 ∧ a.toNat + 2 ≤ s.blk.hdr.regs
@[inherit_doc PairOk] def RegsFor (s : State) (r : RegNo) (words : Nat) : Prop :=
  r.toNat % words = 0 ∧ r.toNat + words ≤ s.blk.hdr.regs

/-- The queue that a load into a channel pushes to: the one of the entry that the path has reserved, which a CHMAP since then does not
move, else the one the channel is bound to (R194, R207). -/
def pushQueue (s : State) (d : Dst) : Option Nat :=
  match s.st.reserves.find? fun r => r.1 == (s.st.path.pc, s.st.path.depth) with
  | some r => some r.2
  | none => s.queueOf d.idx

/-- A destination of so many words that has room: registers, or a bound channel and a queue that takes another entry beside those that
others have reserved (R13, R24, R194, R205). -/
def DstRoom (s : State) (d : Dst) (words : Nat) : Prop :=
  if d.chan then words = 1 ∧ (s.queueOf d.idx).isSome = true
    ∧ ∃ q, pushQueue s d = some q ∧ q < 16 ∧ (s.queue q).length + s.reserved q < 8
  else RegsFor s d.idx words

/-- What a load leaves: the words of each lane in the destination, written as R7, R13 and R63 say; flags, other registers and every
byte of memory beside counter records as before. -/
structure Loaded (s t : State) (u : Bool) (d : Dst) (words : Nat) (val : Lane → Nat → Word) : Prop where
  frame  : t = { Rest s t with st := { (Rest s t).st with regs := t.st.regs }, blk := { s.blk with queues := t.blk.queues } }
  entry  : Advanced s t
  memory : SameMem s t nowhere
  regs   : ∀ (r : RegNo) (l : Lane), (t.st.regs.get r.toFin).lane l =
    if d.chan = false ∧ d.idx.toNat ≤ r.toNat ∧ r.toNat < d.idx.toNat + words ∧ (u = true ∨ s.active.has l = true) then
      val (srcLane u l) (r.toNat - d.idx.toNat)
    else (s.st.regs.get r.toFin).lane l
  queues : ∀ q, q < 16 → t.queue q = s.queue q ++
    (if d.chan = true ∧ pushQueue s d = some q then
      [SVec.gen fun l => if u = true ∨ s.active.has l = true then val (srcLane u l) 0 else 0] else [])

/-- Bytes and registers of the sizes that LD and ST take on a page without format (R191). -/
def sizes : List (MSize × Nat × Nat) := [(.b8, 1, 1), (.b16, 2, 1), (.b32, 4, 1), (.b64, 8, 2), (.b128, 16, 4), (.raw, 4, 1)]

end Sys2Proof.Say

/-- R190 to R194, R196: LD of every size on a page without format loads the bytes at each lane's address, zero-extended, the low word
first, whatever its order, strength and cache hint, and changes nothing else. -/
def Obligations.LoadsReadMemory : Prop :=
  ∀ (w : FM) (s : State) (pa : Lane → Nat), ∀ z ∈ sizes, w.size = z.1 → PairOk s w.addr → DstRoom s w.data z.2.2 →
    AccessReady s w.u z.2.1 .read (laneAddr s w.u w.addr) pa → L1Fresh s →
    ∃ t, exec (.ld w) s = .next t
      ∧ Loaded s t w.u w.data z.2.2 fun l i => BitVec.ofNat 32 (s.mem.nat (pa l + 4 * i) (min 4 z.2.1))

namespace Sys2Proof.Say

/-- Byte i of the words that lane l holds in registers from r on. -/
def dataByte (s : State) (u : Bool) (r : RegNo) (l : Lane) (i : Nat) : Byte :=
  ((s.rdReg (i / 4) (regPlus r (i / 4))).lane (srcLane u l)).extractLsb' (8 * (i % 4)) 8

/-- A byte that some used lane stores when each stores n bytes at pa. -/
def StoreByte (s : State) (u : Bool) (pa : Lane → Nat) (n a : Nat) : Prop := ∃ l ∈ usedLanes s u, pa l ≤ a ∧ a < pa l + n

end Sys2Proof.Say

/-- R66, R190 to R192, R196: ST of every size on a page without format stores the low bytes of each lane's words at its address; where
lanes meet, the highest stands; every other byte beside counter records, and every register and flag, is as before. -/
def Obligations.StoresWriteMemory : Prop :=
  ∀ (w : FM) (s : State) (pa : Lane → Nat), ∀ z ∈ sizes, w.size = z.1 → PairOk s w.addr → RegsFor s w.data.idx z.2.2 →
    AccessReady s w.u z.2.1 .write (laneAddr s w.u w.addr) pa → s.mem.wf = true →
    ∃ t, exec (.st w) s = .next t ∧ t = Rest s t ∧ Advanced s t ∧ SameMem s t (StoreByte s w.u pa z.2.1)
      ∧ ∀ l ∈ usedLanes s w.u, ∀ i, i < z.2.1 →
          (∀ k ∈ usedLanes s w.u, l < k → ¬ (pa k ≤ pa l + i ∧ pa l + i < pa k + z.2.1)) →
          t.mem.read (pa l + i) = dataByte s w.u w.data.idx l i

namespace Sys2Proof.Say

/-- l is the lowest lane used whose address is no multiple of n (R157, R190). -/
def Offending (s : State) (u : Bool) (a : RegNo) (n : Nat) (l : Lane) : Prop :=
  l ∈ usedLanes s u ∧ laneAddr s u a l % n ≠ 0 ∧ ∀ k ∈ usedLanes s u, k < l → laneAddr s u a k % n = 0

/-- The lowest active lane's page has no format, so that the access is no run; where that page is absent or refuses the access,
that lane's address alone is looked at (R85). -/
def NoRun (s : State) (a : RegNo) (acc : Acc) (l : Lane) : Prop :=
  ∀ k, s.active.lowest = some k →
    let page := translate s s.st.core s.blk.ctx (laneAddr s false a k) acc
    (∃ pa pte ea b z, page = .ok pa pte ea b z ∧ pteFMT pte = 0)
    ∨ (k = l ∧ ∀ pa pte ea b z, page = .ok pa pte ea b z → pteFMT pte = 0)

/-- The size of LD and ST with the elements per lane of a run on a formatted page (R85). -/
def runSizes : List (MSize × Nat) := [(.b32, 1), (.b64, 2), (.b128, 4)]

/-- The container width in bits of each page format (R77, R85). -/
def containerBits : List (Nat × Nat) :=
  [(1, 2), (2, 4), (3, 4), (4, 8), (5, 8), (6, 8), (7, 8), (8, 16), (9, 16), (10, 32)]

/-- A run of k elements per lane on a page of a format with containers of c bits starts at va, the lowest active lane's address. -/
def RunAt (s : State) (a : RegNo) (acc : Acc) (fmt va : Nat) : Prop :=
  ∃ k, s.active.lowest = some k ∧ va = laneAddr s false a k
    ∧ ∃ pa pte ea b z, translate s s.st.core s.blk.ctx va acc = .ok pa pte ea b z ∧ pteFMT pte = fmt

end Sys2Proof.Say

/-- R85, R157, R190: an access at an address that is no multiple of its size takes ALIGN with the lowest such lane's address: LD, ST,
ATOM and MRED of every width in global memory, LDS and STS in scratchpad space; a run on a formatted page takes it with its
start where that is no multiple of the run's length. -/
def Obligations.MisalignedAccessesTrap : Prop :=
  (∀ (s : State) (l : Lane) (w : FM), ∀ z ∈ sizes, Quiet s → w.size = z.1 → PairOk s w.addr → w.data.chan = false →
    RegsFor s w.data.idx z.2.2 → s.active ≠ 0 → Offending s w.u w.addr z.2.1 l →
    ((w.size ∈ runSizes.map (·.1) → w.u = false → NoRun s w.addr .read l) →
      exec (.ld w) s = .next (s.takeTrap 3 0 (laneAddr s w.u w.addr l)))
    ∧ ((w.size ∈ runSizes.map (·.1) → w.u = false → NoRun s w.addr .write l) →
      exec (.st w) s = .next (s.takeTrap 3 0 (laneAddr s w.u w.addr l))))
  ∧ (∀ (s : State) (l : Lane) (w : FMA), ∀ i ∈ [Instr.atom w, .matom w], Quiet s → PairOk s w.addr →
    RegsFor s w.data ((if w.aop = .cas then 2 else 1) * (if w.w then 2 else 1)) → s.active ≠ 0 →
    Offending s w.u w.addr (if w.w then 8 else 4) l → exec i s = .next (s.takeTrap 3 0 (laneAddr s w.u w.addr l)))
  ∧ (∀ (s : State) (l : Lane) (w : FMRed), Quiet s → PairOk s w.addr → RegsFor s w.data (if w.w then 2 else 1) → s.active ≠ 0 →
    Offending s w.u w.addr (if w.w then 8 else 4) l → exec (.mred w) s = .next (s.takeTrap 3 0 (laneAddr s w.u w.addr l)))
  ∧ (∀ (s : State) (l : Lane) (w : FMS), ∀ z ∈ sizes, s.st.pair = none → s.mreds = [] → s.remote = [] → w.size = z.1 →
    PairOk s w.addr → w.data.chan = false → RegsFor s w.data.idx z.2.2 → s.active ≠ 0 → Offending s w.u w.addr z.2.1 l →
    exec (.lds w) s = .next (s.takeTrap 3 0 (laneAddr s w.u w.addr l))
    ∧ exec (.sts w) s = .next (s.takeTrap 3 0 (laneAddr s w.u w.addr l)))
  ∧ ∀ (s : State) (w : FM) (va : Nat), ∀ z ∈ runSizes, ∀ f ∈ containerBits, Quiet s → w.u = false → PairOk s w.addr →
    w.data.chan = false → RegsFor s w.data.idx z.2 → s.active ≠ 0 → va % (64 * z.2 * f.2 / 8) ≠ 0 →
    (w.size = z.1 → RunAt s w.addr .read f.1 va → exec (.ld w) s = .next (s.takeTrap 3 0 va))
    ∧ (w.size = z.1 ∨ (w.size = .keepexp ∧ z.2 = 1) → RunAt s w.addr .write f.1 va → exec (.st w) s = .next (s.takeTrap 3 0 va))

namespace Sys2Proof.Say

/-- Keep a number modulo 2^b, and read it as signed. -/
def keepBits (b : Nat) (x : Int) : Nat := (x % 2 ^ b).toNat
@[inherit_doc keepBits] def asSigned (b x : Nat) : Int := if x < 2 ^ (b - 1) then (x : Int) else (x : Int) - 2 ^ b

/-- The new value of an atomic or reduction on m with operand x, of b bits; under CAS x is compared and y is written (R199). -/
def newValue (aop : Aop) (b m x y : Nat) : Nat :=
  match aop with
  | .add => (m + x) % 2 ^ b
  | .smin => if asSigned b m ≤ asSigned b x then m else x
  | .smax => if asSigned b m ≤ asSigned b x then x else m
  | .nmin => min m x
  | .nmax => max m x
  | .and => m &&& x
  | .or => m ||| x
  | .xor => m ^^^ x
  | .xchg => x
  | .cas => if m = x then y else m
  | .fadd => (f32.add 0 false false m x).1
  | _ => m

/-- The operations of ATOM and MATOM on 32 and 64 bits (R36, R199): FADD on 32 bits only; MRED and SCAT have no XCHG and no CAS. -/
def aops : List Aop := [.add, .smin, .smax, .nmin, .nmax, .and, .or, .xor, .xchg, .cas, .fadd]
@[inherit_doc aops] def redOps : List Aop := [.add, .smin, .smax, .nmin, .nmax, .and, .or, .xor, .fadd]

/-- Operand k (0 for x, 1 for y) of a lane, in one or two registers each. -/
def operandAt (s : State) (u : Bool) (r : RegNo) (wide : Bool) (k : Nat) (l : Lane) : Nat :=
  let word (i : Nat) : Nat := ((s.rdReg i (regPlus r i)).lane (srcLane u l)).toNat
  if wide then word (2 * k) + word (2 * k + 1) * 2 ^ 32 else word k

/-- The atomics of some lanes performed one after another: what each found, and the memory they leave. -/
def atomicsInOrder (n : Nat) (pa : Lane → Nat) (new : Lane → Nat → Nat) : List Lane → Memory → List (Lane × Nat) × Memory
  | [], m => ([], m)
  | l :: ls, m =>
    let old := m.nat (pa l) n
    let r := atomicsInOrder n pa new ls (m.putNat (pa l) n (new l old))
    ((l, old) :: r.1, r.2)

end Sys2Proof.Say

/-- R63, R198, R199, R325: ATOM and MATOM take their lanes in ascending order: each finds the value that the lanes before it left,
returns it and writes the new value; nothing else in memory changes beside counter records. -/
def Obligations.AtomicsReturnTheOldValue : Prop :=
  ∀ (w : FMA) (s : State) (pa : Lane → Nat), ∀ i ∈ [Instr.atom w, .matom w], w.aop ∈ aops → (w.aop = .fadd → w.w = false) →
    let n := if w.w then 8 else 4
    PairOk s w.addr → RegsFor s w.data ((if w.aop = .cas then 2 else 1) * (if w.w then 2 else 1)) →
    AccessReady s w.u n .atomic (laneAddr s w.u w.addr) pa → s.mem.wf = true →
    let r := atomicsInOrder n pa
      (fun l m => newValue w.aop (8 * n) m (operandAt s w.u w.data w.w 0 l) (operandAt s w.u w.data w.w 1 l))
      (usedLanes s w.u) s.mem
    ∃ t, exec i s = .next t ∧ Advanced s t ∧ t = { Rest s t with st := { (Rest s t).st with regs := t.st.regs } }
      ∧ (∀ a, ¬ CounterByte s.blk.ctx a → t.mem.read a = r.2.read a)
      ∧ ∀ (q : RegNo) (l : Lane), (t.st.regs.get q.toFin).lane l =
          if w.data.toNat ≤ q.toNat ∧ q.toNat < w.data.toNat + n / 4 ∧ (w.u = true ∨ s.active.has l = true) then
            let old := ((r.1.find? fun x => x.1 == srcLane w.u l).map (·.2)).getD 0
            BitVec.ofNat 32 (old / 2 ^ (32 * (q.toNat - w.data.toNat)))
          else (s.st.regs.get q.toFin).lane l

namespace Sys2Proof.Say

/-- A reduction that a street has sent: its lane, place, operation and operand (R326). -/
def sentRed (s : State) (aop : Aop) (wide : Bool) (l : Lane) (pa va x : Nat) (id : Nat) : Mred :=
  { id := id, pa := pa, aop := aop, w := wide, x := BitVec.ofNat 64 x, sid := s.st.sid, lane := l.val, ctx := s.blk.ctx, va := va
    ms := false }

end Sys2Proof.Say

/-- R326, R327: MRED sends a reduction for each lane, in lane order, and completes with memory unchanged beside counter records; when
a sent reduction is performed, the value at its address becomes the new value and every other byte stays. -/
def Obligations.ReductionsAreSentAndPerformed : Prop :=
  (∀ (w : FMRed) (s : State) (pa : Lane → Nat), w.aop ∈ redOps → (w.aop = .fadd → w.w = false) → PairOk s w.addr →
    RegsFor s w.data (if w.w then 2 else 1) →
    AccessReady s w.u (if w.w then 8 else 4) .write (laneAddr s w.u w.addr) pa →
    ∃ t, exec (.mred w) s = .next t ∧ Advanced s t ∧ SameMem s t nowhere
      ∧ t = { Rest s t with mreds := t.mreds, nextId := t.nextId }
      ∧ (t.mreds.map fun r => { r with ms := false }) = (usedLanes s w.u).mapIdx fun k l =>
          sentRed s w.aop w.w (if w.u then 0 else l) (pa l) (laneAddr s w.u w.addr l) (operandAt s w.u w.data w.w 0 l) (s.nextId + k))
  ∧ ∀ (s : State) (r : Mred), r ∈ s.mreds → (∀ q ∈ s.mreds, q.id = r.id → q = r) →
      (∀ q ∈ s.mreds, q.sid = r.sid → q.id < r.id → q.pa + (if q.w then 8 else 4) ≤ r.pa ∨ r.pa + (if r.w then 8 else 4) ≤ q.pa) →
      Quiet { s with mreds := [] } → s.mem.wf = true → s.privateTo r.sid r.ctx.ctxid r.va r.pa = false →
      r.aop ∈ redOps → (r.aop = .fadd → r.w = false) → hbmHas r.pa = true →
      let n := if r.w then 8 else 4
      ∃ t, exec (.mredPerform r.id) s = .next t ∧ t.mreds = s.mreds.filter (fun q => q.id != r.id)
        ∧ t.mem.nat r.pa n = newValue r.aop (8 * n) (s.mem.nat r.pa n) (r.x.toNat % 2 ^ (8 * n)) 0
        ∧ (∀ a, a < r.pa ∨ r.pa + n ≤ a → t.mem.read a = s.mem.read a)
        ∧ t.st = s.st ∧ t.streets = s.streets

/-! ### Scratchpad space, indexed accesses, waits, fences and caches -/

namespace Sys2Proof.Say

/-- Nothing holds an access to scratchpad space back: no copy range, no stale parity row, no retired bank, no broken word, no watch
range, no barrier object in service, no block that is saved, no monitor (R174, R177 to R184, R263, R372). -/
structure SpadCalm (s : State) : Prop where
  single  : s.st.pair = none
  sound   : s.upsets = []
  noWatch : ∀ w ∈ s.blk.ctx.watch, bit w.1 63 = false
  noBars  : s.bars = []
  cores   : ∀ c ∈ s.cores, c.ranges = [] ∧ c.stale = [] ∧ ∀ r ∈ c.ret, r.1 = false
  placed  : s.blk.life = .placed ∧ ∀ b ∈ s.blocks, b.life ≠ .saved
  noMons  : NoMonitors s

/-- R182, R183, R191, R197: LDS of every size loads from scratchpad space: each lane gets the bytes at its place, its block's own
scratchpad for a local address in range, zero for one out of range; with no lane out of range memory is unchanged. No earlier
state of a sector that a load may still find differs from its state now. -/
def ScratchpadLoadsRead : Prop :=
  ∀ (w : FMS) (s : State), ∀ z ∈ sizes, w.size = z.1 → PairOk s w.addr → DstRoom s w.data z.2.2 → SpadCalm s → PastFresh s → s.active ≠ 0 →
    (∀ l ∈ usedLanes s w.u, laneAddr s w.u w.addr l % z.2.1 = 0) →
    let at_ (l : Lane) : Place := spadPlace s s.blk (laneAddr s w.u w.addr l) z.2.1 0
    let val (l : Lane) (i : Nat) : Word := BitVec.ofNat 32 (leNat (((s.readPlace (at_ l) z.2.1).drop (4 * i)).take 4))
    (∃ t, exec (.lds w) s = .next t ∧ Advanced s t
      ∧ t = { s with
          st := { s.st with
            regs := t.st.regs, windows := t.st.windows, heard := t.st.heard, paths := t.st.paths, reserves := reservesLeft s
            stall := none }
          blk := { s.blk with queues := t.blk.queues }, cores := t.cores, mem := t.mem, lineVer := t.lineVer }
      ∧ ((∀ l ∈ usedLanes s w.u, at_ l ≠ .out) → t.mem = s.mem)
      ∧ (∀ (r : RegNo) (l : Lane), (t.st.regs.get r.toFin).lane l =
          if w.data.chan = false ∧ w.data.idx.toNat ≤ r.toNat ∧ r.toNat < w.data.idx.toNat + z.2.2
              ∧ (w.u = true ∨ s.active.has l = true) then val (srcLane w.u l) (r.toNat - w.data.idx.toNat)
          else (s.st.regs.get r.toFin).lane l)
      ∧ ∀ q, q < 16 → t.queue q = s.queue q ++
          (if w.data.chan = true ∧ pushQueue s w.data = some q then
            [SVec.gen fun l => if w.u = true ∨ s.active.has l = true then val (srcLane w.u l) 0 else 0] else []))
    ∧ ∀ l, laneAddr s w.u w.addr l < 2 ^ 63 →
        (laneAddr s w.u w.addr l < 2 ^ 18 → laneAddr s w.u w.addr l + z.2.1 ≤ 256 * s.blk.hdr.spad →
          s.readPlace (at_ l) z.2.1 = s.blk.spad.readN (laneAddr s w.u w.addr l) z.2.1)
        ∧ ((2 ^ 18 ≤ laneAddr s w.u w.addr l ∨ 256 * s.blk.hdr.spad < laneAddr s w.u w.addr l + z.2.1) →
          s.readPlace (at_ l) z.2.1 = List.replicate z.2.1 0)

/-- R182, R183, R191, R197: STS of every size stores each lane's bytes at its place in scratchpad space, the highest lane standing where
lanes meet; every other scratchpad byte of every block, every pan and every register is as before, and so is memory when no lane
is out of range. -/
def ScratchpadStoresWrite : Prop :=
  ∀ (w : FMS) (s : State), ∀ z ∈ sizes, w.size = z.1 → PairOk s w.addr → RegsFor s w.data.idx z.2.2 → SpadCalm s → s.active ≠ 0 →
    s.mreds = [] → s.remote = [] → (∀ b ∈ s.allBlocks, b.spad.wf = true) →
    (∀ l ∈ usedLanes s w.u, laneAddr s w.u w.addr l % z.2.1 = 0) →
    let at_ (l : Lane) : Place := spadPlace s s.blk (laneAddr s w.u w.addr l) z.2.1 1
    let hits (b a : Nat) (l : Lane) : Prop := ∃ o, at_ l = .spad b o ∧ o ≤ a ∧ a < o + z.2.1
    ∃ t, exec (.sts w) s = .next t ∧ Advanced s t
      ∧ t.st.regs = s.st.regs ∧ t.st.sr = s.st.sr ∧ t.st.md = s.st.md ∧ t.blk.queues = s.blk.queues ∧ t.blk.pans = s.blk.pans
      ∧ ((∀ l ∈ usedLanes s w.u, at_ l ≠ .out) → t.mem = s.mem)
      ∧ (∀ l ∈ usedLanes s w.u, ∀ b o i, at_ l = .spad b o → i < z.2.1 → (s.block? b).isSome = true →
          (∀ k ∈ usedLanes s w.u, l < k → ¬ hits b (o + i) k) →
          t.readPlace (.spad b (o + i)) 1 = [dataByte s w.u w.data.idx l i])
      ∧ ∀ b a, (∀ l ∈ usedLanes s w.u, ¬ hits b a l) → t.readPlace (.spad b a) 1 = s.readPlace (.spad b a) 1

/-- The size of an element of an indexed access under MD.TYPE (R328). -/
def elemBytes (ty : Nat) : Nat := if ty = 9 then 8 else if ty = 10 ∨ ty = 11 then 2 else 4

/-- The scratchpad-space address of the table entry that `.tab` reads for a lane (R328). -/
def tableAddr (s : State) (idx : RegNo) (l : Lane) : Nat :=
  ((s.rdReg 7 (mdRemapReg s.st.md)).lane l).toNat + 4 * (((s.rdReg 6 idx).lane l).toNat % 2 ^ min (mdRemapParam s.st.md) 16)

/-- The remapped index of a lane (R328). -/
def indexOf (s : State) (remap : Remap) (idx : RegNo) (l : Lane) : Nat :=
  let i := ((s.rdReg 6 idx).lane l).toNat
  let k := mdRemapParam s.st.md
  match remap with
  | .mod => i % ((s.rdReg 7 (mdRemapReg s.st.md)).lane l).toNat
  | .hash => if k = 0 then 0 else i * 0x9E3779B1 % 2 ^ 32 / 2 ^ (32 - min k 32)
  | .tab => leNat (s.readPlace (spadPlace s s.blk (tableAddr s idx l) 4 0) 4)
  | .none => i

/-- The address of a lane of an indexed access (R328). -/
def indexedAddr (s : State) (u : Bool) (remap : Remap) (base idx : RegNo) (l : Lane) : Nat :=
  (laneAddr s u base l + elemBytes (mdType s.st.md) * indexOf s remap idx (srcLane u l)) % 2 ^ 64

/-- The registers of an indexed access are declared, and the table reads of `.tab` are aligned and in range (R328). -/
def IndexOk (s : State) (u : Bool) (remap : Remap) (base idx : RegNo) : Prop :=
  PairOk s base ∧ idx.toNat < s.blk.hdr.regs
    ∧ (remap = .mod ∨ remap = .tab → (mdRemapReg s.st.md).toNat < s.blk.hdr.regs)
    ∧ (remap = .tab → SpadCalm s ∧ PastFresh s ∧ ∀ l ∈ usedLanes s u, tableAddr s idx (srcLane u l) % 4 = 0
        ∧ spadPlace s s.blk (tableAddr s idx (srcLane u l)) 4 0 ≠ .out)

/-- R328, R329: LDX loads an element of MD.TYPE's size at base + size × index, the index as it stands, or remapped by `.mod`, `.hash`
or `.tab`, which reads it from a table in scratchpad space. -/
def IndexedLoadsRead : Prop :=
  ∀ (w : FX) (s : State) (pa : Lane → Nat), IndexOk s w.u w.remap w.base w.idx → mdType s.st.md ≤ 11 →
    let n := elemBytes (mdType s.st.md)
    RegsFor s w.d (if n = 8 then 2 else 1) →
    AccessReady s w.u n .read (indexedAddr s w.u w.remap w.base w.idx) pa → L1Fresh s →
    ∃ t, exec (.ldx w) s = .next t
      ∧ Loaded s t w.u (regDst w.d) (if n = 8 then 2 else 1) fun l i => BitVec.ofNat 32 (s.mem.nat (pa l + 4 * i) (min 4 n))

/-- The lanes that share a lane's address. -/
def sharers (s : State) (u : Bool) (va : Lane → Nat) (l : Lane) : List Lane := (usedLanes s u).filter fun k => va k = va l

/-- R328, R330: SCAT sends one reduction for each distinct address, in whatever order, of the operands of its lanes combined in lane
order; memory is unchanged beside counter records until the reductions are performed. -/
def ScattersCombineAndSend : Prop :=
  ∀ (w : FScat) (s : State) (pa : Lane → Nat), w.red ∈ redOps → IndexOk s w.u w.remap w.base w.idx →
    mdType s.st.md ≤ 9 → (w.red = .fadd → mdType s.st.md ≠ 9) →
    let wide : Bool := decide (mdType s.st.md = 9)
    let va := indexedAddr s w.u w.remap w.base w.idx
    RegsFor s w.data (if wide then 2 else 1) → AccessReady s w.u (elemBytes (mdType s.st.md)) .write va pa →
    let x (l : Lane) : Nat := operandAt s w.u w.data wide 0 l
    let combined (l : Lane) : Nat := match sharers s w.u va l with
      | [] => 0
      | k :: ks => ks.foldl (fun c j => newValue w.red (if wide then 64 else 32) c (x j) 0) (x k)
    ∃ t, exec (.scat w) s = .next t ∧ Advanced s t ∧ SameMem s t nowhere
      ∧ t = { Rest s t with mreds := t.mreds, nextId := t.nextId }
      ∧ (t.mreds.map fun r => (r.lane, r.pa, r.aop, r.w, r.x, r.sid)).Perm
          (((usedLanes s w.u).filter fun l => (sharers s w.u va l).head? = some l).map fun l =>
            (l.val, pa l, w.red, wide, BitVec.ofNat 64 (combined l), s.st.sid))

/-- Whether a lane has a strong load of the line at pa that no write has followed (R201). -/
def SawLine (s : State) (l : Lane) (pa : Nat) : Prop :=
  ∃ x ∈ s.st.seen, x.lane = l.val ∧ x.line = pa / 128 ∧ x.ver = s.ver (pa / 128)

/-- R186, R200, R201: WAITA waits on a line that the lane has seen by a strong load and nothing has written since, with the
line's monitor armed for its slot; with no such lane it completes at once; either way what its lanes saw of the lines is
forgotten. No counter record stands in the lines here. Which loads and lines count is deduced (log entry 36). -/
def WaitsOnAddresses : Prop :=
  ∀ (w : FWait) (s : State) (pa : Lane → Nat), PairOk s w.addr → AccessReady s w.u 1 .read (laneAddr s w.u w.addr) pa →
    (∀ l ∈ usedLanes s w.u, ∀ i, i < 128 → ¬ CounterByte s.blk.ctx (pa l / 128 * 128 + i)) →
    ((∀ l ∈ usedLanes s w.u, ¬ SawLine s l (pa l)) → ∃ t, exec (.waita w) s = .next t ∧ t = Rest s t ∧ Advanced s t
      ∧ SameMem s t nowhere ∧ ∀ l ∈ usedLanes s w.u, ¬ SawLine t l (pa l))
    ∧ ∀ l : Lane, w.u = false → s.active = 1 <<< l.val → s.st.path.mask = 1 <<< l.val → s.st.path.reason = .branch →
        SawLine s l (pa l) →
        (∃ pte ea b z, translate s s.st.core s.blk.ctx (laneAddr s w.u w.addr l) .read = .ok (pa l) pte ea b z ∧ pteMS pte = false) →
        ∃ t, exec (.waita w) s = .next t ∧ t = Rest s t ∧ SameMem s t nowhere ∧ t.st.stall = none
          ∧ t.st.path = { s.st.path with reason := .wait, grant := 0, wait := .waita [pa l / 128] false }
          ∧ ∃ m ∈ (t.core s.st.core).monitors, m.line = pa l / 128 ∧ s.st.slot ∈ m.slots

/-- R67, R193, R202: with nothing sent outstanding, FENCE completes: an acquire ends what the street's open windows and its other lanes'
loads may still find of older data, at quarter scope or wider it empties the core's L1 (log entry 39), and nothing else changes. -/
def FencesOrderAccesses : Prop :=
  ∀ (w : FFence) (s : State), s.st.pair = none → s.mreds = [] → s.remote = [] →
    ∃ t, exec (.fence w) s = .next t ∧ Advanced s t
      ∧ t = { s with
          st := { s.st with paths := t.st.paths, windows := t.st.windows, heard := t.st.heard, stall := none }, cores := t.cores }
      ∧ t.st.heard = (if w.kind.getLsbD 0 then s.clock else s.st.heard)
      ∧ (w.kind.getLsbD 0 = true → t.st.windows = s.st.windows.map fun x => { x with since := none })
      ∧ (w.kind.getLsbD 0 = true → 2 ≤ w.f.toNat → (t.core s.st.core).l1 = [])
      ∧ (w.kind.getLsbD 0 = false → t.st.windows = s.st.windows)
      ∧ ((w.kind.getLsbD 0 = false ∨ w.f.toNat < 2) → t.cores = s.cores)

/-- The lines of a region of n bytes at an address (R203). -/
def regionLines (va n : Nat) : Nat := if n = 0 then 0 else (va + n - 1) / 128 - va / 128 + 1

/-- R203: CACHE.WB leaves the lines of its regions clean in L2, CACHE.INV drops the core's L1 copies, CACHE.WBINV does both and drops
the L2 copies, which holds where no walk for these lines reads a table entry in one of them (R314, R322); no byte of memory
changes. The context has no counter records, and the core no translations kept, here. -/
def CacheOperationsActOnLines : Prop :=
  ∀ (w : FPair) (s : State) (pa : Lane → Nat → Nat), Quiet s → s.active ≠ 0 → w.a.toNat % 2 = 0 → w.a.toNat + 3 ≤ s.blk.hdr.regs →
    let len (l : Lane) : Nat := ((s.rdReg 6 (regPlus w.a 2)).lane (srcLane w.u l)).toNat
    let line (l : Lane) (i : Nat) : Nat := (laneAddr s w.u w.a l / 128 * 128 + 128 * i) % 2 ^ 64
    s.tlbs = [] → s.blk.ctx.ptpoollen = 0 →
    (∀ l ∈ usedLanes s w.u, ∀ i, i < regionLines (laneAddr s w.u w.a l) (len l) → ∃ pte ea b z,
      translate s s.st.core s.blk.ctx (line l i) .read = .ok (pa l i) pte ea b z ∧ pteRH pte = false ∧ pteMS pte = false) →
    let touched (x : Nat) : Prop := ∃ l ∈ usedLanes s w.u, ∃ i, i < regionLines (laneAddr s w.u w.a l) (len l) ∧ x = pa l i / 128
    (∃ t, exec (.cacheWb w) s = .next t ∧ t = Rest s t ∧ Advanced s t ∧ t.mem = s.mem
      ∧ ∀ x ∈ t.l2, touched x.line → x.dirty = [])
    ∧ (∃ t, exec (.cacheInv w) s = .next t ∧ t = Rest s t ∧ Advanced s t ∧ t.mem = s.mem
      ∧ ∀ x ∈ (t.core s.st.core).l1, ¬ touched (x.pa / 4))
    ∧ ∃ t, exec (.cacheWbinv w) s = .next t ∧ t = Rest s t ∧ Advanced s t ∧ t.mem = s.mem
      ∧ ((∀ l ∈ usedLanes s w.u, ∀ i, i < regionLines (laneAddr s w.u w.a l) (len l) → ∀ pte ea b z,
            translate s s.st.core s.blk.ctx (line l i) .read = .ok (pa l i) pte ea b z →
            ∀ x ∈ walkLines s.mem (b % 2 ^ 57) ptLevels s.blk.ctx.ptroot, ¬ touched x) → ∀ x ∈ t.l2, ¬ touched x.line)
      ∧ ∀ x ∈ (t.core s.st.core).l1, ¬ touched (x.pa / 4)

/-- R204: PREF completes whatever its addresses are, without a fault, and changes no register, flag or byte of memory beside counter
records. -/
def PrefetchesNeverFault : Prop :=
  ∀ (w : FPref) (s : State), Quiet s → s.active ≠ 0 → PairOk s w.addr →
    ∃ t, exec (.pref w) s = .next t ∧ t = Rest s t ∧ Advanced s t ∧ SameMem s t nowhere

/-- The page formats that hold floating elements, with their container bits and format (R77, R82). -/
def floatPages : List (Nat × Nat × Fmt) := [(8, 16, f16), (9, 16, bf16), (10, 32, f32)]

/-- R72, R75, R78, R85: on a page of f16, bf16 or f32 elements LD and ST of a run move elements in lane order from the lowest active
lane's address on: LD widens each to f32, ST rounds each f32 in MD.RND, both with flags. Element j of lane L stands k × L + j
elements from the start; no other byte changes beside counter records. -/
def FloatRunsConvert : Prop :=
  ∀ (w : FM) (s : State) (low : Lane) (pte ea base size start : Nat), ∀ f ∈ floatPages, ∀ z ∈ runSizes, w.u = false → w.size = z.1 →
    PairOk s w.addr → Quiet s → s.mem.wf = true → L1Fresh s → s.active.lowest = some low → pteFMT pte = f.1 → pteRH pte = false →
    let va := laneAddr s false w.addr low
    let step := z.2 * f.2.1 / 8
    va % (64 * step) = 0 →
    let place (l : Lane) : Nat := start + step * l.val
    (∀ l ∈ usedLanes s false, ∀ i, i < step → ¬ CounterByte s.blk.ctx (place l + i)) →
    let elem (l : Lane) (j : Nat) : Nat := s.mem.nat (place l + f.2.1 / 8 * j) (f.2.1 / 8)
    let here (acc : Acc) : Prop := translate s s.st.core s.blk.ctx va acc = .ok start pte ea base size
      ∧ ∀ l ∈ usedLanes s false, translate s s.st.core s.blk.ctx (va + step * l.val) acc = .ok (place l) pte ea base size
        ∧ s.foreign (va + step * l.val) (place l) = false
    let wide (l : Lane) (j : Nat) : FRes := if f.1 = 10 then (elem l j, 0) else f.2.2.convert f32 0 false (elem l j)
    let narrow (l : Lane) (j : Nat) : FRes :=
      let x := ((s.rdReg j (regPlus w.data.idx j)).lane l).toNat
      if f.1 = 10 then (x, 0) else f32.convert f.2.2 (mdRnd s.st.md) false x
    (here .read → w.data.chan = false → RegsFor s w.data.idx z.2 → ∃ t, exec (.ld w) s = .next t ∧ Advanced s t ∧ SameMem s t nowhere
      ∧ t = { Rest s t with st := { (Rest s t).st with regs := t.st.regs, sr := t.st.sr } }
      ∧ (∀ (r : RegNo) (l : Lane), (t.st.regs.get r.toFin).lane l =
          if w.data.idx.toNat ≤ r.toNat ∧ r.toNat < w.data.idx.toNat + z.2 ∧ s.active.has l = true then
            BitVec.ofNat 32 (wide l (r.toNat - w.data.idx.toNat)).1
          else (s.st.regs.get r.toFin).lane l)
      ∧ ∀ i, i < 7 → (t.st.sr.getLsbD i = true ↔ s.st.sr.getLsbD i = true
          ∨ ∃ l ∈ usedLanes s false, ∃ j, j < z.2 ∧ (wide l j).2.getLsbD i = true))
    ∧ (here .write → RegsFor s w.data.idx z.2 → ∃ t, exec (.st w) s = .next t ∧ Advanced s t
      ∧ t = { Rest s t with st := { (Rest s t).st with sr := t.st.sr } }
      ∧ SameMem s t (fun a => ∃ l ∈ usedLanes s false, place l ≤ a ∧ a < place l + step)
      ∧ (∀ l ∈ usedLanes s false, ∀ j, j < z.2 → t.mem.nat (place l + f.2.1 / 8 * j) (f.2.1 / 8) = (narrow l j).1)
      ∧ ∀ i, i < 7 → (t.st.sr.getLsbD i = true ↔ s.st.sr.getLsbD i = true
          ∨ ∃ l ∈ usedLanes s false, ∃ j, j < z.2 ∧ (narrow l j).2.getLsbD i = true))

/-- m / 2^k rounded to the nearest integer, a tie to the even one. -/
def nearestEven (m k : Nat) : Nat :=
  let q := m / 2 ^ k
  let r := m % 2 ^ k
  if 2 ^ k < 2 * r ∨ (2 * r = 2 ^ k ∧ q % 2 = 1) then q + 1 else q

/-- Steps 4 and 5 of R79: x × 2^(127 + (w − 1) − E) rounded to nearest even, held within ±(2^(w − 1) − 1), and whether it was cut. -/
def blockMantissa (w E x : Nat) : Int × Bool :=
  match f32.num x with
  | .inf _ => (0, false)
  | .fin neg m e =>
    let k : Int := e + 127 + (w - 1) - E
    let q := if 0 ≤ k then m * 2 ^ k.toNat else nearestEven m (-k).toNat
    let top := 2 ^ (w - 1) - 1
    (if neg then -(min q top : Nat) else (min q top : Nat), decide (top < q))

/-- Steps 2 and 3 of R79: floor(log₂ M) + 128 of the largest magnitude M, held within 0 to 254; 0 where M is 0. -/
def blockExponent (xs : List Nat) : Nat :=
  match (xs.filterMap fun x => match f32.num x with
    | .fin _ m e => if m = 0 then none else some ((Nat.log2 m : Int) + e)
    | .inf _ => none).max? with
  | none => 0
  | some v => (max 0 (min 254 (v + 128))).toNat

/-- A NaN or an infinity. -/
def special (x : Nat) : Bool := f32.isNan x || f32.isInf x

/-- R79: the exponent byte, the mantissas and the overflow of a block of f32 values. -/
def blockCode (w : Nat) (xs : List Nat) : Nat × List Int × Bool :=
  if xs.any special then (255, xs.map fun _ => 0, false)
  else
    let ms := xs.map (blockMantissa w (blockExponent xs))
    (if ms.all fun m => m.1 == 0 then 0 else blockExponent xs, ms.map (·.1), ms.any (·.2))

/-- The f32 value of a container under an exponent byte: its low w bits are the mantissa, in two's complement (R76 to R78). -/
def blockValue (w E c : Nat) : Nat :=
  if E = 255 then 0x7FC00000
  else
    let m := asSigned w (c % 2 ^ w)
    (f32.round 0 false (decide (m < 0)) m.natAbs ((E : Int) - 127 - (w - 1))).1

/-- Bits [56:0] as a canonical address (R190; log entry 55). -/
def canonical (a : Nat) : Nat := if a % 2 ^ 57 < 2 ^ 56 then a % 2 ^ 57 else a % 2 ^ 57 + 2 ^ 64 - 2 ^ 57

/-- The scale-base entry of a page stands at a translated place, is valid and has the shift of the page's blocks (R83, R84). -/
def ScaleEntryAt (s : State) (pte shift w0 w1 : Nat) : Prop :=
  (∀ i ∈ [0, 8], ∃ pa p e b z, walkNow s 0 s.blk.ctx (s.blk.ctx.scalebase + 16 * pteSIDX pte + i) .read = .ok pa p e b z
    ∧ pteRH p = false ∧ s.mem.nat pa 8 = (if i = 0 then w0 else w1))
  ∧ w1 / 2 ^ 63 % 2 = 1 ∧ w1 / 2 ^ 57 % 64 = shift

/-- The scale address of the block that holds the element byte at va (R84). -/
def scaleByte (w0 w1 shift va : Nat) : Nat :=
  let origin := canonical (w1 / 2 ^ 7 % 2 ^ 50 * 128)
  let d := asSigned 64 (keepBits 64 ((va : Int) - origin))
  keepBits 64 ((canonical w0 : Int) + d / 2 ^ shift)

/-- A run of k elements per lane in containers of c bits, on a page of block format, at va and from physical address `start` on,
with the scale byte of lane l at `sa l` (R84, R85). -/
structure BlockRun (s : State) (w : FM) (acc : Acc) (fmt c k va start pte : Nat) (sa : Lane → Nat) : Prop where
  plain : w.u = false ∧ PairOk s w.addr ∧ RegsFor s w.data.idx k ∧ Quiet s ∧ s.mem.wf = true ∧ L1Fresh s ∧ s.tlbs = []
  page  : pteFMT pte = fmt ∧ pteBL pte ≤ 4 ∧ pteRH pte = false
  first : ∃ low, s.active.lowest = some low ∧ va = laneAddr s false w.addr low
  there : ∃ ea base size, translate s s.st.core s.blk.ctx va acc = .ok start pte ea base size
  lanes : ∀ l ∈ usedLanes s false, ∃ ea base size,
    translate s s.st.core s.blk.ctx (va + k * l.val * c / 8) acc = .ok (start + k * l.val * c / 8) pte ea base size
    ∧ s.foreign (va + k * l.val * c / 8) (start + k * l.val * c / 8) = false
  run   : va % (64 * k * c / 8) = 0
  table : ∃ w0 w1, ScaleEntryAt s pte (Nat.log2 (8 * 2 ^ pteBL pte * c / 8)) w0 w1
    ∧ ∀ l ∈ usedLanes s false, sa l = scaleByte w0 w1 (Nat.log2 (8 * 2 ^ pteBL pte * c / 8)) (va + k * l.val * c / 8)
  free  : ∀ l ∈ usedLanes s false, ∀ i, i < k * c → ¬ CounterByte s.blk.ctx (start + (k * l.val * c + i) / 8)

/-- Container i of a run from a physical address on (R77). -/
def container (m : Memory) (start c i : Nat) : Nat := m.nat (start + i * c / 8) 1 / 2 ^ (i * c % 8) % 2 ^ c

/-- Word j of a lane's data, and element i of a run of k elements per lane. -/
def runWord (s : State) (r : RegNo) (l : Lane) (j : Nat) : Nat := ((s.rdReg j (regPlus r j)).lane l).toNat
@[inherit_doc runWord] def runElem (s : State) (r : RegNo) (k i : Nat) : Nat := runWord s r (Fin.ofNat 64 (i / k)) (i % k)

/-- The bytes of a run's used lanes, and their scale bytes. -/
def RunByte (s : State) (c k start : Nat) (spa : Lane → Nat) (a : Nat) : Prop :=
  ∃ l ∈ usedLanes s false, a = spa l ∨ ∃ i, i < k * c ∧ a = start + (k * l.val * c + i) / 8

/-- R76 to R79, R84, R85: on a page of block-floating-point elements LD decodes each active lane's elements under its block's scale byte,
with no flag; ST, with every lane active and every block inside the run, writes each block's containers and scale byte as R79
encodes them; ST.KEEPEXP encodes each active lane's element under the scale byte that stands there, a NaN or an infinity setting
it to 0xFF. SR.BFPOV records a cut mantissa; no other byte changes beside counter records. -/
def BlockRunsConvert : Prop :=
  ∀ (w : FM) (s : State) (va start pte : Nat) (sa spa : Lane → Nat), ∀ f ∈ containerBits.take 7, ∀ z ∈ runSizes,
    let c := f.2
    let mw := f.1 + 1
    let b := 8 * 2 ^ pteBL pte
    let scales (acc : Lane → Acc) : Prop := ∀ l ∈ usedLanes s false, Mapped s (acc l) (sa l) (spa l) ∧ ¬ CounterByte s.blk.ctx (spa l)
      ∧ ∀ k ∈ usedLanes s false, ∀ i, i < z.2 * c → spa l ≠ start + (z.2 * k.val * c + i) / 8
    let E (l : Lane) : Nat := s.mem.nat (spa l) 1
    let raised (t : State) (ov : Prop) : Prop := ∀ i, i < 32 → (t.st.sr.getLsbD i = true ↔ s.st.sr.getLsbD i = true ∨ (i = 6 ∧ ov))
    (BlockRun s w .read f.1 c z.2 va start pte sa → scales (fun _ => .read) → w.size = z.1 → w.data.chan = false →
      ∃ t, exec (.ld w) s = .next t ∧ Advanced s t ∧ SameMem s t nowhere
        ∧ t = { Rest s t with st := { (Rest s t).st with regs := t.st.regs } }
        ∧ ∀ (r : RegNo) (l : Lane), (t.st.regs.get r.toFin).lane l =
            if w.data.idx.toNat ≤ r.toNat ∧ r.toNat < w.data.idx.toNat + z.2 ∧ s.active.has l = true then
              BitVec.ofNat 32 (blockValue mw (E l) (container s.mem start c (z.2 * l.val + (r.toNat - w.data.idx.toNat))))
            else (s.st.regs.get r.toFin).lane l)
    ∧ (BlockRun s w .write f.1 c z.2 va start pte sa → scales (fun _ => .write) → w.size = z.1 → s.active = Mask.all → b ≤ 64 * z.2 →
      let code (i : Nat) := blockCode mw ((List.range b).map fun x => runElem s w.data.idx z.2 (i * b + x))
      ∃ t, exec (.st w) s = .next t ∧ Advanced s t ∧ t = { Rest s t with st := { (Rest s t).st with sr := t.st.sr } }
        ∧ SameMem s t (RunByte s c z.2 start spa)
        ∧ (∀ l, t.mem.nat (spa l) 1 = (code (z.2 * l.val / b)).1)
        ∧ (∀ i, i < 64 * z.2 → container t.mem start c i = keepBits c ((code (i / b)).2.1.getD (i % b) 0))
        ∧ raised t (∃ i, i < 64 * z.2 ∧ (code (i / b)).2.2 = true))
    ∧ (z.2 = 1 → BlockRun s w .write f.1 c 1 va start pte sa → w.size = .keepexp →
      let x (l : Lane) : Nat := runWord s w.data.idx l 0
      scales (fun l => if special (x l) then .atomic else .read) →
      let out (l : Lane) : Int × Bool := if E l = 255 ∨ special (x l) = true then (0, false) else blockMantissa mw (E l) (x l)
      ∃ t, exec (.st w) s = .next t ∧ Advanced s t ∧ t = { Rest s t with st := { (Rest s t).st with sr := t.st.sr } }
        ∧ SameMem s t (RunByte s c 1 start spa)
        ∧ (∀ l ∈ usedLanes s false, t.mem.nat (spa l) 1 =
            if ∃ k ∈ usedLanes s false, spa k = spa l ∧ special (x k) = true then 255 else E l)
        ∧ (∀ l : Lane, (∃ k ∈ usedLanes s false, l.val * c / 8 = k.val * c / 8) → container t.mem start c l.val =
            if s.active.has l = true then keepBits c (out l).1 else container s.mem start c l.val)
        ∧ raised t (∃ l ∈ usedLanes s false, (out l).2 = true))

end Sys2Proof.Say

/-! ### The engines: tiles, tasks, copies, timelines, barriers, walks and collectives -/

namespace Sys2Proof.Say

/-- A format E instruction on the argument group from x may proceed: a quiet machine, an even group below the declared count, a lane
active (R274, R275). -/
structure EngineReady (s : State) (x : RegNo) : Prop where
  quiet  : Quiet s
  group  : x.toNat % 2 = 0 ∧ x.toNat ≤ 60 ∧ x.toNat + 4 ≤ s.blk.hdr.regs
  active : s.active ≠ 0

/-- Argument register i of the group: of the lowest active lane, or of lane 0 under U = 1 (R275). -/
def argOf (s : State) (u : Bool) (x : RegNo) (i : Nat) : Nat :=
  ((s.rdReg i (regPlus x i)).lane (if u then 0 else (s.active.lowest).getD 0)).toNat

/-- The address that x and x+1 hold. -/
def argAddr (s : State) (u : Bool) (x : RegNo) : Nat := argOf s u x 0 + argOf s u x 1 * 2 ^ 32

/-- The record of n bytes at the address in x, x+1 lies aligned at these physical addresses, one for each 64 bytes, and no load may find
it otherwise than it is; within one page they follow each other. -/
def RecordAt (s : State) (u : Bool) (x : RegNo) (n al : Nat) (pa : Nat → Nat) : Prop :=
  let va := argAddr s u x
  va % al = 0 ∧ PastFresh s ∧ Mapped s .read va (pa 0)
    ∧ ∀ i, i < n / 64 → if va % 2 ^ 18 + n ≤ 2 ^ 18 then pa i = pa 0 + 64 * i else Mapped s .read ((va + 64 * i) % 2 ^ 64) (pa i)

/-- The little-endian field of n bytes at offset off of such a record. -/
def field (s : State) (pa : Nat → Nat) (off n : Nat) : Nat := s.mem.nat (pa (off / 64) + off % 64) n

/-- The bytes of such a record. -/
def recordBytes (s : State) (pa : Nat → Nat) (n : Nat) : List Byte := (List.range (n / 64)).flatMap fun i => s.mem.readN (pa i) 64

/-- The ordered number that an operation on selector q takes (R250). -/
def numberOf (s : State) (q : RegNo) : Option (Nat × Nat) :=
  if q.toNat < 32 then some (q.toNat, (s.blk.tl q.toNat).issued + 1) else none

/-- ISSUED of the selected timeline counts the operation; every other timeline is as before (R250). -/
def Numbered (s t : State) (q : RegNo) : Prop :=
  ∀ k, k < 32 → t.blk.tl k = if k = q.toNat then { s.blk.tl k with issued := (s.blk.tl k).issued + 1 } else s.blk.tl k

/-- What an issue leaves in the street: an operation in flight with the path's DEPTH and MASK (R147). -/
def withOp (s t : State) (kind : OpKind) : State :=
  { Rest s t with
    st := { (Rest s t).st with
      ops := s.st.ops ++ [{ id := s.nextId, kind := kind, depth := s.st.path.depth, lanes := s.st.path.mask }] }
    nextId := s.nextId + 1 }

/-- A word that format E writes: every active lane, or all 64 lanes under U = 1, of the register i above x holds `val i`; every
other register lane is as before (R275). -/
def Results (s t : State) (u : Bool) (x : RegNo) (words : Nat) (val : Nat → Lane → Nat) : Prop :=
  ∀ (r : RegNo) (l : Lane), (t.st.regs.get r.toFin).lane l =
    if x.toNat ≤ r.toNat ∧ r.toNat < x.toNat + words ∧ (u = true ∨ s.active.has l = true) then BitVec.ofNat 32 (val (r.toNat - x.toNat) l)
    else (s.st.regs.get r.toFin).lane l

/-- What an instruction leaves that only writes its results. -/
def OnlyRegs (s t : State) : State :=
  { s with st := { s.st with regs := t.st.regs, windows := t.st.windows, paths := t.st.paths, stall := none } }

/-- MMT, MMTS and MMM with their kinds. -/
def tileOps : List ((FE → Instr) × MxKind) := [(.mmt, .mmt), (.mmts, .mmts), (.mmm, .mmm)]

/-- R278, R309: what a tile operand record must hold; AUXSTRIDE of MMTS may be any. -/
def TileAllowed (k : MxKind) (f : Nat → Nat → Nat) : Prop :=
  f 0x38 8 % 4096 ≠ 0 ∧ f 0x38 8 / 2 ^ 14 % 4 = 0 ∧ f 0x38 8 / 2 ^ 23 % 2 = 0 ∧ f 0x38 8 / 2 ^ 31 = 0
  ∧ match k with
    | .mmts => f 0x38 8 / 4096 % 4 ≠ 3 ∧ f 0x20 8 ≠ 0 ∧ f 0x28 8 = 0
    | .mmm => f 0x38 8 / 4096 % 4 = 0 ∧ f 0x20 8 ≠ 0 ∧ f 0x28 8 ≠ 0 ∧ f 0x30 8 = 0
    | _ => f 0x38 8 / 4096 % 4 = 0 ∧ f 0x20 8 = 0 ∧ f 0x28 8 = 0 ∧ f 0x30 8 = 0

/-- An operation as it enters the block's engine queue (R240). -/
def queuedOp (s : State) (kind : MxKind) (q : RegNo) (tile : TileRec) (addr pan : Nat) : MxOp :=
  { id := s.nextId, kind := kind, tile := tile, recAddr := addr, pan := pan, state := .queued, kprog := 0, phase := 1, summary := 0
    tl := numberOf s q, sid := s.st.sid, passed := 0, aged := false, fault := none, task := none, cluster := coreCluster s.blk.core
    c := { cbase := 0, cstride := 0, cvbase := 0, cload := false }, acc := [] }

/-- R240, R250, R275, R278, R279: MMT, MMTS and MMM read their tile operand record at acceptance and enter the block's engine queue
with its fields, the pan and an ordered number; memory stays as it is beside counter records. -/
def TileOperationsAreQueued : Prop :=
  ∀ (w : FE) (s : State) (pa : Nat → Nat), ∀ p ∈ tileOps, EngineReady s w.x → s.blk.mxq.length < 16 → RecordAt s w.u w.x 64 64 pa →
    let f := field s pa
    let pan := argOf s w.u w.x 2
    TileAllowed p.2 f → pan < 256 → pan < s.blk.hdr.pans → (p.2 = .mmm → pan % 2 = 0 ∧ pan + 1 < s.blk.hdr.pans) →
    let tile : TileRec :=
      { abase := f 0 8, astride := f 8 8, bbase := f 0x10 8, bstride := f 0x18 8, aux1 := f 0x20 8, aux2 := f 0x28 8
        auxstride := f 0x30 8, steps := f 0x38 8 % 4096, pattern := f 0x38 8 / 4096 % 4, mrows := f 0x38 8 / 2 ^ 16 % 128 + 1
        ncols := f 0x38 8 / 2 ^ 24 % 128 + 1 }
    ∃ t, exec (p.1 w) s = .next t ∧ Advanced s t ∧ SameMem s t nowhere ∧ Numbered s t w.q
      ∧ t = { withOp s t .mx with
          blk := { s.blk with tls := t.blk.tls, mxq := s.blk.mxq ++ [queuedOp s p.2 w.q tile (argAddr s w.u w.x) pan] } }

/-- PANZ, PANLD and PANST with their kinds. -/
def panOps : List ((FE → Instr) × MxKind) := [(.panz, .panz), (.panld, .panld), (.panst, .panst)]

/-- R240, R250, R279: PANZ, PANLD and PANST enter the block's engine queue with the pan, and PANLD and PANST with their base and
row stride; a pan at or above PANS takes TASK with FADDR 0. -/
def PanOperationsAreQueued : Prop :=
  ∀ (w : FE) (s : State), ∀ p ∈ panOps, EngineReady s w.x → s.blk.mxq.length < 16 →
    let pan := argOf s w.u w.x 2
    let base := if p.2 = .panz then 0 else argAddr s w.u w.x
    let stride := if p.2 = .panz then 0 else argOf s w.u w.x 3
    let tile : TileRec :=
      { abase := base, astride := stride, bbase := 0, bstride := 0, aux1 := 0, aux2 := 0, auxstride := 0, steps := 1, pattern := 0
        mrows := 128, ncols := 128 }
    (pan < 256 → pan < s.blk.hdr.pans → ∃ t, exec (p.1 w) s = .next t ∧ Advanced s t ∧ Numbered s t w.q
      ∧ t = { withOp s t .mx with
          blk := { s.blk with tls := t.blk.tls, mxq := s.blk.mxq ++ [queuedOp s p.2 w.q tile base pan] }
          cores := s.cores, l2 := s.l2, tlbs := s.tlbs, lineVer := s.lineVer, wdeltas := s.wdeltas, ctxs := s.ctxs, mem := s.mem })
    ∧ (s.blk.hdr.pans ≤ pan → exec (p.1 w) s = .next (s.takeTrap 15 0 0))

/-- An accepted operation of the block that is not over names pan p; MMM names p + 1 as well (R241). -/
def Named (s : State) (p : Nat) : Prop := ∃ o ∈ s.blk.mxq, o.pan = p ∨ (o.kind = .mmm ∧ o.pan + 1 = p)

/-- The place of element (row, col) of pan p in the block's pans (R239). -/
def elementAt (p row col : Nat) : Nat := p * 65536 + (row * 128 + col) * 4

/-- R241, R275, R283: PANRD gives each lane L its columns L and 64 + L of the row; PANWR writes them, under U = 1 lane 0's values into
every column; no other byte of a pan changes. No operation names the pan and no access waits in a window here; where an
operation names it and the instruction opens no window, it waits at issue. -/
def PanPortsMoveRows : Prop :=
  ∀ (w : FEL) (s : State) (p row : Nat), EngineReady s w.x → argOf s w.u w.x 2 = row * 256 + p → p < 256 → row < 128 →
    p < s.blk.hdr.pans → s.blk.there = true → (∀ b ∈ s.blocks, b.id ≠ s.blk.id) →
    (∀ x ∈ s.st :: s.streets, ∀ y ∈ x.windows, y.pan = none) → s.blk.pans.wf = true →
    (Named s p → w.la = 0 → exec (.panrd w) s = .next (s.stalled .mem) ∧ exec (.panwr w) s = .next (s.stalled .mem))
    ∧ (¬ Named s p →
    (∃ t, exec (.panrd w) s = .next t ∧ Advanced s t ∧ t = OnlyRegs s t
      ∧ Results s t w.u w.x 2 fun i l => s.blk.pans.nat (elementAt p row (64 * i + l.val)) 4)
    ∧ ∃ t, exec (.panwr w) s = .next t ∧ Advanced s t
      ∧ t = { s with
          st := { s.st with windows := t.st.windows, paths := t.st.paths, stall := none }
          blk := { s.blk with pans := t.blk.pans } }
      ∧ (∀ (i : Nat) (l : Lane), i < 2 → t.blk.pans.nat (elementAt p row (64 * i + l.val)) 4 =
          if w.u = true ∨ s.active.has l = true then ((s.rdReg i (regPlus w.x i)).lane (if w.u then 0 else l)).toNat
          else s.blk.pans.nat (elementAt p row (64 * i + l.val)) 4)
      ∧ ∀ a, (a < elementAt p row 0 ∨ elementAt p row 128 ≤ a) → t.blk.pans.read a = s.blk.pans.read a)

/-- R279, R284, R285: PANSTAT gives the pan's exception summary, which it clears, and the state and progress of the operation that
names the pan, or 0. -/
def PanStatusIsReported : Prop :=
  ∀ (w : FEL) (s : State), EngineReady s w.x → argOf s w.u w.x 2 < 256 → argOf s w.u w.x 2 < s.blk.hdr.pans →
    let p := argOf s w.u w.x 2
    ∃ t, exec (.panstat w) s = .next t ∧ Advanced s t
      ∧ t = { OnlyRegs s t with blk := { s.blk with panSum := t.blk.panSum } }
      ∧ lookN t.blk.panSum p = 0 ∧ (∀ q, q ≠ p → lookN t.blk.panSum q = lookN s.blk.panSum q)
      ∧ ((∀ o ∈ s.blk.mxq, o.pan ≠ p ∧ o.pan + 1 ≠ p) →
          Results s t w.u w.x 2 fun i _ => if i = 0 then lookN s.blk.panSum p else 0)
      ∧ ∀ o rest, s.blk.mxq = o :: rest → o.pan = p →
          Results s t w.u w.x 2 fun i _ =>
            if i = 0 then lookN s.blk.panSum p
            else (match o.state with | .queued => 1 | .running => 2 | .faulted => 3) * 2 ^ 24 + o.kprog % 4096 * 2 ^ 12

/-- R286, R289: the own fields of a tile-task record that a post checks. -/
def TaskAllowed (f : Nat → Nat → Nat) : Prop :=
  1 ≤ f 0 1 ∧ f 0 1 ≤ 6 ∧ f 1 1 < 16 ∧ f 2 1 ≤ 4 ∧ f 3 1 % 16 ≤ 4 ∧ f 3 1 / 16 ≤ 4 ∧ f 4 4 < 2 ^ 25 ∧ f 0xC 4 = 0
  ∧ (∀ i, i < 4 → f 2 1 ≤ i → f 4 4 / 2 ^ (5 + 5 * i) % 32 = 0 ∧ f (0x10 + 4 * i) 4 = 0 ∧ f (0x20 + 6 * i) 6 = 0)
  ∧ (∀ i, i < 4 → (f 3 1 % 16 ≤ i → f (0x40 + 8 * i) 8 = 0) ∧ (f 3 1 / 16 ≤ i → f (0x60 + 8 * i) 8 = 0))
  ∧ (f 1 1 / 2 % 2 = 0 → f 4 4 % 32 = 0 ∧ f 8 4 = 0)

/-- A region entry (R287). -/
def regionOf (e : Nat) : Region := { base := e / 4096 % 2 ^ 45 * 4096, len := (e / 2 ^ 57 * 4096 + e % 4096) * 4096 }

/-- A record as a post puts it into the pending-launch queue, the selector naming the advance handle (R286, R290). -/
def postedTask (s : State) (addr : Nat) (q : RegNo) (f : Nat → Nat → Nat) : TaskRec :=
  { id := s.nextId, die := coreDie s.st.core, addr := addr, sid := s.st.sid, ctx := s.blk.ctx, tid := s.blk.tid, kind := f 0 1
    high := decide (f 1 1 % 2 = 1), cload := decide (f 1 1 / 4 % 2 = 1), paired := decide (f 1 1 / 8 % 2 = 1)
    adv := if 32 ≤ q.toNat then some (s.st.sid.toNat, q.toNat - 32)
      else if f 1 1 / 2 % 2 = 1 then some (f 8 4, f 4 4 % 32) else none
    waits := (List.range (f 2 1)).map fun i => (f (0x10 + 4 * i) 4, f 4 4 / 2 ^ (5 + 5 * i) % 32, f (0x20 + 6 * i) 6)
    inputs := (List.range (f 3 1 % 16)).map fun i => regionOf (f (0x40 + 8 * i) 8)
    outputs := (List.range (f 3 1 / 16)).map fun i => regionOf (f (0x60 + 8 * i) 8)
    opnd := f 0x38 8, desc := [], hdr := [], state := .pending, seq := 0, passed := 0, reserved := false, blocks := [], next := 0
    inflight := 0 }

/-- An entry of the pending-launch queue that the issuing path holds, with its record or without one yet (R304). -/
def ownEntry (s : State) (r : Option TaskRec) : PlqEntry :=
  { sid := s.st.sid, at_ := (s.st.path.pc, s.st.path.depth), rec_ := r }

/-- The issuing path has reserved no entry of these without a record yet (R304). -/
def NoReserve (s : State) (es : List PlqEntry) : Prop := ∀ e ∈ es, e ≠ ownEntry s none

/-- Where a post of the street in focus enters the pending-launch queue (R254, R304): at its end where it has room, else at the
entry that its path has reserved. -/
def HasEntry (s : State) (before after : List PlqEntry) : Prop :=
  NoReserve s (before ++ after)
    ∧ ((s.blk.plq = before ∧ after = [] ∧ before.length < 4) ∨ s.blk.plq = before ++ ownEntry s none :: after)

end Sys2Proof.Say

/-- R254, R286, R289, R290, R304: TPOST and LAUNCH put the record at [v(x)] into a new entry of the pending-launch queue, or into the
one that their path has reserved, and write 0; with the queue full they stall, or under NB write 1 and post nothing. -/
def Obligations.PostsEnterThePendingQueue : Prop :=
  ∀ (w : FEN) (s : State) (pa : Nat → Nat), ∀ i ∈ [Instr.tpost w, .launch w], EngineReady s w.x →
    (∀ before after, HasEntry s before after → RecordAt s w.u w.x 128 128 pa → TaskAllowed (field s pa) → (i = .launch w → field s pa 0 1 = 6) →
      let e := ownEntry s (some (postedTask s (argAddr s w.u w.x) w.q (field s pa)))
      ∃ t, exec i s = .next t ∧ Advanced s t ∧ SameMem s t nowhere ∧ Results s t w.u w.x 1 (fun _ _ => 0)
        ∧ t = { Rest s t with
            st := { (Rest s t).st with regs := t.st.regs }, nextId := s.nextId + 1
            blk := { s.blk with plq := before ++ e :: after } })
    ∧ (4 ≤ s.blk.plq.length → NoReserve s s.blk.plq → w.nb = true → ∃ t, exec i s = .next t ∧ Advanced s t ∧ t = OnlyRegs s t
        ∧ Results s t w.u w.x 1 fun _ _ => 1)
    ∧ (4 ≤ s.blk.plq.length → NoReserve s s.blk.plq → w.nb = false → exec i s = .next (s.stalled .panq))

/-- R291, R295, R296: TQSTAT gives the lengths of the pending-launch queue and of the die's ready pool, TLREAD gives VALUE, and
CPYSTAT the copies in flight and the sticky errors, which it clears. -/
def Obligations.QueuesAndTimelinesAreRead : Prop :=
  (∀ (w : FEL) (s : State), EngineReady s w.x →
    (∃ t, exec (.tqstat w) s = .next t ∧ Advanced s t ∧ t = OnlyRegs s t
      ∧ Results s t w.u w.x 2 fun i _ => if i = 0 then s.blk.plq.length else (s.die (coreDie s.st.core)).pool.length)
    ∧ ∃ t, exec (.cpystat w) s = .next t ∧ Advanced s t
      ∧ t = { OnlyRegs s t with st := { (OnlyRegs s t).st with copyErr := 0 } }
      ∧ Results s t w.u w.x 2 fun i _ =>
          if i = 0 then (s.st.ops.filter fun o => o.kind == .copy || o.kind == .sal).length else s.st.copyErr)
  ∧ ∀ (w : FE) (s : State), EngineReady s w.x →
      ∃ t, exec (.tlread w) s = .next t ∧ Advanced s t ∧ t = OnlyRegs s t
        ∧ Results s t w.u w.x 2 fun i _ => (s.blk.tl w.q.toNat).value / 2 ^ (32 * i)

namespace Sys2Proof.Say

/-- R293, R294: the own fields of the layout record at an offset of a copy descriptor. -/
def LayoutAllowed (f : Nat → Nat → Nat) (off : Nat) (dst : Bool) : Prop :=
  let c := f (off + 0x3C) 4
  c / 2 ^ 9 = 0 ∧ 1 ≤ c % 16 ∧ c % 16 ≤ 5 ∧ c / 16 % 16 ∈ [0, 1, 2, 10, 11, 12, 13, 14]
    ∧ ∀ d, d < 5 → if dst then f (off + 0x32 + 2 * d) 2 = 0 else d < c % 16 → f (off + 0x32 + 2 * d) 2 ≠ 0

/-- R292, R294: the own fields of a copy descriptor. -/
def CopyAllowed (red : Bool) (f : Nat → Nat → Nat) : Prop :=
  LayoutAllowed f 0 false ∧ LayoutAllowed f 0x40 true ∧ f 0x98 8 / 2 ^ 9 = 0 ∧ f 0x98 8 / 8 % 32 = 0
    ∧ (red = true → f 0x98 8 % 8 ≤ 4) ∧ ∀ i, i < 4 → f (0xA0 + 8 * i) 8 = 0

/-- R299: the fields of the descriptor of SALN (SMETA where `m`). -/
def SalAllowed (m : Bool) (f : Nat → Nat → Nat) : Prop :=
  let c := f 0x38 8
  c % 4096 ≠ 0 ∧ c / 4096 % 4 ≠ 3 ∧ c / 2 ^ 14 % 4 = 0 ∧ c / 2 ^ 16 % 2 ^ 16 ≠ 0 ∧ c / 2 ^ 32 = 0
    ∧ f 0 8 ≠ 0 ∧ f 8 8 ≠ 0 ∧ f 0x20 8 ≠ 0 ∧ f 0x28 8 ≠ 0
    ∧ (if m then f 0x10 8 = 0 ∧ f 0x18 8 = 0 ∧ f 0x30 8 ≠ 0 else f 0x10 8 ≠ 0 ∧ f 0x18 8 ≠ 0 ∧ f 0x30 8 = 0)

/-- A signed 16-bit coordinate (R292). -/
def coordOf (x : Nat) : Int := asSigned 16 (x % 65536)

/-- An operation as it enters the copy engines (R259). -/
def copyInFlight (s : State) (kind : CopyKind) (addr : Nat) (q : RegNo) (desc : List Byte) (coords : List Int) : CopyOp :=
  { id := s.nextId, kind := kind, sid := s.st.sid, block := s.blk.id, ctx := s.blk.ctx, core := s.blk.core, desc := desc, addr := addr
    coords := coords, tl := numberOf s q, task := none, fault := none, agent := s.copyEngine (coreCluster s.blk.core) }

end Sys2Proof.Say

/-- R250, R259, R292, R294, R299: CPY and CPYRED, SALN and SMETA read their descriptor at acceptance and put an operation in
flight with a copy of it, the coordinates of x+2 and x+3 (SALN and SMETA have none) and an ordered number. At most 16 are in
flight. Which engine of the cluster takes it is the model's choice (log entry 9). -/
def Obligations.CopiesAreAccepted : Prop :=
  ∀ (w : FE) (s : State) (pa : Nat → Nat), EngineReady s w.x →
    (s.st.ops.filter fun o => o.kind == .copy || o.kind == .sal).length < 16 →
    (∀ (red : Bool), RecordAt s w.u w.x 192 64 pa → CopyAllowed red (field s pa) → (∀ c, (s.core c).ranges.length < 16) →
      let a := argOf s w.u w.x 2
      let b := argOf s w.u w.x 3
      ∃ t, exec (if red then .cpyred w else .cpy w) s = .next t ∧ Advanced s t ∧ SameMem s t nowhere ∧ Numbered s t w.q
        ∧ t = { withOp s t .copy with
            blk := { s.blk with tls := t.blk.tls }
            copies := s.copies ++ [copyInFlight s (if red then .cpyred else .cpy) (argAddr s w.u w.x) w.q (recordBytes s pa 192)
              [coordOf a, coordOf (a / 65536), coordOf b, coordOf (b / 65536), 0]] })
    ∧ ∀ (m : Bool), RecordAt s w.u w.x 64 64 pa → SalAllowed m (field s pa) →
      ∃ t, exec (if m then .smeta w else .saln w) s = .next t ∧ Advanced s t ∧ SameMem s t nowhere ∧ Numbered s t w.q
        ∧ t = { withOp s t .sal with
            blk := { s.blk with tls := t.blk.tls }
            copies := s.copies ++
              [copyInFlight s (if m then .smeta else .saln) (argAddr s w.u w.x) w.q (recordBytes s pa 64) []] }

namespace Sys2Proof.Say

/-- A street and its block stand where a step puts them into focus, no entry of any street waits, and nothing else of the block is
about to change: no timeline has waiters, no pool holds a record, no monitor is armed, no block is saved, no watch range is set. -/
structure Still (s : State) : Prop where
  here   : s.st.life = .running ∧ s.blk.life = .placed ∧ s.st.block = s.blk.id ∧ s.st.core = s.blk.core
  alone  : ∀ b ∈ s.blocks, b.id ≠ s.blk.id ∧ b.life ≠ .saved
  noMons : NoMonitors s
  free   : s.st.isHeld s.st.sel = false
  nobody : ∀ t ∈ s.st :: s.streets, (∀ i, (t.paths.get i).wait = .none ∧ (t.paths.get i).reason ≠ .wait) ∧ ∀ o ∈ t.ops, o.id ≠ 0
  pools  : ∀ d ∈ s.dies, d.pool = []
  single : s.st.pair = none
  sound  : s.upsets = []
  sent   : s.mreds = [] ∧ s.remote = [] ∧ s.late = []
  watch  : ∀ w ∈ s.blk.ctx.watch, bit w.1 63 = false

/-- An even group below the declared count, and a lane active (R274, R275). -/
def GroupOk (s : State) (x : RegNo) : Prop := x.toNat % 2 = 0 ∧ x.toNat ≤ 60 ∧ x.toNat + 4 ≤ s.blk.hdr.regs ∧ s.active ≠ 0

/-- The lanes that a format E result goes to (R275). -/
def resultLanes (s : State) (u : Bool) : Mask := if u then 0xFFFFFFFFFFFFFFFF else s.active

/-- The path waits as one entry (R61). -/
def PathWaits (s t : State) (w : Wait) : Prop :=
  t.st.paths = s.st.paths.set s.st.sel { s.st.path with reason := .wait, wait := w, grant := 0 } ∧ t.st.stall = none

/-- The path has waited for what has come already, and goes on at the next instruction with its grant (R59, R61). -/
def PathResumes (s t : State) : Prop :=
  t.st.paths = s.st.paths.set s.st.sel { s.st.path with pc := s.st.path.pc + 4, reason := .branch, wait := .none }
    ∧ t.st.stall = none

/-- VALUE after one more advance (R250). -/
def nextValue (v : Nat) : Nat := min (v + 1) (2 ^ 64 - 1)

end Sys2Proof.Say

/-- R250, R251, R296: TLWAIT reads VALUE at once with n = 0, waits as one entry while VALUE < n, and otherwise returns VALUE;
TLADV makes its ordered advance at once when every earlier number has been made and else leaves it to its turn, and an
unordered one by a handle of its block. That a TLWAIT keeps its path's GRANT is deduced (log entry 37). -/
def Obligations.TimelinesAreWaitedOnAndAdvanced : Prop :=
  ∀ (s : State) (x q : RegNo) (u : Bool), Still s → GroupOk s x →
    let v := (s.blk.tl q.toNat).value
    (q.toNat < 32 →
      (argAddr s u x = 0 → ∃ t, exec (.tlwait ⟨u, x, q⟩) s = .next t ∧ Advanced s t ∧ t = OnlyRegs s t
        ∧ Results s t u x 2 fun i _ => v / 2 ^ (32 * i))
      ∧ (v < argAddr s u x → ∃ t, exec (.tlwait ⟨u, x, q⟩) s = .next t
        ∧ PathWaits s t (.tl q.toNat (argAddr s u x) x (resultLanes s u))
        ∧ t = { s with st := { s.st with paths := t.st.paths, stall := none } })
      ∧ (0 < argAddr s u x → argAddr s u x ≤ v → ∃ t, exec (.tlwait ⟨u, x, q⟩) s = .next t ∧ PathResumes s t
        ∧ t = { OnlyRegs s t with st := { (OnlyRegs s t).st with heard := s.clock }, cores := t.cores } ∧ Results s t u x 2 fun i _ => v / 2 ^ (32 * i)))
    ∧ ∀ la : BitVec 4,
      let moved (t : State) (k : Nat) (tl : Timeline) : Prop := Advanced s t
        ∧ t = { s with
            st := { s.st with windows := t.st.windows, paths := t.st.paths, stall := none }
            blk := { s.blk with tls := t.blk.tls } }
        ∧ ∀ j, j < 32 → t.blk.tl j = if j = k then tl else s.blk.tl j
      let tl (k : Nat) : Timeline := s.blk.tl k
      (q.toNat < 32 → (tl q.toNat).made = (tl q.toNat).issued → ∃ t, exec (.tladv ⟨u, la, x, q⟩) s = .next t
        ∧ moved t q.toNat { tl q.toNat with value := nextValue v, issued := (tl q.toNat).issued + 1, made := (tl q.toNat).made + 1 })
      ∧ (q.toNat < 32 → (tl q.toNat).made ≠ (tl q.toNat).issued → ∃ t, exec (.tladv ⟨u, la, x, q⟩) s = .next t
        ∧ ∃ c : Completion, c.num = (tl q.toNat).issued + 1 ∧ c.stamp = none ∧ c.barrier = none
          ∧ moved t q.toNat { tl q.toNat with issued := (tl q.toNat).issued + 1, pend := (tl q.toNat).pend ++ [c] })
      ∧ (q = 32 → argAddr s u x / 2 ^ 37 = 0 → BitVec.ofNat 32 (argAddr s u x) ∈ s.blk.sids →
        let k := argAddr s u x / 2 ^ 32 % 32
        ∃ t, exec (.tladv ⟨u, la, x, q⟩) s = .next t ∧ moved t k { tl k with value := nextValue (tl k).value })

namespace Sys2Proof.Say

/-- The object that a barrier instruction names: in global memory on a plain page with R and W, or in scratchpad space where q is
33; 16-byte aligned (R277, R297). -/
def ObjectAt (s : State) (u : Bool) (x q : RegNo) (pl : BarPlace) : Prop :=
  argAddr s u x % 16 = 0 ∧
    if q = 33 then ∃ b off, spadPlace s s.blk (argAddr s u x) 16 1 = .spad b off ∧ pl = .spad b off
    else ∃ pa, Mapped s .atomic (argAddr s u x) pa ∧ pl = .global pa

/-- The bytes of an object in global memory or in a scratchpad: ARRIVED, EXPECTED, PHASE, and VALID, ABAND, SCOPE and QSZ (R263). -/
def ObjectWords (t : State) (b : Barrier) : Prop :=
  let stands (m : Memory) (a : Nat) : Prop := m.nat a 4 = b.arrived % 2 ^ 32 ∧ m.nat (a + 4) 4 = b.expected % 2 ^ 32
    ∧ m.nat (a + 8) 4 = b.phase % 2 ^ 32
    ∧ m.nat (a + 12) 4
        = ((if b.valid then 2 ^ 31 else 0) + (if b.aband then 2 ^ 30 else 0) + b.scope * 2 ^ 28 + b.qsz * 2 ^ 20) % 2 ^ 32
  (∀ pa, b.place = .global pa → stands t.mem pa)
    ∧ ∀ k off x, b.place = .spad k off → t.block? k = some x → stands x.spad off

/-- What a barrier instruction leaves: nothing beside its results, the object, the translation it used with what a walk for it leaves,
and since when the street has heard of others. -/
def BarrierOnly (s t : State) : State :=
  { OnlyRegs s t with
    st := { (OnlyRegs s t).st with heard := t.st.heard }
    blk := { s.blk with spad := t.blk.spad }, blocks := t.blocks, cores := t.cores, tlbs := t.tlbs, mem := t.mem
    lineVer := t.lineVer, bars := t.bars, l2 := t.l2, packed := t.packed, wdeltas := t.wdeltas, ctxs := t.ctxs }

/-- The barrier at a place is now b, with its bytes; every other barrier, and every byte of global memory outside the object and the
counter records, is as before. -/
def BarrierNow (s t : State) (b : Barrier) : Prop :=
  t.bars = b :: s.bars.filter (fun c => c.place != b.place) ∧ ObjectWords t b
    ∧ SameMem s t fun a => ∃ pa, b.place = .global pa ∧ pa ≤ a ∧ a < pa + 16

/-- Memory and the scratchpads are in their form. -/
def AllCanonical (s : State) : Prop := s.mem.wf = true ∧ ∀ b ∈ s.allBlocks, b.spad.wf = true

/-- A barrier after one more arrival, of a street of this block (R264). It remembers until its phase completes whether an arrival came
from outside the blocks of its scope, and whether a BAR of another device waits. -/
def arrival (s : State) (b : Barrier) : Barrier :=
  if b.arrived + 1 = b.expected then { b with arrived := 0, phase := (b.phase + 1) % 2 ^ 32, off := false, far := false }
  else { b with arrived := b.arrived + 1, off := b.off || !b.members.contains s.blk.id }

/-- R264 to R266, R297, R298: BAR and BARA arrive on a valid barrier; the arrival that reaches EXPECTED completes the phase, and
a BAR that completes no phase waits; an abandoned barrier gives 1 at once and one that is not valid gives 2, without an
arrival. That a path whose BAR completes the phase keeps its GRANT is deduced (log entry 37). -/
def BarriersCountArrivals : Prop :=
  ∀ (s : State) (x q : RegNo) (u : Bool) (la : BitVec 4) (pl : BarPlace), Still s → AllCanonical s → GroupOk s x →
    ObjectAt s u x q pl →
    (∀ b, s.bar? pl = some b → b.valid = true → b.aband = false →
      (b.arrived + 1 ≠ b.expected → ∃ t, exec (.bar ⟨u, x, q⟩) s = .next t ∧ t = BarrierOnly s t
        ∧ PathWaits s t (.bar pl b.phase x (resultLanes s u) none) ∧ t.st.regs = s.st.regs ∧ BarrierNow s t (arrival s b))
      ∧ (b.arrived + 1 = b.expected → ∃ t, exec (.bar ⟨u, x, q⟩) s = .next t ∧ t = BarrierOnly s t ∧ PathResumes s t
        ∧ Results s t u x 2 (fun i _ => if i = 0 then 0 else (b.phase + 1) % 2 ^ 32) ∧ BarrierNow s t (arrival s b))
      ∧ ∃ t, exec (.bara ⟨u, la, x, q⟩) s = .next t ∧ t = BarrierOnly s t ∧ Advanced s t ∧ Results s t u x 1 (fun _ _ => 0)
        ∧ BarrierNow s t (arrival s b))
    ∧ (∀ b, s.bar? pl = some b → b.valid = true → b.aband = true →
      (∃ t, exec (.bar ⟨u, x, q⟩) s = .next t ∧ t = BarrierOnly s t ∧ Advanced s t ∧ t.bars = s.bars ∧ SameMem s t nowhere
        ∧ Results s t u x 2 fun i _ => if i = 0 then 1 else b.phase)
      ∧ ∃ t, exec (.bara ⟨u, la, x, q⟩) s = .next t ∧ t = BarrierOnly s t ∧ Advanced s t ∧ t.bars = s.bars ∧ SameMem s t nowhere
        ∧ Results s t u x 1 fun _ _ => 1)
    ∧ ((∀ b, s.bar? pl = some b → b.valid = false) →
      (∃ t ph, exec (.bar ⟨u, x, q⟩) s = .next t ∧ t = BarrierOnly s t ∧ Advanced s t ∧ t.bars = s.bars ∧ SameMem s t nowhere
        ∧ Results s t u x 2 (fun i _ => if i = 0 then 2 else ph) ∧ (∀ pa, pl = .global pa → ph = t.mem.nat (pa + 8) 4)
        ∧ ∀ b off k, pl = .spad b off → s.block? b = some k → ph = k.spad.nat (off + 8) 4)
      ∧ ∃ t, exec (.bara ⟨u, la, x, q⟩) s = .next t ∧ t = BarrierOnly s t ∧ Advanced s t ∧ t.bars = s.bars ∧ SameMem s t nowhere
        ∧ Results s t u x 1 fun _ _ => 2)

/-- The blocks that a scope covers: this block, those of its quarter under QSZ, or the whole district (R236, R265). -/
def Covered (s : State) (scope qsz k : Nat) : Prop :=
  match scope with
  | 1 => k = s.blk.id
  | 2 => ∃ c ∈ s.district s.blk, c.id = k ∧ s.blk.dx / 2 ^ min (qsz % 16) 5 = c.dx / 2 ^ min (qsz % 16) 5
      ∧ s.blk.dy / 2 ^ min (qsz / 16) 5 = c.dy / 2 ^ min (qsz / 16) 5
  | _ => ∃ c ∈ s.district s.blk, c.id = k

/-- R265, R266, R297, R298: BARINIT puts an object into service with the count, scope and QSZ, ARRIVED 0, and PHASE kept where it was
valid and else 0; BARINV takes a valid one out of service. No one waits at it here, for BARINIT of no other device either. -/
def BarriersAreSetUpAndTakenDown : Prop :=
  ∀ (w : FE) (s : State) (pl : BarPlace), Still s → AllCanonical s → GroupOk s w.x → ObjectAt s w.u w.x w.q pl →
    let v := argOf s w.u w.x 3
    ((∀ b, s.bar? pl = some b → b.valid = true → b.far = false) →
      (argOf s w.u w.x 2 ≠ 0 → v % 4 ≠ 0 → v / 4 % 64 = 0 → v / 2 ^ 16 = 0 → ∃ t, exec (.barinit w) s = .next t ∧ Advanced s t
      ∧ t = { BarrierOnly s t with st := { (BarrierOnly s t).st with regs := s.st.regs } }
      ∧ ∃ b : Barrier, BarrierNow s t b ∧ b.place = pl ∧ b.valid = true ∧ b.aband = false ∧ b.scope = v % 4 ∧ b.qsz = v / 256
        ∧ b.expected = argOf s w.u w.x 2 ∧ b.arrived = 0 ∧ (∀ k, k ∈ b.members ↔ Covered s (v % 4) (v / 256) k)
        ∧ (∀ c, s.bar? pl = some c → c.valid = true → b.phase = c.phase)
        ∧ ((∀ c, s.bar? pl = some c → c.valid = false) → b.phase = 0))
    ∧ (argOf s w.u w.x 2 = 0 ∨ v % 4 = 0 ∨ v / 4 % 64 ≠ 0 ∨ v / 2 ^ 16 ≠ 0 →
        ∃ u : State, exec (.barinit w) s = .next (u.takeTrap 15 0 0) ∧ u = { s with
          tlbs := u.tlbs, mem := u.mem, lineVer := u.lineVer, l2 := u.l2, packed := u.packed, wdeltas := u.wdeltas, ctxs := u.ctxs }))
    ∧ ∀ b, s.bar? pl = some b → b.valid = true → ∃ t, exec (.barinv w) s = .next t ∧ Advanced s t
        ∧ t = { BarrierOnly s t with st := { (BarrierOnly s t).st with regs := s.st.regs } }
        ∧ BarrierNow s t { b with valid := false, far := false }

/-- The walk program of a lane of TRAV, in the block's scratchpad: its offset, its header and its rules (R331, R337). -/
def progAt (s : State) (x : RegNo) (l : Lane) : Nat := ((s.rdReg 3 (regPlus x 3)).lane l).toNat / 4096 % 4096 * 64
@[inherit_doc progAt] def progHeader (s : State) (x : RegNo) (l : Lane) : Nat := s.blk.spad.nat (progAt s x l) 8
@[inherit_doc progAt] def progRule (s : State) (x : RegNo) (l : Lane) (i : Nat) : Nat :=
  s.blk.spad.nat (progAt s x l + 16 + 8 * i) 8
@[inherit_doc progAt] def ruleCount (s : State) (x : RegNo) (l : Lane) : Nat := progHeader s x l / 2 ^ 16 % 16 + 1

/-- The destination offset of a lane of TRAV (R337). -/
def walkDestAt (s : State) (x : RegNo) (l : Lane) : Nat := ((s.rdReg 3 (regPlus x 3)).lane l).toNat % 4096 * 64

/-- R331, R332, R337: a lane's program and destination lie in the scratchpad, and the program is accepted. -/
def WalkAllowed (s : State) (x : RegNo) (l : Lane) : Prop :=
  let n := ruleCount s x l
  let h := progHeader s x l
  ((s.rdReg 3 (regPlus x 3)).lane l).toNat / 2 ^ 24 = 0 ∧ progAt s x l + 16 + 8 * n ≤ 256 * s.blk.hdr.spad
    ∧ walkDestAt s x l + 64 ≤ 256 * s.blk.hdr.spad
    ∧ h / 2 ^ 20 = 0 ∧ h / 2 ^ 14 % 4 = 0 ∧ h / 2 ^ 12 % 4 ≠ 3 ∧ s.blk.spad.nat (progAt s x l + 8) 8 = 0
    ∧ ∀ i, i < n → let r := progRule s x l i
      r / 2 ^ 30 = 0 ∧ r / 2 ^ 26 % 16 < n ∧ r / 2 ^ 16 % 16 < n ∧ r / 2 ^ 12 % 2 = 0 ∧ r / 2 ^ 22 % 2 = 0 ∧ r / 2 ^ 10 % 4 ≠ 3
        ∧ r / 2 ^ 20 % 4 ≠ 3

/-- R250, R331, R332, R337: TRAV starts one walk for each lane with the lane's pointer, key, program and destination, in that
lane's slot; the walks of other lanes' slots stay. The engine at the die's even stack is the model's choice (log entry 9). -/
def WalksAreStarted : Prop :=
  ∀ (w : FE) (s : State), EngineReady s w.x → s.blk.life = .placed → (∀ l ∈ usedLanes s w.u, WalkAllowed s w.x l) →
    (s.walks.filter fun k => k.sid == s.st.sid && k.ended.isNone && k.op != 0).length + (usedLanes s w.u).length ≤ 256 →
    ∃ t, exec (.trav w) s = .next t ∧ Advanced s t ∧ Numbered s t w.q
      ∧ t = { s with
          st := { s.st with
            ops := s.st.ops ++ [{ id := s.nextId, kind := .trav, depth := s.st.path.depth, lanes := s.st.path.mask }]
            walkSlots := t.st.walkSlots, windows := t.st.windows, paths := t.st.paths, stall := none }
          blk := { s.blk with tls := t.blk.tls }, walks := t.walks, travs := t.travs, nextId := t.nextId }
      ∧ (∀ l ∈ usedLanes s w.u, ∃ k ∈ t.walks, t.st.walkSlots.get l = some k.id
        ∧ k.eng / 4 = 2 * coreDie s.st.core
        ∧ k = { id := k.id, op := s.nextId, sid := s.st.sid, lane := l.val, block := s.blk.id, ctx := s.blk.ctx
                eng := k.eng, due := none, header := progHeader s w.x l
                rules := (List.range (ruleCount s w.x l)).map (progRule s w.x l)
                key := ((s.rdReg 2 (regPlus w.x 2)).lane l).toNat
                p := ((s.rdReg 1 (regPlus w.x 1)).lane l ++ (s.rdReg 0 w.x).lane l).toNat
                rule := 0, last := 0, steps := 0, record := none, skipped := false
                dest := .spad s.blk.id (walkDestAt s w.x l), fault := none, ended := none, trapped := false })
      ∧ (∀ l, l ∉ usedLanes s w.u → t.st.walkSlots.get l = s.st.walkSlots.get l)
      ∧ ∃ ids, t.travs = s.travs ++ [{ id := s.nextId, sid := s.st.sid, block := s.blk.id, tl := numberOf s w.q, left := ids }]
        ∧ ids = (usedLanes s w.u).filterMap t.st.walkSlots.get

/-- The walk in a lane's slot (R337). -/
def walkOf (s : State) (l : Lane) : Option Walk := (s.st.walkSlots.get l).bind fun id => s.walks.find? fun k => k.id == id

/-- R61, R338: TRAVW waits as one entry while a walk of its slots runs; when all have ended it gives each lane the status word, 0 and the
final pointer, 0 without a walk, and empties the slots; a mark of TRAP takes TRAV with the pointer of the lowest such lane, and the
marks are cleared when the trap is taken. -/
def WalksAreWaitedFor : Prop :=
  ∀ (w : FE0) (s : State), EngineReady s w.x →
    ((∃ l ∈ usedLanes s w.u, ∃ k, walkOf s l = some k ∧ k.ended = none) → ∃ t, exec (.travw w) s = .next t
      ∧ PathWaits s t (.trav w.x (if w.u then 1 else s.active) (resultLanes s w.u) w.u)
      ∧ t = { s with st := { s.st with paths := t.st.paths, stall := none } })
    ∧ ((∀ l ∈ usedLanes s w.u, ∀ k, walkOf s l = some k → k.ended ≠ none ∧ k.trapped = false) →
      ∃ t, exec (.travw w) s = .next t ∧ Advanced s t
        ∧ t = { OnlyRegs s t with st := { (OnlyRegs s t).st with walkSlots := t.st.walkSlots }, walks := t.walks }
        ∧ (∀ l, t.st.walkSlots.get l = if l ∈ usedLanes s w.u then none else s.st.walkSlots.get l)
        ∧ Results s t w.u w.x 4 fun i l => match walkOf s (srcLane w.u l) with
          | none => 0
          | some k => if i = 0 then (k.ended.getD 0).toNat else if i = 1 then 0 else k.p / 2 ^ (32 * (i - 2)))
    ∧ ∀ l k, l ∈ usedLanes s w.u → walkOf s l = some k → k.trapped = true →
        (∀ j ∈ usedLanes s w.u, ∀ m, walkOf s j = some m → m.ended ≠ none ∧ (j < l → m.trapped = false)) →
        let trap := s.takeTrap 14 0 k.p
        ∃ t, exec (.travw w) s = .next t ∧ t = { trap with walks := t.walks } ∧ (trap.st.svc ≠ none → t = trap)
          ∧ (trap.st.svc = none → ∀ j ∈ usedLanes s w.u, ∀ m ∈ t.walks, s.st.walkSlots.get j = some m.id → m.trapped = false)

/-- R384: the own fields of a collective descriptor. -/
def CollAllowed (f : Nat → Nat → Nat) : Prop :=
  let c := f 0x18 8
  let e := if 10 ≤ c / 256 % 16 then 2 else 4
  c / 8 % 2 = 0 ∧ c / 64 % 4 = 0 ∧ c / 2 ^ 12 % 16 = 0 ∧ c / 2 ^ 27 = 0 ∧ f 0x14 4 = 0 ∧ f 0x30 8 = 0 ∧ f 0x38 8 = 0
    ∧ c % 8 ≤ 4 ∧ c / 256 % 16 ∈ [0, 1, 2, 10, 11] ∧ f 0x10 4 ≠ 0 ∧ (c % 8 ≤ 1 ∨ c / 16 % 4 = 0)
    ∧ f 0 8 % e = 0 ∧ f 8 8 % e = 0 ∧ f 0x20 8 % 8 = 0

/-- R250, R380, R384, R386: COLL of a context with a live job table, whose SEQ the device has not joined and whose buffers lie on plain
local pages, joins with the rank and the members as the table has them: held entries count among them as live ones, and this device is
found by its FABID, which is deduced (log entry 43). The context has no counter records here. -/
def CollectivesAreJoined : Prop :=
  ∀ (w : FE) (s : State) (pa : Nat → Nat) (slot base : Nat), EngineReady s w.x → s.blk.ctx.ptpoollen = 0 →
    RecordAt s w.u w.x 64 64 pa →
    let f := field s pa
    let r := recordBytes s pa 64
    CollAllowed f → (s.st.ops.filter fun o => o.kind == .coll).length < 4 → s.jobOf s.blk.ctx = some (slot, base) →
    f 0x28 8 ∉ (s.job slot).joined → f 0x28 8 ∉ (s.job slot).aborted →
    s.badBuffers s.blk.ctx r (s.members base).length = false →
    ∃ t, exec (.coll w) s = .next t ∧ Advanced s t ∧ Numbered s t w.q
      ∧ t = { withOp s t .coll with
          st := { (withOp s t .coll).st with coll := some s.nextId }, blk := { s.blk with tls := t.blk.tls }, jobs := t.jobs
          mem := s.mem
          colls := s.colls ++ [({
            id := s.nextId, sid := s.st.sid, block := s.blk.id, ctx := s.blk.ctx, slot := slot, desc := r
            addr := argAddr s w.u w.x, seq := f 0x28 8, rank := (s.ownRank base).getD 0, n := (s.members base).length
            members := s.members base, shrunk := false, joinedAt := s.timeNs, status := .running
            tl := numberOf s w.q } : Coll)] }
      ∧ (t.job slot).joined = (s.job slot).joined ++ [f 0x28 8] ∧ ∀ j, j ≠ slot → t.job j = s.job j

/-- STATUS of a collective (R386): a running one that needs a held member is HELD (R383). -/
def statusNo (s : State) (c : Coll) : Nat :=
  match c.status with
  | .running => if (match s.jobTable c.slot with | some b => s.anyHeld b | none => false) then 5 else 1
  | .done => 2 | .shrunk => 3 | .mismatch => 4 | .held => 5 | .rootlost => 6 | .refused => 7

/-- R383, R386: COLLSTAT gives the status of the street's latest COLL in bits 31 to 28, NONE where there is none, and N, in which held
entries count (DEDUCED, log entry 43). -/
def CollectiveStatusIsReported : Prop :=
  ∀ (w : FEL) (s : State), EngineReady s w.x →
    ∃ t, exec (.collstat w) s = .next t ∧ Advanced s t ∧ t = OnlyRegs s t
      ∧ Results s t w.u w.x 2 fun i _ =>
          if i = 1 then (match s.jobOf s.blk.ctx with | some (_, base) => (s.members base).length | none => 0)
          else 2 ^ 28 * match (s.st.coll.bind fun id => s.colls.find? fun c => c.id == id) with
            | none => 0
            | some c => statusNo s c

end Sys2Proof.Say

/-! ### Events of the surroundings: windows, power, boot, links and jobs -/

namespace Sys2Proof.Say

/-- The number of a master (R350). -/
def ownerNo (m : Master) : Nat := match m with | .pcieHost => 1 | .mgmtNetwork => 2 | .residentOs => 3

/-- A write that is ignored for want of ownership: DENIED counts it, saturating (R350). -/
def deniedIn (s : State) : State := { s with pkg := { s.pkg with denied := min (s.pkg.denied + 1) (2 ^ 32 - 1) } }

/-- One core's record has changed, and nothing else. -/
def CoreIs (s t : State) (core : Nat) (c : Core) : Prop :=
  t = { s with cores := t.cores } ∧ t.core core = c ∧ ∀ k, k ≠ core → t.core k = s.core k

/-- One die's record has changed, and nothing else. -/
def DieIs (s t : State) (die : Nat) (d : Die) : Prop :=
  t = { s with dies := t.dies } ∧ t.die die = d ∧ ∀ k, k ≠ die → t.die k = s.die k

/-- The address of a package register, and of a register of a die (R344). -/
def pkgReg (off : Nat) : Nat := 0xF000400000000 + off
@[inherit_doc pkgReg] def dieReg (die off : Nat) : Nat := 0xF000000000000 + die * 2 ^ 32 + off

/-- R350, R351: CLAIM takes ownership where there is none, for the master of the lowest number among those that claim in one cycle;
HANDTO passes it; a control write of another master than the owner is ignored and counted in DENIED. -/
def WindowsHaveOneOwner : Prop :=
  ∀ (m : Master) (s : State),
    (∀ rivals v, s.pkg.owner = 0 → v % 8 ≠ 0 → ∃ w, (w = m ∨ w ∈ rivals) ∧ (∀ x, x = m ∨ x ∈ rivals → ownerNo w ≤ ownerNo x)
      ∧ exec (.claim ⟨m, rivals⟩ v) s
        = .next { s with pkg := { s.pkg with owner := ownerNo w, changes := (s.pkg.changes + 1) % 65536 } })
    ∧ (∀ rivals v, s.pkg.owner ≠ 0 → exec (.claim ⟨m, rivals⟩ v) s = .next s)
    ∧ (∀ v, s.pkg.owner = ownerNo m → v ∈ [1, 2, 3] → v ≠ s.pkg.owner → exec (.handto m v) s
      = .next { s with pkg := { s.pkg with owner := v, changes := (s.pkg.changes + 1) % 65536 } })
    ∧ (∀ v, s.pkg.owner ≠ ownerNo m → exec (.handto m v) s = .next s)
    ∧ (s.pkg.owner ≠ ownerNo m → ∀ (a b c : Nat) (f : Bool) (v : Addr),
        ∀ i ∈ [Instr.tlbiPage m a b f, .tlbiContext m a b f, .tlbiAll m a b f, .hctlClear m a, .spctlClr m a, .bankRetire m a b c,
          .snap m a, .close m a, .plimWrite m a, .rangeMonitorClear m a b, .registerWrite m (pkgReg 0x10) v,
          .registerWrite m (pkgReg 0x500) v], exec i s = .next (deniedIn s))

/-- R170, R180, R318, R344, R346, R352, R358, R369: the owner's writes: an invalidation is started, a core's stall counters and
error counts are cleared, a bank is retired once for its group, a weigh request is made, PLIM takes a value in its range, a
range monitor is cleared, and a register takes what is written to it; HEAD of a die queue takes it from any master. Writes
taken from every master and values ignored are deduced (log entry 42). -/
def WindowsTakeTheOwnersWrites : Prop :=
  ∀ (m : Master) (s : State),
    (s.pkg.owner = ownerNo m →
      (∀ (die ctx : Nat) (f : Bool), (s.die die).tlbi.busy = false →
        ∀ p ∈ [(Instr.tlbiPage m die ctx f, 0), (.tlbiContext m die ctx f, 1), (.tlbiAll m die ctx f, 2)],
          ∃ t, exec p.1 s = .next t ∧ DieIs s t die
            { s.die die with tlbi := { (s.die die).tlbi with busy := true, pcflush := f, kind := p.2, ctx := ctx } })
      ∧ (∀ core, ∃ t, exec (.hctlClear m core) s = .next t ∧ CoreIs s t core
          { s.core core with bins := List.replicate 18 0, reasons := List.replicate 30 0 })
      ∧ (∀ core, ∃ t, exec (.spctlClr m core) s = .next t ∧ CoreIs s t core { s.core core with cecnt := 0, uecnt := 0 })
      ∧ (∀ core g bank, ∃ t, exec (.bankRetire m core g bank) s = .next t ∧ CoreIs s t core
          { s.core core with ret := (s.core core).ret.modify g fun r => if r.1 = true then r else (true, bank % 8) })
      ∧ (s.pkg.wbusy = false → ∀ ctx,
          exec (.snap m ctx) s = .next { s with pkg := { s.pkg with wctx := ctx % 2 ^ 32, wbusy := true, wreq := 1 } }
          ∧ exec (.close m ctx) s = .next { s with pkg := { s.pkg with wctx := ctx % 2 ^ 32, wbusy := true, wreq := 2 } })
      ∧ (∀ v, exec (.plimWrite m v) s =
          .next (if 1000 ≤ v ∧ v ≤ 2800 then { s with pkg := { s.pkg with plim := v } } else s))
      ∧ (∀ die mon, ∃ t, exec (.rangeMonitorClear m die mon) s = .next t ∧ DieIs s t die
          { s.die die with mons := (s.die die).mons.modify mon fun r =>
              { r with min := 2 ^ 64 - 1, max := 0, bins := List.replicate 16 0 } })
      ∧ ∀ v : Addr, exec (.registerWrite m (pkgReg 0x10) v) s = exec (.plimWrite m (v.toNat % 2 ^ 12)) s
          ∧ exec (.registerWrite m (pkgReg 0x208) v) s = .next { s with pkg := { s.pkg with wrec := v.toNat % 2 ^ 52 } }
          ∧ exec (.registerWrite m (pkgReg 0x500) v) s = .next { s with pkg := { s.pkg with fabid := v.toNat % 2 ^ 11 } }
          ∧ exec (.registerWrite m (pkgReg 0x7F0) v) s = .next s)
    ∧ ∀ (die : Nat) (v : Addr), die < 4 → (s.die die).faults.waiting = [] → (s.die die).stops.waiting = [] →
        ∃ t, exec (.registerWrite m (dieReg die 0x910) v) s = .next t
          ∧ DieIs s t die { s.die die with faults := { (s.die die).faults with head := v.toNat } }

/-- The address of a register of a core (R344). -/
def coreReg (core off : Nat) : Nat := dieReg (core / 384) (0x1000000 + core % 384 * 65536 + off)

/-- R6, R170, R318, R344 to R346, R349, R351, R352: what the eight bytes at an address of the windows read as: ELECT, PLIM, the
clock and the power, the measurements, a die's TLBICTL and HEAD, a core's stall counters; GO of TLBICTL, an offset that is
not listed and an address below the windows read as zero. A read as a function of the state is deduced (log entry 65). -/
def WindowsAreRead : Prop :=
  ∀ s : State,
    (∀ pa, pa < 0xF000000000000 → s.windowRead pa = 0) ∧ s.windowRead (pkgReg 0x7F0) = 0 ∧ s.windowRead (dieReg 0 0x700) = 0
    ∧ s.windowRead (pkgReg 0) = BitVec.ofNat 64 (s.pkg.denied % 2 ^ 32 * 2 ^ 32 + s.pkg.changes % 65536 * 65536 + s.pkg.owner % 8)
    ∧ s.windowRead (pkgReg 0x10) = BitVec.ofNat 64 (s.pkg.plim % 4096)
    ∧ (s.windowRead (pkgReg 0x18)).extractLsb' 32 16 = BitVec.ofNat 16 s.pkg.mhz
    ∧ (s.windowRead (pkgReg 0x18)).extractLsb' 48 16 = BitVec.ofNat 16 s.pkg.power
    ∧ ((s.windowRead (pkgReg 0x18)).getLsbD 0 = true ↔ s.pkg.mhz < 4000)
    ∧ ((∀ m ∈ s.pkg.meas, m.length = 32) → ∀ k i, k < s.pkg.meas.length → k < 8 → i < 4 →
        s.windowRead (pkgReg (0x100 + 32 * k + 8 * i)) = BitVec.ofNat 64 (leNat (((s.pkg.meas.getD k []).drop (8 * i)).take 8)))
    ∧ (∀ die, die < 4 → ((s.windowRead (dieReg die 0x800)).getLsbD 63 = (s.die die).tlbi.busy)
        ∧ (s.windowRead (dieReg die 0x800)).getLsbD 35 = false
        ∧ s.windowRead (dieReg die 0x910) = BitVec.ofNat 64 (s.die die).faults.head)
    ∧ ∀ core k, core < 1536 → k < 9 → s.windowRead (coreReg core (0x200 + 8 * k)) = BitVec.ofNat 64 (nth (s.core core).bins k)

/-- A translation entry that an invalidation of this KIND covers (R318). -/
def coveredBy (kind ctx va : Nat) (e : TlbEntry) : Bool :=
  match kind with
  | 0 => decide (e.ctx = ctx ∧ e.base ≤ va ∧ va < e.base + e.size)
  | 1 => decide (e.ctx = ctx)
  | 2 => true
  | _ => false

end Sys2Proof.Say

/-- R318, R357 to R360, R369: a started invalidation drops the entries it covers and clears BUSY, once no access translated with
them stands out (an MRED, one to another device, one in a pair buffer: `State.tlbiHeld`); a SNAP request copies the counters; a
CLOSE request of a context that is not in use writes its record and deletes its area, and one in use gives status 3; a sample
reaches the monitors of its source. -/
def Obligations.ManagementRequestsComplete : Prop :=
  ∀ s : State,
    (∀ die, let b := (s.die die).tlbi
      (b.busy = true → s.tlbiHeld b = true → exec (.tlbiComplete die) s = .next s)
      ∧ (b.busy = true → s.tlbiHeld b = false → NoMonitors s → ∃ t, exec (.tlbiComplete die) s = .next t
        ∧ t = { s with tlbs := t.tlbs, dies := t.dies, mem := t.mem, lineVer := t.lineVer }
        ∧ t.tlbs = s.tlbs.filter (fun e => !coveredBy b.kind b.ctx b.va e) ∧ (t.die die).tlbi = { b with busy := false }
        ∧ (b.pcflush = false → t.mem = s.mem)))
    ∧ (s.pkg.wbusy = true → (∀ d ∈ s.wdeltas, d.ctx ≠ s.pkg.wctx) →
      ((∀ a ∈ s.ctxs, a.ctx ≠ s.pkg.wctx) → exec .wctlRequestComplete s
        = .next { s with pkg := { s.pkg with wbusy := false, wstatus := 1 } })
      ∧ ∀ a, (s.ctxs.find? fun x => x.ctx == s.pkg.wctx) = some a →
        (s.pkg.wreq = 1 → exec .wctlRequestComplete s = .next { s with
          pkg := { s.pkg with snapCnt := a.counters, snapMask := a.mask, wbusy := false, wstatus := 0 } })
        ∧ (s.pkg.wreq ≠ 1 → s.inUse s.pkg.wctx = true → exec .wctlRequestComplete s
          = .next { s with pkg := { s.pkg with wbusy := false, wstatus := 3 } })
        ∧ (s.pkg.wreq = 2 → s.inUse s.pkg.wctx = false → s.pkg.nextIndex < 2 ^ 40 → (∀ k ∈ s.qlock, k.1 ≠ a.ctx) → s.bars = [] →
          s.mem.wf = true →
          let at_ := s.pkg.wrec % 2 ^ 52 / 64 * 64
          hbmHas at_ = true → hbmHas (at_ + 384 + 3604 - 1) = true →
          ∃ t, exec .wctlRequestComplete s = .next t ∧ t.ctxs = s.ctxs.filter (fun x => x.ctx != a.ctx)
            ∧ t.pkg.wbusy = false ∧ t.pkg.wstatus = 0 ∧ t.pkg.nextIndex = s.pkg.nextIndex + 1
            ∧ t.mem.readN at_ 4 = [0x5A, 0x4B, 0x57, 0x43] ∧ t.mem.nat (at_ + 8) 4 = a.ctx % 2 ^ 32
            ∧ t.mem.nat (at_ + 12) 4 = a.pid % 2 ^ 32
            ∧ (∀ i, i < 32 → t.mem.nat (at_ + 64 + 8 * i) 8 = nth a.counters i % 2 ^ 64)
            ∧ t.mem.readN (at_ + 320) 32 = s.mem.readN (a.desc + 0x80) 32
            ∧ ∀ x, (x < at_ ∨ at_ + 384 + 3604 ≤ x) → t.mem.read x = s.mem.read x))
    ∧ ∀ die source v, source < 8 → ∃ t, exec (.rangeMonitorSample die source v) s = .next t
        ∧ DieIs s t die { s.die die with mons := (s.die die).mons.map fun r =>
            if r.en = true ∧ r.source = source then
              { r with min := min r.min v, max := max r.max v
                       bins := r.bins.modify (if v < r.base then 0 else min ((v - r.base) / 2 ^ r.shift) 15)
                         fun n => min (n + 1) (2 ^ 64 - 1) }
            else r }

namespace Sys2Proof.Say

/-- What is left when the power goes: the flash of the security core (R359, R360). -/
def unpowered (s : State) : State :=
  { State.reset with pkg := { Package.zero with
      powered := false, bootno := s.pkg.bootno, reserve := s.pkg.reserve, nextIndex := s.pkg.reserve } }

/-- R348: an image of this KIND and its signature pass the checks. -/
def ImagePasses (kind : Nat) (r sig : List Byte) : Prop :=
  r.take 4 = [0x5A, 0x4B, 0x49, 0x4D] ∧ recNat r 8 4 = kind ∧ Config.minVersion kind ≤ recNat r 4 4 ∧ 64 ≤ r.length ∧ recNat r 0x18 8 + 64 = r.length ∧ Config.imageKeyAccepts r sig = true

/-- R347 to R349, R352, R359, R360: power loss and a thermal shutdown leave the flash alone; a clock step moves the frequency by
the power limit and marks each die at 105 °C; an image that has come is verified, and when it passes it is measured, its body
stands at its load address and the boot goes on; one that fails is fetched again; a failed fetch goes to port 1, then to the
wait of a second; a measurement is extended by SHA-256. The time of the load and the phases shown are the model's choice (log
entry 62). SHA-256 is presumed (log entry 30); what extends a measurement and the clock of a hot die are deduced (log entries
44 and 63). -/
def PowerAndBoot : Prop :=
  ∀ s : State,
    exec .powerLoss s = .next (unpowered s) ∧ (1 ≤ s.pkg.hotMs → exec .thermalShutdown s = .next (unpowered s))
    ∧ (∀ power temps, power < 65536 → (∀ x ∈ temps, x < 256) →
        let top := temps.foldl max 0
        ∃ t, exec (.clockStep power temps) s = .next t ∧ t = { s with pkg := t.pkg, dies := t.dies }
          ∧ t.pkg = { s.pkg with
              power := power, temp := top, hotMs := (if 115 ≤ top then s.pkg.hotMs + 1 else 0)
              mhz := (if s.pkg.plim < power then max 2000 (s.pkg.mhz - 125)
                else if power + 50 < s.pkg.plim then min 4000 (s.pkg.mhz + 125) else s.pkg.mhz) }
          ∧ ∀ d, d < 4 → t.die d = { s.die d with hot := decide (105 ≤ temps.getD d 0), owed := 0 })
    ∧ (∀ k d, 3 ≤ k → k ≤ 7 → exec (.measExtend k d) s = .next { s with
        pkg := { s.pkg with meas := s.pkg.meas.modify k fun x => sha256 (x ++ d) } })
    ∧ (s.pkg.phase = 15 → exec .bootRetry s = .next { s with
        pkg := { s.pkg with port := 0, phase := (if s.pkg.image = 1 then 1 else 3), fetched := none } })
    ∧ (s.pkg.phase ≠ 15 → s.pkg.image ≤ 3 → s.pkg.fetched = none →
        exec (.imageFetchComplete s.pkg.port .begun) s = .next { s with
          pkg := { s.pkg with phase := if s.pkg.image = 1 then 1 else 3 } }
        ∧ (s.pkg.port = 0 → exec (.imageFetchComplete 0 .failed) s = .next { s with
          pkg := { s.pkg with port := 1, phase := if s.pkg.image = 1 then 1 else 3 } })
        ∧ (s.pkg.port = 1 → exec (.imageFetchComplete 1 .failed) s = .next { s with pkg := { s.pkg with port := 0, phase := 15 } })
        ∧ ∀ r sig, exec (.imageFetchComplete s.pkg.port (.image r sig)) s = .next { s with
            pkg := { s.pkg with fetched := some (r, sig), phase := if s.pkg.image = 1 then 2 else s.pkg.phase } })
    ∧ ∀ r sig, s.pkg.phase ≠ 15 → s.pkg.image ≤ 3 → s.pkg.fetched = some (r, sig) →
        (¬ ImagePasses s.pkg.image r sig → exec (.imageFetchComplete s.pkg.port .verified) s = .next { s with
          pkg := { s.pkg with port := 0, phase := (if s.pkg.image = 1 then 1 else 3), fetched := none } })
        ∧ (ImagePasses s.pkg.image r sig → s.bars = [] → NoMonitors s → s.mem.wf = true →
          let load := recNat r 0x10 8
          let body := r.drop 64
          ∃ t, exec (.imageFetchComplete s.pkg.port .verified) s = .next t
            ∧ t.pkg = { s.pkg with
                meas := s.pkg.meas.modify (s.pkg.image - 1) (fun x => sha256 (x ++ sha256 r)), image := s.pkg.image + 1, port := 0
                phase := (if s.pkg.image = 3 then 4 else 3), fetched := none, entries := s.pkg.entries ++ [recNat r 0x20 8] }
            ∧ t.st = s.st ∧ t.streets = s.streets ∧ t.blk = s.blk ∧ t.blocks = s.blocks
            ∧ (hbmHas load = true → hbmHas (load + body.length - 1) = true → t.mem.readN load body.length = body)
            ∧ ∀ a, (a < load ∨ load + body.length ≤ a) → t.mem.read a = s.mem.read a)

/-- R376, R377: a link that comes up shows its peer; a replayed flit is counted; a port runs on with the lanes left, DEGRADED, and is
DOWN with none. -/
def LinksReportTheirState : Prop :=
  ∀ (s : State) (p : Nat),
    let with_ (f : Port → Port) : State := { s with pkg := { s.pkg with ports := s.pkg.ports.modify p f } }
    (∀ d q l, d < 2048 → q < 64 → l < 16 →
      exec (.linkUp p d q l) s = .next (with_ fun x => { x with peer := d, peerport := q, lanes := l, state := 2 }))
    ∧ exec (.flitReplay p) s = .next (with_ fun x => { x with retries := min (x.retries + 1) 65535 })
    ∧ ∀ l, exec (.laneLoss p l) s = .next (with_ fun x =>
        { x with lanes := x.lanes &&& l, state := if x.lanes &&& l = 0 then 0 else if x.lanes &&& l = x.lanes then x.state else 3 })

/-- The byte that holds STATE of an entry of a job's table (R380). -/
def stateByte (base e : Nat) : Nat := base + 0x40 + 32 * e + 18

/-- R361, R380, R381, R383: heartbeats are sent every 10 µs and restart a member's timer; a member whose timer has run out, or
that has not joined a collective within PTO of its first join, is declared failed: the collectives in flight restart without
it, and the table's DIGEST becomes that of the new membership message; HOLD and RELEASE of a peer set its STATE. No request
stands out at a device, no barrier in memory and no monitor here, no descriptor's JOBDIGEST overlaps the entry, and the heartbeat received
tells of no joins. DIGEST is a SHA-256, whose function is presumed (log entry 30). When this
device signs is the model's choice, how progress is held against a member deduced (log entries 64 and 43). -/
def MembersAreWatched : Prop :=
  ∀ (s : State) (job base dev e : Nat), s.jobTable job = some base → s.entryOfDev base dev = some e → dev ≠ s.pkg.fabid →
    s.bars = [] → NoMonitors s → s.remote = [] → s.mem.wf = true →
    (∀ a ∈ s.ctxs, a.desc + 0xA0 ≤ stateByte base e ∨ stateByte base e < a.desc + 0x80) →
    let failed (t : State) : Prop :=
      t = { s with
        mem := t.mem, lineVer := t.lineVer, jobs := t.jobs
        pkg := { s.pkg with reserve := t.pkg.reserve, nextIndex := t.pkg.nextIndex }
        colls := s.colls.map fun (c : Coll) =>
          if c.slot = job ∧ c.status = .running ∧ c.members.contains dev = true then { c with shrunk := true } else c }
      ∧ t.mem.nat (stateByte base e) 1 = 1
      ∧ t.mem.readN base 32 = sha256 ({ s with mem := s.mem.putNat (stateByte base e) 1 1 }.memberMessage base)
    ((s.job job).nextBeat ≤ s.timeNs → ∃ t, exec (.heartbeatSend job) s = .next t ∧ t = { s with jobs := t.jobs }
      ∧ t.job job = { s.job job with nextBeat := s.timeNs + 10000 })
    ∧ (s.timeNs < (s.job job).nextBeat → exec (.heartbeatSend job) s = .next s)
    ∧ (∃ t, exec (.heartbeatReceive job ⟨dev, []⟩) s = .next t ∧ t = { s with jobs := t.jobs } ∧ (t.job job).lastBeat dev = s.timeNs
      ∧ ∀ d, d ≠ dev → (t.job job).lastBeat d = (s.job job).lastBeat d)
    ∧ (s.tabState base e ≠ 1 → (s.job job).lastBeat dev + 1000 * s.mem.nat (base + 0x34) 4 ≤ s.timeNs →
        ∃ t, exec (.heartbeatTimeout job dev) s = .next t ∧ failed t)
    ∧ (s.tabState base e = 0 → s.anyHeld base = false →
        (∃ x ∈ (s.job job).joins, (∀ y ∈ (s.job job).joins, y.1 = x.1 → y.2.1 ≠ dev)
          ∧ max x.2.2 (s.job job).progress + 1000 * s.mem.nat (base + 0x38) 4 ≤ s.timeNs) →
        ∃ t, exec (.progressTimeout job dev) s = .next t ∧ failed t)
    ∧ (s.tabState base e = 0 → ∃ t, exec (.hold job dev) s = .next t
        ∧ t = { s with mem := t.mem, lineVer := t.lineVer, jobs := t.jobs }
        ∧ t.mem = s.mem.putNat (stateByte base e) 1 2)
    ∧ (s.tabState base e = 2 → ∃ t, exec (.release job dev) s = .next t
        ∧ t = { s with mem := t.mem, lineVer := t.lineVer, jobs := t.jobs }
        ∧ t.mem = s.mem.putNat (stateByte base e) 1 0 ∧ (t.job job).progress = s.timeNs)

/-- A collective of the device without a stamp and a timeline, whose block is placed. -/
def PlainColl (s : State) (c : Coll) : Prop :=
  c ∈ s.colls ∧ (∀ k ∈ s.colls, k.id = c.id → k = c) ∧ c.status = .running ∧ c.tl = none ∧ recNat c.desc 0x20 8 = 0
    ∧ ∃ b, s.block? c.block = some b ∧ b.life = .placed

/-- Every collective is as before, but this one has a status, and its operation is over in its street. -/
def CollEnds (s t : State) (c : Coll) (st : CollStatus) : Prop :=
  t.colls = s.colls.map (fun (k : Coll) => if k.id = c.id then { k with status := st } else k)
    ∧ ∀ x ∈ t.allStreets, x.sid = c.sid → ∀ o ∈ x.ops, o.id ≠ c.id

/-- R382, R384, R386: a collective whose members disagree, or one of which aborts, completes with MISMATCH and leaves DST as it
was; a broadcast that completes gives this device ROOT's slot of bytes in DST, here within one sector. The operands of other
members come with the event (log entry 43). -/
def CollectivesComplete : Prop :=
  ∀ (s : State) (c : Coll) (base : Nat), PlainColl s c →
    ((∀ k ∈ s.colls, k.slot = c.slot → k.seq = c.seq → k.status = .running → k = c) →
      ∃ t, exec (.abort c.slot c.seq) s = .next t ∧ CollEnds s t c .mismatch ∧ t.mem = s.mem)
    ∧ (s.jobTable c.slot = some base → s.anyHeld base = false →
      (∃ t, exec (.collectiveComplete c.id .mismatch) s = .next t ∧ CollEnds s t c .mismatch ∧ t.mem = s.mem)
      ∧ ∀ (contrib : List (List Byte)) (pa pte ea b z : Nat),
        let k := recNat c.desc 0x10 4 * (if 10 ≤ recNat c.desc 0x18 8 / 256 % 16 then 2 else 4)
        let root := recNat c.desc 0x18 8 / 65536 % 2048
        let dst := recNat c.desc 8 8
        let die := match s.block? c.block with | some x => coreDie x.core | none => 0
        recNat c.desc 0x18 8 % 8 = 3 → c.rank ≠ root → c.shrunk = false → root < c.n → s.badBuffers c.ctx c.desc c.n = false →
        s.memberState base (nth c.members root) ≠ 1 → k ≠ 0 → k ≤ (contrib.getD root []).length → dst % 32 + k ≤ 32 →
        Quiet s → s.mem.wf = true → c.ctx.ptpoollen = 0 → translate s (agentColl die) c.ctx dst .write = .ok pa pte ea b z → pteRH pte = false →
        s.privateTo none c.ctx.ctxid dst pa = false →
        pa % 32 = dst % 32 →
        ∃ t, exec (.collectiveComplete c.id (.complete contrib)) s = .next t ∧ CollEnds s t c .done
          ∧ t.mem.readN pa k = (contrib.getD root []).take k ∧ ∀ a, (a < pa ∨ pa + k ≤ a) → t.mem.read a = s.mem.read a)

end Sys2Proof.Say

/-! ### Events of cores: faults, halts, errors, saves and pairs -/

namespace Sys2Proof.Say

/-- The street in focus is the only one with its STREETID. -/
def OnlyStreet (s : State) : Prop := s.st.there = true ∧ ∀ x ∈ s.streets, x.sid ≠ s.st.sid

/-- The bytes by which the resident OS mends its page tables are in memory. -/
def mended (m : Memory) (fix : List Host.Cell) : Memory :=
  fix.foldl (fun m c => if hbmHas c.1 then m.write c.1 c.2 else m) m

/-- R29, R149, R155, R161, R243, R370, R371: a passed fault point closes its window, whose result and flags are then visible; the
replay of a serviced fault releases the street after the page tables are written; a halt request stops a street, or every
street of a context, at its next boundary, at trap level 1 at once under force, a saved one so when it is restored; that of a thread of a system core posts a
stop record without a street; a stopped street continues, at another PC where one is given; a YIELD ends after its cycles.
How a context or a thread is stopped is the model's choice (log entry 66). -/
def StreetsAreHeldAndReleased : Prop :=
  ∀ s : State, OnlyStreet s → NoMonitors s → s.bars = [] → s.mem.wf = true →
    (∀ i w, s.st.windows[i]? = some w → w.pan = none → exec (.faultPoint s.st.sid i) s = .next { s with
      st := { s.st with windows := s.st.windows.eraseIdx i } })
    ∧ (∀ fix, s.st.svc ≠ none → ∃ t, exec (.servicedFaultReplay (.street s.st.sid) fix) s = .next t
      ∧ t = { s with st := { s.st with svc := none, stall := none }, mem := mended s.mem fix, lineVer := t.lineVer })
    ∧ (s.st.life = .running ∨ s.st.life = .saved → ∀ f, (s.st.life = .saved ∨ s.st.tlevel = false ∨ f = false) →
      exec (.haltRequest (.street s.st.sid) f) s = .next { s with st := { s.st with
        haltReq := true, haltForce := s.st.haltForce || (f && decide (s.st.life = .saved)) } })
    ∧ (s.st.life = .running → s.st.tlevel = true → s.st.pair = none → ∃ t, exec (.haltRequest (.street s.st.sid) true) s = .next t
      ∧ t.st.life = .halted ∧ t.st.regs = s.st.regs ∧ t.st.paths = s.st.paths)
    ∧ (∀ die pid tid pc f, (s.die die).stops.full = false → (s.die die).stops.waiting = [] →
      ∃ t, exec (.haltRequest (.thread die pid tid pc) f) s = .next t
        ∧ t = { s with mem := t.mem, lineVer := t.lineVer, dies := t.dies }
        ∧ (let at_ := (s.die die).stops.base + 64 * ((s.die die).stops.tail % 2 ^ (s.die die).stops.log2)
          t.mem.nat at_ 4 = pid % 2 ^ 32 ∧ t.mem.nat (at_ + 4) 4 = tid % 2 ^ 32 ∧ t.mem.nat (at_ + 8) 4 = 0xFFFFFFFF
            ∧ t.mem.nat (at_ + 16) 8 = pc.toNat)
        ∧ (t.die die).stops = { (s.die die).stops with tail := ((s.die die).stops.tail + 1) % 2 ^ 64 })
    ∧ (s.st.life = .running → s.st.block = s.blk.id → s.blk.life = .placed →
      ∃ t, exec (.haltRequest (.context s.blk.ctx.ctxid) false) s = .next t ∧ t.st = { s.st with haltReq := true }
        ∧ s.blk.ctx.ctxid ∈ t.stopped)
    ∧ (s.st.life = .running → ∃ t, exec (.blockHalt s.st.block) s = .next t ∧ t.st = { s.st with haltReq := true }
      ∧ t = { s with st := t.st, streets := t.streets }
      ∧ ∀ x ∈ t.streets, x.there = true → x.block = s.st.block → (x.life = .running ∨ x.life = .saved) → x.haltReq = true)
    ∧ (s.st.life = .debugStop ∨ s.st.life = .halted → s.st.block = s.blk.id → s.blk.life = .placed →
      (∀ x ∈ s.st :: s.streets, ∀ i, (x.paths.get i).reason ≠ .wait) →
      (∃ t, exec (.continueRun s.st.block none none) s = .next t ∧ t.st = { s.st with life := .running, ready := s.clock }
        ∧ t = { s with st := t.st, streets := t.streets, stopped := s.stopped.filter fun c => c != s.blk.ctx.ctxid })
      ∧ ∀ pc i, s.st.lastSel = some i → ∃ t, exec (.continueRun s.st.block (some s.st.sid) (some pc)) s = .next t
        ∧ t.st = { s.st with
            life := .running, ready := s.clock, watchSkip := none
            paths := s.st.paths.set i { s.st.paths.get i with pc := pc } })
    ∧ (s.st.yieldUntil ≤ s.clock → exec (.yieldExpiry s.st.sid) s = .next { s with
      st := { s.st with yieldUntil := 0, ready := s.clock } })

/-- R186, R201: a monitor that fires ends the wait of WAITA on its line and is freed; the path goes on at the next instruction. -/
def MonitorsEndWaits : Prop :=
  ∀ (s : State) (i : Fin 8) (line : Nat), s.st.life = .running → s.blk.life = .placed → s.st.block = s.blk.id →
    (s.st.paths.get i).reason = .wait → (s.st.paths.get i).wait = .waita [line] false → s.st.isHeld i = false →
    (∀ j, j ≠ i → (s.st.paths.get j).wait = .none) → (∀ x ∈ s.streets, ∀ j, (x.paths.get j).wait = .none) →
    (∃ c ∈ s.cores, ∃ m ∈ c.monitors, m.line = line) → (∀ x ∈ s.l2, x.line ≠ line) →
    ∃ t, exec (.monitorFire line) s = .next t
      ∧ (let e : PathEntry := { s.st.paths.get i with pc := (s.st.paths.get i).pc + 4, reason := .branch, wait := .none }
         t.st = { s.st with paths := s.st.paths.set i e })
      ∧ t = { s with st := t.st, cores := t.cores, dies := t.dies } ∧ ∀ c ∈ t.cores, ∀ m ∈ c.monitors, m.line ≠ line

end Sys2Proof.Say

/-- R179, R180, R185, R365: one flip is corrected and counted, more stand in their place where it holds a word (log entry 50);
after 1,024 corrected errors a record of KIND 4 is made; a parity row is current once its update is complete; an L1 line may
leave at any time. -/
def Obligations.SoftErrorsAreHandled : Prop :=
  ∀ s : State,
    (∀ core w, ∃ t, exec (.softError (.spad core w) 1) s = .next t
      ∧ t = { s with cores := t.cores, corrected := t.corrected }
      ∧ t.core core = { s.core core with cecnt := min ((s.core core).cecnt + 1) 65535 })
    ∧ (∀ loc n, 2 ≤ n → s.holdsWord loc = true → exec (.softError loc n) s = .next { s with
        upsets := (loc, n) :: s.upsets.filter fun u => u.1 != loc })
    ∧ (∀ loc n, s.holdsWord loc = false → exec (.softError loc n) s = .next s)
    ∧ (∀ die place n rest, s.corrected = (die, place, n) :: rest → 1024 ≤ n → (s.die die).mchecks.full = false → s.bars = [] → NoMonitors s →
      s.mem.wf = true →
      let at_ := (s.die die).mchecks.base + 64 * ((s.die die).mchecks.tail % 2 ^ (s.die die).mchecks.log2)
      ∃ t, exec (.correctedErrorThreshold die place) s = .next t
        ∧ t = { s with corrected := t.corrected, mem := t.mem, lineVer := t.lineVer, dies := t.dies }
        ∧ t.corrected.head? = some (die, place, n - 1024) ∧ t.mem.nat at_ 4 = 4
        ∧ (t.die die).mchecks.tail = ((s.die die).mchecks.tail + 1) % 2 ^ 64
        ∧ ∀ a, (a < at_ ∨ at_ + 64 ≤ a) → t.mem.read a = s.mem.read a)
    ∧ (∀ core, ∃ t, exec (.parityUpdate core) s = .next t ∧ CoreIs s t core
      { s.core core with stale := (s.core core).stale.filter fun r => decide (s.clock < r.2.2) })
    ∧ ∀ core line, ∃ t, exec (.l1Eviction core line) s = .next t ∧ CoreIs s t core
      { s.core core with l1 := (s.core core).l1.filter fun x => decide (x.pa / 4 ≠ line) }

namespace Sys2Proof.Say

/-- The block in focus is placed, alone under its number and not paired, and no barrier object is in service. -/
structure BlockHere (s : State) : Prop where
  life  : s.blk.life = .placed
  alone : ∀ b ∈ s.blocks, b.id ≠ s.blk.id
  twin  : s.blk.twin = none
  noBar : s.bars = []

/-- The state of a block after a save of a kind to an image (R173): the image holds the kind, the sizes, the timelines, the scratchpad and,
of the street in focus, the registers that its mask names, every declared one in an image of KIND 3; the running streets are saved with
it. That it is made in one step is log entry 33. -/
def SavedAs (s t : State) (kind image : Nat) : Prop :=
  t.blk.life = .saved ∧ t.blk.image = image ∧ t.blk.imageKind = kind ∧ t.blk.save = none
    ∧ (s.st.block = s.blk.id → s.st.life = .running → t.st.life = .saved)
    ∧ t.mem.nat image 4 = kind % 2 ^ 32 ∧ t.mem.nat (image + 4) 4 = s.blk.hdr.streets % 2 ^ 32
    ∧ t.mem.nat (image + 8) 4 = s.blk.hdr.regs % 2 ^ 32
    ∧ (∀ k, k < 32 → t.mem.nat (image + 0x100 + 16 * k) 8 = (s.blk.tl k).value % 2 ^ 64
        ∧ t.mem.nat (image + 0x108 + 16 * k) 8 = (s.blk.tl k).issued % 2 ^ 64)
    ∧ (s.blk.hdr.regs ≤ 64 → (∀ q ∈ s.blk.queues.toList, q.entries.length ≤ 8) →
      ∀ a, a < s.blk.spadBytes → t.mem.read (image + imageSpadOff t.mem image s.blk.hdr + a) = s.blk.spad.read a)
    ∧ (s.blk.hdr.regs ≤ 64 → s.st.there = true → s.st.block = s.blk.id → s.st.sindex < s.blk.hdr.streets →
      (∀ x ∈ s.streets, x.there = true → x.block = s.blk.id → x.sindex ≠ s.st.sindex) →
      t.mem.nat (image + 0x300 + 0x200 * s.st.sindex) 8 = s.st.md.toNat
      ∧ (kind = 3 → imageMask t.mem image s.st.sindex = 2 ^ s.blk.hdr.regs - 1)
      ∧ ∀ (r : RegNo) (l : Lane) (j : Nat), (maskRegs (imageMask t.mem image s.st.sindex)).findIdx? (· == r.toNat) = some j →
          t.mem.nat (image + imageStreetOff t.mem image s.blk.hdr.streets s.st.sindex + 1024 + 256 * j + 4 * l.val) 4
            = ((s.st.regs.get r.toFin).lane l).toNat)
    ∧ ∀ a, a < image → t.mem.read a = s.mem.read a

end Sys2Proof.Say

/-- R171 to R175, R305: a request is recorded with its image; a ready block is saved with the kind asked for, one that is not
ready 65,536 cycles later with KIND 3, once its long-latency instructions are over; a block parked for more than 4,096 cycles
becomes a candidate, which the resident OS swaps out with KIND 2 where a LAUNCH needs its core; a restore puts registers,
timelines and scratchpad back from the image. A whole save or restore in one step is deduced (log entry 33). -/
def Obligations.BlocksAreSavedAndReloaded : Prop :=
  ∀ s : State,
    (BlockHere s →
      (∀ image, s.blk.save = none → image % 256 = 0 → exec (.preemptionRequest s.blk.id image) s = .next { s with
        blk := { s.blk with save := some { kind := 1, image := image, since := s.clock } } })
      ∧ (∀ q, s.blk.save = some q → s.saveReady s.blk = true → s.clock < q.since + 65536 → ∃ t, exec (.blockSave s.blk.id) s = .next t
        ∧ SavedAs s t q.kind q.image)
      ∧ (∀ q, s.blk.save = some q → q.since + 65536 ≤ s.clock →
        (∀ x ∈ s.st :: s.streets, x.block = s.blk.id → x.life = .running → x.windows = [] ∧ ∀ r ∈ s.remote, r.sid ≠ x.sid) →
        ∃ t, exec (.forcedSave s.blk.id) s = .next t ∧ SavedAs s t 3 q.image)
      ∧ (∀ c, s.blk.waitSince = some c → c + 4096 < s.clock → exec (.swapCandidate s.blk.id) s = .next { s with
        blk := { s.blk with candidate := true } })
      ∧ ∀ image, s.blk.candidate = true → s.blk.save = none → image % 256 = 0 →
        (∃ d, d < 4 ∧ ∃ q ∈ (s.die d).pool, s.wantsCore s.blk q = true) → exec (.swapOut s.blk.id image) s = .next { s with
          blk := { s.blk with save := some { kind := 2, image := image, since := s.clock } } })
    ∧ (s.blk.life = .saved → (∀ b ∈ s.blocks, b.id ≠ s.blk.id) → s.blk.imageKind ≠ 2 →
      (∀ x ∈ s.st :: s.streets, ∀ i, (x.paths.get i).wait = .none ∧ (x.paths.get i).reason ≠ .wait) →
      s.copies.length + (s.core s.blk.core).ranges.length ≤ 16 → ∀ slots base, s.coreFit s.blk.core s.blk.hdr = some (slots, base) →
      let img := s.blk.image
      let area (i : Nat) : Nat := img + imageStreetOff s.mem img s.blk.hdr.streets i
      ∃ t, exec (.restore s.blk.id) s = .next t ∧ t.mem = s.mem ∧ t.blk.life = .placed ∧ t.blk.spadBase = base
        ∧ (∀ a, a < s.blk.spadBytes → t.blk.spad.read a = s.mem.read (img + imageSpadOff s.mem img s.blk.hdr + a))
        ∧ (∀ k, k < 32 → (t.blk.tl k).value = s.mem.nat (img + 0x100 + 16 * k) 8
            ∧ (t.blk.tl k).issued = s.mem.nat (img + 0x108 + 16 * k) 8)
        ∧ (s.st.block = s.blk.id → s.st.life = .saved → t.st.life = .running ∧ t.st.slot = slots.getD s.st.sindex 0
          ∧ t.st.md = BitVec.ofNat 64 (s.mem.nat (img + 0x300 + 0x200 * s.st.sindex) 8)
          ∧ ∀ (r : RegNo) (l : Lane) (j : Nat),
              (maskRegs (imageMask s.mem img s.st.sindex)).findIdx? (· == r.toNat) = some j →
              (t.st.regs.get r.toFin).lane l
                = BitVec.ofNat 32 (s.mem.nat (area s.st.sindex + 1024 + 256 * j + 4 * l.val) 4)))

namespace Sys2Proof.Say

/-- The street in focus and its twin, the only one beside it, wait at compare points (R366, R367). -/
def TwinsWait (s : State) (u : Street) (p q : Pair) (c : Nat) : Prop :=
  s.streets = [u] ∧ s.st.there = true ∧ u.there = true ∧ s.st.sid ≠ u.sid ∧ s.st.pair = some p ∧ u.pair = some q
    ∧ p.twin = u.sid ∧ u.life ≠ .contained ∧ s.st.life ≠ .contained ∧ p.waiting.map (·.1) = some c

/-- A street at the state of its checkpoint (R368). -/
def AtCheckpoint (t : Street) (c : Checkpoint) : Prop :=
  t.regs = c.regs ∧ t.md = c.md ∧ t.sr = c.sr ∧ t.paths = c.paths ∧ t.hscr = c.hscr ∧ t.tlevel = c.tlevel ∧ t.trap = c.trap

end Sys2Proof.Say

/-- R367, R368: twins whose CRCs and points agree go on, with their CRCs cleared; at a first disagreement, or a wait of more than
2^20 cycles, both go back to their checkpoints and try again. No store is held here. What one comparison and one rollback do
in a step is deduced (log entry 35). -/
def Obligations.PairedStreetsAreCompared : Prop :=
  ∀ (s : State) (u : Street) (p q : Pair) (c : Nat), TwinsWait s u p q c → p.stores = [] → q.stores = [] →
    (p.retried = false → q.waiting.map (·.1) = some c → p.crc = q.crc → ∃ t, exec (.comparePoint s.st.sid) s = .next t
      ∧ t = { s with st := t.st, streets := t.streets } ∧ t.st.regs = s.st.regs
      ∧ ∃ p', t.st.pair = some p' ∧ p'.crc = 0 ∧ p'.waiting = none ∧ (c ≠ 1 → p'.go = true)
        ∧ (c = 1 → p'.check = some { regs := s.st.regs, md := s.st.md, sr := s.st.sr, paths := s.st.paths, hscr := s.st.hscr
                                     tlevel := s.st.tlevel, trap := s.st.trap }))
    ∧ ∀ k, p.retried = false → p.check = some k →
      let back (t : State) : Prop := t = { s with st := t.st, streets := t.streets, upsets := t.upsets } ∧ AtCheckpoint t.st k
        ∧ ∃ p', t.st.pair = some p' ∧ p'.retried = true ∧ p'.waiting = none ∧ p'.crc = 0
      ((∃ d, q.waiting.map (·.1) = some d ∧ (p.crc ≠ q.crc ∨ c ≠ d)) →
        ∃ t, exec (.comparePoint s.st.sid) s = .next t ∧ back t)
      ∧ ((∃ since, p.waiting = some (c, since) ∧ since + 2 ^ 20 < s.clock) →
        ∃ t, exec (.compareTimeout s.st.sid) s = .next t ∧ back t)

/-! ### Events of schedulers, engines, links and accounting -/

namespace Sys2Proof.Say

/-- R253 to R257, R289: ingestion takes the record at the head of a pending-launch queue into the die's ready pool, with the
copies and the state that its checks give; a direct post enters it; a LAUNCH passed over 64 times reserves its cores. The
order of the checks and the copies are deduced (log entry 34). -/
def RecordsEnterThePool : Prop :=
  ∀ (s : State) (q : TaskRec),
    (∀ (e : PlqEntry) r rest, s.blk.life = .placed → e.rec_ = some r → s.blk.plq = e :: rest → (∀ b ∈ s.blocks, b.plq = [] ∧ b.id ≠ s.blk.id) →
      let die := coreDie s.blk.core
      (∀ c, (s.die die).lastIngest = some c → c + 64 ≤ s.clock) → (s.die die).pool.length < 4096 → (s.die die).held = none →
      s.taskFault r = none → s.acceptTask r = .ok q →
      ∃ t, exec (.ingestion die) s = .next t
        ∧ t = { s with blk := { s.blk with plq := rest }, dies := t.dies, nextId := s.nextId + 1 }
        ∧ (t.die die).pool = (s.die die).pool ++ [q] ∧ (t.die die).lastIngest = some s.clock)
    ∧ (∀ die ctx addr tid record, record.length = 128 → recOk record = true → (s.die die).pool.length < 4096 →
      (s.die die).directq = [] → (∃ a ∈ s.ctxs, a.ctx = (readCtx s.mem ctx).ctxid) →
      let r := taskOf record s.nextId die addr 0 (readCtx s.mem ctx) tid none
      State.taskFault { s with nextId := s.nextId + 1 } r = none → State.acceptTask { s with nextId := s.nextId + 1 } r = .ok q →
      ∃ t, exec (.directPost die ctx addr tid record) s = .next t
        ∧ t = { s with dies := t.dies, nextId := s.nextId + 2 } ∧ (t.die die).pool = (s.die die).pool ++ [q])
    ∧ ∀ die, ∃ t, exec (.launchReservation die) s = .next t ∧ DieIs s t die
        { s.die die with pool := (s.die die).pool.map fun r =>
            if r.kind = 6 ∧ r.state = .ready ∧ 64 ≤ r.passed then { r with reserved := true } else r }

/-- A street right after its placement (R52, R54, R153). -/
def FreshStreet (x : Street) (b : Block) (i : Nat) : Prop :=
  x.life = .running ∧ x.block = b.id ∧ x.core = b.core ∧ x.slot = i ∧ x.sindex = i
    ∧ x.regs = Vector.replicate 64 (Vector.replicate 64 0) ∧ x.md = 0x0000050000000000 ∧ x.sr = 0
    ∧ x.chans = Vector.replicate 64 none ∧ x.tlevel = false ∧ x.thand = BitVec.ofNat 64 b.ctx.thand &&& ~~~(3 : Addr)
    ∧ (x.paths.get 0).pc = BitVec.ofNat 64 (b.text + b.hdr.entry) ∧ (x.paths.get 0).mask = 0xFFFFFFFFFFFFFFFF
    ∧ (x.paths.get 0).depth = 0 ∧ (x.paths.get 0).reason = .branch
    ∧ ∀ j, j ≠ 0 → (x.paths.get j).reason = .free

/-- R52, R54, R153, R163, R164, R235, R257: DISPATCH places a READY LAUNCH of one core where nothing is placed: its block with
cleared scratchpad, pans, queues and timelines, and its streets with their registers cleared at the kernel's entry; the
record runs. The LAUNCH is not paired, and its places are the model's choice (log entry 26). -/
def LaunchesArePlaced : Prop :=
  ∀ (s : State) (die x y : Nat) (r : TaskRec), (s.die die).pool = [r] → (∀ d, d ≠ die → (s.die d).pool = []) → r.kind = 6 →
    r.state = .ready → r.paired = false → r.inputs = [] → launchRefusal r = 0 → districtOf r.desc = (x, y, 1, 1) →
    s.allBlocks = [] → s.allStreets = [] → (∀ k, (s.engine k).ops = []) →
    (∃ a ∈ s.ctxs, a.ctx = (readCtx s.mem r.ctx.desc).ctxid) →
    let h := headerOf r.hdr
    ∃ t b ts, exec (.dispatch die) s = .next t ∧ t.blocks = s.blocks ++ [b] ∧ t.streets = s.streets ++ ts ∧ t.mem = s.mem
      ∧ b.life = .placed ∧ b.core = coreAt x y ∧ b.hdr = h ∧ b.ctx = readCtx s.mem r.ctx.desc ∧ b.text = recNat r.desc 8 8
      ∧ b.spadBase = 0 ∧ b.spad = [] ∧ b.pans = [] ∧ b.tls = Vector.replicate 32 { value := 0, issued := 0, made := 0, pend := [], far := none }
      ∧ b.queues = Vector.replicate 16 { entries := [] } ∧ ts.length = h.streets
      ∧ (∀ i st, ts[i]? = some st → FreshStreet st b i)
      ∧ (t.die die).pool = [{ r with state := .running, blocks := [b.id], reserved := false }]

/-- R250: the operation whose ordered number comes next makes its advance when its turn has come. -/
def TurnsAreTaken : Prop :=
  ∀ (s : State) (k : Nat) (c : Completion), Still s → k < 32 → (s.blk.tl k).pend = [c] → c.num = (s.blk.tl k).made + 1 →
    c.stamp = none → c.barrier = none → c.far = false → c.task = none → c.tl = some k → c.block = s.blk.id →
    ∃ t, exec (.timelineAdvance s.blk.id k) s = .next t
      ∧ t = { s with st := { s.st with ops := t.st.ops }, streets := t.streets, blk := { s.blk with tls := t.blk.tls } }
      ∧ (∀ x ∈ t.allStreets, x.sid = c.sid → ∀ o ∈ x.ops, o.id ≠ c.op)
      ∧ ∀ j, j < 32 → t.blk.tl j = if j = k then
          { s.blk.tl k with value := nextValue (s.blk.tl k).value, made := (s.blk.tl k).made + 1, pend := [] } else s.blk.tl j

/-- The block in focus is the only one with operations in its engine queue, o at its head; no task runs on an engine, no access to a pan
waits in a window, and the block's context is not stopped. -/
structure MxHere (s : State) (o : MxOp) (rest : List MxOp) : Prop where
  life   : s.blk.life = .placed
  queue  : s.blk.mxq = o :: rest
  ids    : ∀ q ∈ rest, q.id ≠ o.id
  others : ∀ b ∈ s.blocks, b.mxq = [] ∧ b.id ≠ s.blk.id
  tasks  : ∀ e ∈ s.engines, e.ops = []
  sound  : s.upsets = []
  noPan  : ∀ x ∈ s.st :: s.streets, ∀ y ∈ x.windows, y.pan = none
  ctx    : s.blk.ctx.ctxid ∉ s.stopped

/-- The sequencer of the block's cluster in a state. -/
def seqOf (s t : State) : Engine := t.engine (coreCluster s.blk.core)

/-- R242 to R246, R281, R284: an idle engine takes a queued operation at its queue's head; one passed over 16 times is raised; a merge of
PANZ clears its pan, joins its summary and ends it; a translation fault leaves the step's operation FAULTED, with a fault record;
a serviced one is QUEUED again. -/
def EnginesRunOperations : Prop :=
  ∀ (s : State) (o : MxOp) (rest : List MxOp), MxHere s o rest → s.blk.pans.wf = true →
    let cl := coreCluster s.blk.core
    let only (t : State) (q : MxOp) : Prop := t = { s with blk := { s.blk with mxq := q :: rest }, engines := t.engines }
    ((seqOf s s).run = none → o.state = .queued →
      (∃ t, exec (.engineChoose cl) s = .next t ∧ only t { o with state := .running, passed := 0, aged := false }
        ∧ (seqOf s t).run = some o.id)
      ∧ (16 ≤ o.passed → ∃ t, exec (.priorityAgeing cl) s = .next t ∧ only t { o with aged := true } ∧ t.engines = s.engines))
    ∧ ((seqOf s s).run = some o.id → o.kind = .panz → o.phase = 1 → o.kprog = 0 → o.tile.steps = 1 → o.tl = none →
      ∃ t, exec (.merge cl) s = .next t ∧ t.mem = s.mem ∧ t.blk.mxq = rest ∧ (seqOf s t).run = none
        ∧ (∀ row col, row < 128 → col < 128 → t.blk.pans.nat (elementAt o.pan row col) 4 = 0)
        ∧ (∀ a, (a < elementAt o.pan 0 0 ∨ elementAt o.pan 128 0 ≤ a) → t.blk.pans.read a = s.blk.pans.read a)
        ∧ lookN t.blk.panSum o.pan = lookN s.blk.panSum o.pan ||| o.summary)
    ∧ (∀ f, (seqOf s s).run = some o.id → s.mxAttempt o cl = .error (.fault f) → NoMonitors s →
      ∃ t, exec (.engineFetchFault cl) s = .next t
        ∧ t = { s with
            blk := { s.blk with mxq := { o with state := .faulted, fault := some f } :: rest }
            engines := t.engines, dies := t.dies, mem := t.mem, lineVer := t.lineVer, l2 := t.l2, packed := t.packed
            wdeltas := t.wdeltas, ctxs := t.ctxs }
        ∧ (seqOf s t).run = none)
    ∧ ∀ fix, o.state = .faulted → s.bars = [] → NoMonitors s → ∃ t, exec (.engineFaultServiced o.id fix) s = .next t
        ∧ t = { s with
            blk := { s.blk with mxq := { o with state := .queued, fault := none } :: rest }, engines := t.engines
            mem := mended s.mem fix, lineVer := t.lineVer }

/-- Bytes va to va + n − 1 as an engine reaches them for a context: byte x at physical address pa + x, on pages of this device of one
format (0 for none), private to no street. -/
def EngineSees (s : State) (agent : Nat) (c : CtxDesc) (acc : Acc) (fmt va pa n : Nat) : Prop :=
  va + n ≤ 2 ^ 64 ∧ ∀ x, x < n → ∃ pte ea b z, translate s agent c (va + x) acc = .ok (pa + x) pte ea b z
    ∧ pteFMT pte = fmt ∧ pteRH pte = false ∧ s.privateTo none c.ctxid (va + x) (pa + x) = false

/-- So many rows of f32 values, each of len bytes; row i stands at pa i. -/
def PlaneAt (s : State) (acc : Acc) (base stride rows len : Nat) (pa : Nat → Nat) : Prop :=
  base % 4 = 0 ∧ stride % 4 = 0
    ∧ ∀ i, i < rows → EngineSees s (agentMx (coreCluster s.blk.core)) s.blk.ctx acc 0 (base + i * stride) (pa i) len

/-- The summary bits of R285 that the flags of a result set: IV, OF, UF and NX. -/
def SetsBit (f : Word) (i : Nat) : Prop := ∃ m, [flIV, flOF, flUF, flNX][i]? = some m ∧ f &&& m ≠ 0

/-- A number gains the bits of a set. -/
def Gains (new old : Nat) (set : Nat → Prop) : Prop := ∀ i, new.testBit i = true ↔ old.testBit i = true ∨ set i

/-- After a merged step the operation goes on with its next step, or after its last one is over, its summary joined to its pans'. -/
def StepMerged (s t : State) (o : MxOp) (rest : List MxOp) (set : Nat → Prop) : Prop :=
  t.st.regs = s.st.regs ∧ if o.kprog + 1 < o.tile.steps then
    (∃ q, t.blk.mxq = { o with kprog := o.kprog + 1, summary := q } :: rest ∧ Gains q o.summary set)
      ∧ (seqOf s t).run = some o.id ∧ t.blk.panSum = s.blk.panSum
  else t.blk.mxq = rest ∧ (seqOf s t).run = none
    ∧ ∀ p ∈ o.pansNamed, Gains (lookN t.blk.panSum p) (lookN s.blk.panSum p ||| o.summary) set

/-- The pans after a step: pan p holds the values, and every byte outside n pans from the operation's on is as before. -/
def PansAfter (s t : State) (o : MxOp) (n : Nat) (val : Nat → Nat → Nat → FRes) : Prop :=
  (∀ p row col, p < n → row < 128 → col < 128 → t.blk.pans.nat (elementAt (o.pan + p) row col) 4 = (val p row col).1)
    ∧ ∀ a, (a < elementAt o.pan 0 0 ∨ elementAt (o.pan + n) 0 0 ≤ a) → t.blk.pans.read a = s.blk.pans.read a

/-- Element (row, col) of a pan. -/
def panNow (s : State) (p row col : Nat) : Nat := s.blk.pans.nat (elementAt p row col) 4

/-- Terms added to c one after another, in ascending k, with their flags. -/
def accumulate (c : Nat) (term : Nat → Nat → FRes) : FRes :=
  (List.range 256).foldl (fun c k => let r := term k c.1; (r.1, c.2 ||| r.2)) (c, 0)

/-- c + a × b, rounded once to nearest even; and c + 0, the term of a row or column outside the limits or of an element not kept. -/
def addProduct (a b c : Nat) : FRes := f32.fma 0 false false false a b c
@[inherit_doc addProduct] def addNothing (c : Nat) : FRes := f32.add 0 false false c 0

/-- N, M, F, IW and MB of each sparse pattern (R282). -/
def patternTable : List (Nat × Nat × Nat × Nat × Nat) := [(2, 4, 4, 2, 32), (1, 4, 2, 2, 16), (4, 8, 12, 3, 48)]

/-- Index n of group g of a row's metadata, and whether the group's indices ascend strictly. -/
def groupIndex (q : Nat × Nat × Nat × Nat × Nat) (data g n : Nat) : Nat := data / 2 ^ (g * q.2.2.1 + n * q.2.2.2.1) % 2 ^ q.2.2.2.1
@[inherit_doc groupIndex] def ascends (q : Nat × Nat × Nat × Nat × Nat) (data g : Nat) : Bool :=
  (List.range (q.1 - 1)).all fun n => decide (groupIndex q data g n < groupIndex q data g (n + 1))

/-- Which kept element of a row stands at k of the step; none where none does, or its group is out of order. -/
def keptAt (q : Nat × Nat × Nat × Nat × Nat) (data k : Nat) : Option Nat :=
  let g := k / q.2.1
  if ascends q data g then
    ((List.range q.1).find? fun n => decide (groupIndex q data g n = k % q.2.1)).map fun n => g * q.1 + n
  else none

/-- A variance element as read: a negative number counts as +0 (R139). -/
def varianceAt (x : Nat) : Nat := if f32.sign x ∧ ¬ f32.isNan x then 0 else x

/-- The variance term of one k, from mean and variance of A and of B: exact products summed and rounded once; 0 × ∞ gives the default
NaN, and a NaN among them the first, quieted (R140). -/
def varianceTerm (am av bm bv : Nat) : FRes :=
  match [am, av, bm, bv].find? fun x => f32.isNan x with
  | some x => (f32.quiet x, if [am, av, bm, bv].any fun x => f32.isSnan x then flIV else 0)
  | none =>
    let times (x y : Option Machine.Num) : Option Machine.Num := x.bind fun a => y.bind fun b => a.mul b
    let n (x : Nat) : Option Machine.Num := some (f32.num x)
    match times (times (n am) (n am)) (n bv), times (times (n bm) (n bm)) (n av), times (n av) (n bv) with
    | some x, some y, some z => f32.sum 0 false [x, y, z]
    | _, _, _ => (0x7FC00000, flIV)

/-- R88, R139, R140, R243, R244, R248, R280 to R282, R284, R285: on f32 operands a K-step of MMT adds 256 products to each element of its pan in
ascending k, MMTS those of the kept elements, MMM those of the means and in the next pan the variance terms; PANLD loads a pan
and PANST stores one. KPROG and the summary follow, and the last step ends the operation. That a K-step is made whole in one merge and adds
+0 for an element that is not kept or lies outside the limits is deduced (log entry 40), and which NaN a fused product gives is the
model's choice (log entry 17). The engine's context keeps no page
counters and no translations here, and PANST's rows hold no page table. -/
def StepsAccumulate : Prop :=
  ∀ (s : State) (o : MxOp) (rest : List MxOp) (A B V W : Nat → Nat), MxHere s o rest → Quiet s → s.blk.pans.wf = true → s.tlbs = [] →
    s.blk.ctx.ptpoollen = 0 → (seqOf s s).run = some o.id → o.phase = 1 → o.tl = none → o.kprog < o.tile.steps →
    let cl := coreCluster s.blk.core
    let T := o.tile
    let at_ (pa : Nat → Nat) (i k : Nat) : Nat := s.mem.nat (pa i + 4 * k) 4
    let k0 := 256 * o.kprog
    let within (i j : Nat) : Prop := i < T.mrows ∧ j < T.ncols
    T.mrows ≤ 128 → T.ncols ≤ 128 →
    (o.kind = .mmt → PlaneAt s .read T.abase T.astride T.mrows (4 * (k0 + 256)) A →
      PlaneAt s .read T.bbase T.bstride T.ncols (4 * (k0 + 256)) B →
      let val (_ i j : Nat) : FRes := if i < T.mrows ∧ j < T.ncols then
          accumulate (panNow s o.pan i j) fun k c => addProduct (at_ A i (k0 + k)) (at_ B j (k0 + k)) c
        else addNothing (panNow s o.pan i j)
      ∃ t, exec (.merge cl) s = .next t ∧ t.mem = s.mem ∧ PansAfter s t o 1 val
        ∧ StepMerged s t o rest fun b => ∃ i < 128, ∃ j < 128, SetsBit (val 0 i j).2 b)
    ∧ (∀ q, patternTable[T.pattern]? = some q → o.kind = .mmts →
      let n := 256 * q.1 / q.2.1
      PlaneAt s .read T.abase T.astride T.mrows (4 * (n * o.kprog + n)) A →
      PlaneAt s .read T.bbase T.bstride T.ncols (4 * (k0 + 256)) B →
      (∀ i, i < T.mrows → EngineSees s (agentMx cl) s.blk.ctx .read 0 (T.aux1 + i * T.auxstride + o.kprog * q.2.2.2.2) (V i) q.2.2.2.2) →
      let data (i : Nat) : Nat := s.mem.nat (V i) q.2.2.2.2
      let val (_ i j : Nat) : FRes := if i < T.mrows ∧ j < T.ncols then
          accumulate (panNow s o.pan i j) fun k c => match keptAt q (data i) k with
            | some x => addProduct (at_ A i (n * o.kprog + x)) (at_ B j (k0 + k)) c
            | none => addNothing c
        else addNothing (panNow s o.pan i j)
      ∃ t, exec (.merge cl) s = .next t ∧ t.mem = s.mem ∧ PansAfter s t o 1 val
        ∧ StepMerged s t o rest fun b => (∃ i < 128, ∃ j < 128, SetsBit (val 0 i j).2 b)
          ∨ (b = 7 ∧ ∃ i < T.mrows, ∃ g < 256 / q.2.1, ascends q (data i) g = false))
    ∧ (o.kind = .mmm → PlaneAt s .read T.abase T.astride T.mrows (4 * (k0 + 256)) A →
      PlaneAt s .read T.bbase T.bstride T.ncols (4 * (k0 + 256)) B →
      PlaneAt s .read T.aux1 T.astride T.mrows (4 * (k0 + 256)) V → PlaneAt s .read T.aux2 T.bstride T.ncols (4 * (k0 + 256)) W →
      let val (p i j : Nat) : FRes := if i < T.mrows ∧ j < T.ncols then
          accumulate (panNow s (o.pan + p) i j) fun k c =>
            if p = 0 then addProduct (at_ A i (k0 + k)) (at_ B j (k0 + k)) c
            else
              let x := varianceTerm (at_ A i (k0 + k)) (varianceAt (at_ V i (k0 + k))) (at_ B j (k0 + k)) (varianceAt (at_ W j (k0 + k)))
              let r := f32.add 0 false false c x.1
              (r.1, x.2 ||| r.2)
        else addNothing (panNow s (o.pan + p) i j)
      let below (x : Nat) : Prop := f32.sign x = true ∧ f32.isNan x = false ∧ f32.isZero x = false
      ∃ t, exec (.merge cl) s = .next t ∧ t.mem = s.mem ∧ PansAfter s t o 2 val
        ∧ StepMerged s t o rest fun b => (∃ p < 2, ∃ i < 128, ∃ j < 128, SetsBit (val p i j).2 b)
          ∨ (b = 4 ∧ ∃ i j, within i j ∧ ∃ k < 256, below (at_ V i (k0 + k)) ∨ below (at_ W j (k0 + k))))
    ∧ (o.kind = .panld → T.steps = 1 → PlaneAt s .read T.abase T.astride 128 512 A →
      ∃ t, exec (.merge cl) s = .next t ∧ t.mem = s.mem ∧ PansAfter s t o 1 (fun _ i j => (at_ A i j, 0))
        ∧ StepMerged s t o rest fun _ => False)
    ∧ (o.kind = .panst → T.steps = 1 → s.mem.wf = true → (∀ i j, i < j → j < 128 → A i + 512 ≤ A j ∨ A j + 512 ≤ A i) →
      (∀ m : Memory, (∀ a, (∀ i, i < 128 → a < A i ∨ A i + 512 ≤ a) → m.read a = s.mem.read a) →
        PlaneAt { s with mem := m } .write T.abase T.astride 128 512 A) →
      ∃ t, exec (.merge cl) s = .next t ∧ t.blk.pans = s.blk.pans ∧ StepMerged s t o rest (fun _ => False)
        ∧ (∀ i j, i < 128 → j < 128 → t.mem.nat (A i + 4 * j) 4 = panNow s o.pan i j)
        ∧ ∀ a, (∀ i, i < 128 → a < A i ∨ A i + 512 ≤ a) → t.mem.read a = s.mem.read a)

/-- A copy of n raw bytes of one dimension from global memory at A to the block's own scratchpad at D, from coordinate c0 on, without
stamp, barrier and timeline (R292, R293). -/
def ByteCopy (c : CopyOp) (A D c0 n : Nat) : Prop :=
  let f := recNat c.desc
  c.kind = .cpy ∧ c.task = none ∧ c.tl = none ∧ c.fault = none ∧ c.coords = [(c0 : Int), 0, 0, 0, 0]
    ∧ f 0 8 = A ∧ f 0x40 8 = D ∧ f 0x3C 4 = 1 + 12 * 16 ∧ f 0x7C 4 = 1 + 12 * 16 + 256
    ∧ f 0x32 2 = n ∧ c0 + n ≤ f 0x28 2 ∧ n ≤ f 0x68 2
    ∧ (∀ d, 1 ≤ d → d < 5 → f (0x32 + 2 * d) 2 = 1 ∧ f (0x28 + 2 * d) 2 = 1 ∧ f (0x68 + 2 * d) 2 = 1)
    ∧ f 0x80 8 = 0 ∧ f 0x88 8 = 0

/-- R259 to R261, R293, R294: a copy of raw bytes moves them from global memory to the scratchpad, and is over. A copy in one
step is the model's choice (log entry 23). -/
def CopiesMoveTheirElements : Prop :=
  ∀ (s : State) (c : CopyOp) (rest : List CopyOp) (A D c0 n : Nat) (pa : Nat), Quiet s → s.tlbs = [] → s.blk.life = .placed →
    (∀ b ∈ s.blocks, b.id ≠ s.blk.id) → s.blk.spad.wf = true → s.copies = c :: rest → (∀ k ∈ rest, k.id ≠ c.id) → ByteCopy c A D c0 n →
    c.block = s.blk.id → c.ctx.ptpoollen = 0 → 0 < n → D + n ≤ 256 * s.blk.hdr.spad → D + n ≤ 2 ^ 18 → A + c0 + n ≤ 2 ^ 64 →
    (∀ i, i < n → ∃ pte ea b z, translate s c.agent c.ctx (A + c0 + i) .read = .ok (pa + i) pte ea b z
      ∧ pteFMT pte = 0 ∧ pteRH pte = false ∧ s.privateTo none c.ctx.ctxid (A + c0 + i) (pa + i) = false) →
    ∃ t, exec (.copyComplete c.id) s = .next t ∧ t.copies = rest ∧ t.mem = s.mem
      ∧ (∀ i, i < n → t.blk.spad.read (D + i) = s.mem.read (pa + i))
      ∧ ∀ a, (a < D ∨ D + n ≤ a) → t.blk.spad.read a = s.blk.spad.read a

/-- A copy of n elements of one dimension from A, from coordinate c0 on, to D, with the words that give rank, type and space of its two
sides, without stamp, barrier and timeline (R292). -/
def LineCopy (c : CopyOp) (kind : CopyKind) (A D c0 n src dst : Nat) : Prop :=
  let f := recNat c.desc
  c.kind = kind ∧ c.coords = [(c0 : Int), 0, 0, 0, 0] ∧ f 0 8 = A ∧ f 0x40 8 = D ∧ f 0x3C 4 = src ∧ f 0x7C 4 = dst
    ∧ f 0x32 2 = n ∧ c0 + n ≤ f 0x28 2 ∧ n ≤ f 0x68 2
    ∧ (∀ d, 1 ≤ d → d < 5 → f (0x32 + 2 * d) 2 = 1 ∧ f (0x28 + 2 * d) 2 = 1 ∧ f (0x68 + 2 * d) 2 = 1)
    ∧ f 0x80 8 = 0 ∧ f 0x88 8 = 0

/-- The copy is the engine's next in a quiet machine, for the block in focus, without task, timeline and fault. -/
structure CopyHere (s : State) (c : CopyOp) (rest : List CopyOp) : Prop where
  quiet  : Quiet s
  calm   : SpadCalm s
  fresh  : s.tlbs = [] ∧ c.ctx.ptpoollen = 0
  others : ∀ b ∈ s.blocks, b.id ≠ s.blk.id
  wf     : s.mem.wf = true ∧ s.blk.spad.wf = true
  queue  : s.copies = c :: rest ∧ ∀ k ∈ rest, k.id ≠ c.id
  plain  : c.task = none ∧ c.tl = none ∧ c.fault = none ∧ c.block = s.blk.id

/-- The copy is over, and memory holds the new bytes: what `new` says at the bytes of `dst`, every other byte as before. -/
def CopyDone (s t : State) (rest : List CopyOp) (dst : Nat → Prop) : Prop :=
  t.copies = rest ∧ ∀ a, ¬ dst a → t.mem.read a = s.mem.read a

/-- What holds of every memory that agrees with that of s outside some bytes: the bytes hold no page table. -/
def WhateverStandsAt (s : State) (dst : Nat → Prop) (p : State → Prop) : Prop :=
  ∀ m : Memory, (∀ a, ¬ dst a → m.read a = s.mem.read a) → p { s with mem := m }

/-- One combination of CPYRED on n32 (type 1), i32 (0) or f32 (2) elements: ADD, MIN, MAX, AND, OR (R262). -/
def combined (type red old x : Nat) : Nat :=
  if type = 2 then
    (if red = 0 then (f32.add 0 false false old x).1 else (f32.minMax false (red == 2) old x).1)
  else
    let key (v : Nat) : Int := if type = 0 then asSigned 32 v else v
    match red with
    | 0 => (old + x) % 2 ^ 32
    | 1 => if key old ≤ key x then old else x
    | 2 => if key old ≤ key x then x else old
    | 3 => old &&& x
    | _ => old ||| x

/-- R300: |bf16(w × g)|, the product rounded once to nearest even; a NaN ranks above every number. -/
def saliencyOf (w g : Nat) : Nat :=
  if f32.isNan w ∨ f32.isNan g then 2 ^ 16
  else match (f32.num w).mul (f32.num g) with
    | none => 2 ^ 16
    | some (.inf _) => 0x7F80
    | some (.fin _ m e) => (bf16.round 0 false false m e).1

/-- Whether place k of a row is kept by SALN: fewer than N of its group of M rank above it. -/
def salKeeps (N M : Nat) (sal : Nat → Nat) (k : Nat) : Prop :=
  ((List.range M).filter fun j => decide (sal k < sal (k / M * M + j)
    ∨ (sal (k / M * M + j) = sal k ∧ k / M * M + j < k))).length < N

/-- The indices of a group of M that SMETA keeps: the first N nonzero ones, filled up with the lowest zero ones, in ascending order
(R301). -/
def metaKeeps (N M : Nat) (nonzero : Nat → Bool) : List Nat :=
  let first := ((List.range M).filter nonzero ++ (List.range M).filter fun i => !nonzero i).take N
  (List.range M).filter fun i => first.contains i

/-- R262, R281, R282, R293, R294, R299 to R301: CPYRED combines its elements into those of global memory; a copy from a page of f16 or bf16
elements widens them, one to such a page rounds them to nearest even; SALN writes the kept elements and zeros, SMETA the kept
elements and their indices. Each is then over, and no other byte of memory changes. -/
def CopiesCombineAndConvert : Prop :=
  ∀ (s : State) (c : CopyOp) (rest : List CopyOp) (A D c0 n pa pd : Nat), CopyHere s c rest → 0 < n →
    let sees (t : State) := EngineSees t c.agent c.ctx
    let f := recNat c.desc
    (∀ type red, type ≤ 2 → red ≤ 4 → (type = 2 → red ≤ 2) → LineCopy c .cpyred A D c0 n (1 + type * 16) (1 + type * 16) →
      f 0x98 8 % 8 = red → sees s .read 0 (A + 4 * c0) pa (4 * n) → sees s .read 0 D pd (4 * n) →
      let dst (a : Nat) : Prop := pd ≤ a ∧ a < pd + 4 * n
      WhateverStandsAt s dst (fun t => sees t .write 0 D pd (4 * n)) →
      ∃ t, exec (.copyComplete c.id) s = .next t ∧ CopyDone s t rest dst ∧ ∀ i, i < n → t.mem.nat (pd + 4 * i) 4
        = combined type red (s.mem.nat (pd + 4 * i) 4) (s.mem.nat (pa + 4 * i) 4))
    ∧ (∀ g ∈ floatPages.take 2, LineCopy c .cpy A D 0 n (1 + 2 * 16) (1 + 2 * 16 + 256) → sees s .read g.1 A pa (2 * n) →
      D + 4 * n ≤ 256 * s.blk.hdr.spad → D + 4 * n ≤ 2 ^ 18 →
      ∃ t, exec (.copyComplete c.id) s = .next t ∧ CopyDone s t rest nowhere
        ∧ (∀ i, i < n → t.blk.spad.nat (D + 4 * i) 4 = (g.2.2.convert f32 0 false (s.mem.nat (pa + 2 * i) 2)).1)
        ∧ ∀ a, (a < D ∨ D + 4 * n ≤ a) → t.blk.spad.read a = s.blk.spad.read a)
    ∧ (∀ g ∈ floatPages.take 2, LineCopy c .cpy A D c0 n (1 + 2 * 16 + 256) (1 + 2 * 16) → D % 2 = 0 →
      A + 4 * (c0 + n) ≤ 256 * s.blk.hdr.spad → A + 4 * (c0 + n) ≤ 2 ^ 18 →
      let dst (a : Nat) : Prop := pd ≤ a ∧ a < pd + 2 * n
      WhateverStandsAt s dst (fun t => sees t .write g.1 D pd (2 * n)) →
      ∃ t, exec (.copyComplete c.id) s = .next t ∧ CopyDone s t rest dst
        ∧ ∀ i, i < n → t.mem.nat (pd + 2 * i) 2 = (f32.convert g.2.2 0 false (s.blk.spad.nat (A + 4 * (c0 + i)) 4)).1)
    ∧ ∀ q (W G O P : Nat → Nat), patternTable[f 0x38 8 / 2 ^ 12 % 4]? = some q →
      let steps := f 0x38 8 % 2 ^ 12
      let rows := f 0x38 8 / 2 ^ 16 % 2 ^ 16
      let len := 1024 * steps
      let row (at_ i : Nat) : Nat := f at_ 8 + i * f (at_ + 8) 8
      let value (x : Nat → Nat) (i k : Nat) : Nat := s.mem.nat (x i + 4 * k) 4
      let apart (x y : Nat → Nat) (m k : Nat) : Prop := ∀ i j, i < rows → j < rows → x i + m ≤ y j ∨ y j + k ≤ x i
      let own (x : Nat → Nat) (m : Nat) : Prop := ∀ i j, i < j → j < rows → x i + m ≤ x j ∨ x j + m ≤ x i
      0 < steps → (∀ i, i < rows → row 0x20 i % 4 = 0) →
      (c.kind = .saln → apart W O len len → apart G O len len → own O len →
        let dst (a : Nat) : Prop := ∃ i < rows, O i ≤ a ∧ a < O i + len
        WhateverStandsAt s dst (fun t => ∀ i, i < rows → sees t .read 0 (row 0 i) (W i) len ∧ sees t .read 0 (row 0x10 i) (G i) len
          ∧ sees t .write 0 (row 0x20 i) (O i) len) →
        ∃ t, exec (.copyComplete c.id) s = .next t ∧ CopyDone s t rest dst ∧ ∀ i k, i < rows → k < 256 * steps →
          (salKeeps q.1 q.2.1 (fun j => saliencyOf (value W i j) (value G i j)) k → t.mem.nat (O i + 4 * k) 4 = value W i k)
          ∧ (¬ salKeeps q.1 q.2.1 (fun j => saliencyOf (value W i j) (value G i j)) k → t.mem.nat (O i + 4 * k) 4 = 0))
      ∧ (c.kind = .smeta →
        let out := len * q.1 / q.2.1
        let mb := steps * q.2.2.2.2
        let nonzero (i g j : Nat) : Bool := value W i (g * q.2.1 + j) % 2 ^ 31 != 0
        (∀ i g, i < rows → g < 256 * steps / q.2.1 → ((List.range q.2.1).filter (nonzero i g)).length ≤ q.1) →
        apart W O len out → apart W P len mb → apart O P out mb → own O out → own P mb →
        let dst (a : Nat) : Prop := ∃ i < rows, (O i ≤ a ∧ a < O i + out) ∨ (P i ≤ a ∧ a < P i + mb)
        WhateverStandsAt s dst (fun t => ∀ i, i < rows → sees t .read 0 (row 0 i) (W i) len ∧ sees t .write 0 (row 0x20 i) (O i) out
          ∧ sees t .write 0 (f 0x30 8 + i * mb) (P i) mb) →
        ∃ t, exec (.copyComplete c.id) s = .next t ∧ CopyDone s t rest dst
          ∧ ∀ i g x, i < rows → g < 256 * steps / q.2.1 → x < q.1 →
            let k := (metaKeeps q.1 q.2.1 (nonzero i g)).getD x 0
            groupIndex q (t.mem.nat (P i) mb) g x = k
            ∧ t.mem.nat (O i + 4 * (g * q.1 + x)) 4 = value W i (g * q.2.1 + k))

/-- Whether a record's field matches the key under a rule (R332, R333): equal, key below, key not above, or the hashed key. -/
def ruleMatches (rule key : Nat) (r : List Byte) : Bool :=
  let f := recNat r (4 * (rule / 64 % 16)) 4
  match rule / 16 % 4 with
  | 0 => decide (f = key)
  | 1 => decide (key < f)
  | 2 => decide (key ≤ f)
  | _ => decide (f = key * 0x9E3779B1 % 2 ^ 32)

/-- R331 to R333: one evaluation of a walk on a record it holds: it follows the pointer that the match or miss field names, or
goes to its next rule on the same record; either way it counts a step and remembers the rule. The seat of a walk is the
model's choice (log entry 9). -/
def WalksEvaluateRules : Prop :=
  ∀ (s : State) (w : Walk) (rest : List Walk) (r : List Byte), s.walks = w :: rest → (∀ k ∈ rest, k.id ≠ w.id) → w.ended = none →
    w.fault = none → w.due = none → s.walkSeated w = true → w.rules ≠ [] → w.record = some r → w.steps ≤ w.header % 4096 →
    let rule := w.rules.getD w.rule 0
    let hit := ruleMatches rule w.key r
    let act := if hit then rule / 2 ^ 10 % 4 else rule / 2 ^ 20 % 4
    let off := if hit then rule / 2 ^ 12 % 16 else rule / 2 ^ 22 % 16
    let nx := if hit then rule / 2 ^ 16 % 16 else rule / 2 ^ 26 % 16
    act ∈ [1, 2] → ∃ t, exec (.walkStep w.id) s = .next t
      ∧ t = { s with walks := t.walks, wdeltas := t.wdeltas, ctxs := t.ctxs }
      ∧ t.walks = (if act = 1 then
            { w with p := recNat r (4 * off) 8, rule := nx, record := none, steps := w.steps + 1, last := w.rule }
          else { w with rule := nx, steps := w.steps + 1, last := w.rule }) :: rest

/-- R331 to R336: a walk that a TRAV started into the block's scratchpad ends where its rule says so: DONE on a match, with its record at
its destination; MISS on a mismatch, at a null pointer as well; LIMIT when its steps are spent; these write nothing. Its status
word stands with it, and its TRAV waits for it no longer. -/
def WalksEnd : Prop :=
  ∀ (s : State) (w : Walk) (rest : List Walk) (off : Nat), s.walks = w :: rest → (∀ k ∈ rest, k.id ≠ w.id) → w.ended = none →
    w.fault = none → w.due = none → s.walkSeated w = true → w.rules ≠ [] → w.dest = .spad s.blk.id off → s.blk.life = .placed →
    s.blk.spad.wf = true → (∀ b ∈ s.blocks, b.id ≠ s.blk.id) → s.upsets = [] → s.bars = [] → NoMonitors s →
    (∀ q ∈ s.travs, q.id = w.op → q.tl = none ∧ q.block = s.blk.id) →
    let spent := decide (w.header % 4096 < w.steps)
    let rule := w.rules.getD w.rule 0
    let ends (t : State) (status steps last : Nat) : Prop := t.mem = s.mem
      ∧ (∀ k ∈ t.walks, k.id = w.id → k.ended = some (BitVec.ofNat 32
          (status * 2 ^ 28 + last * 2 ^ 24 + (if w.skipped then 2 ^ 23 else 0) + steps)))
      ∧ ∀ q ∈ t.travs, q.id = w.op → w.id ∉ q.left
    (spent = true → ∃ t, exec (.walkStep w.id) s = .next t ∧ ends t 3 w.steps w.last ∧ t.blk.spad = s.blk.spad)
    ∧ (spent = false → w.record = none → w.p = 0 →
      ∃ t, exec (.walkStep w.id) s = .next t ∧ ends t 2 w.steps w.last ∧ t.blk.spad = s.blk.spad)
    ∧ ∀ r, spent = false → w.record = some r → r.length ≤ 64 →
      (ruleMatches rule w.key r = true → rule / 2 ^ 10 % 4 = 0 →
        ∃ t, exec (.walkStep w.id) s = .next t ∧ ends t 1 (w.steps + 1) w.rule
          ∧ (∀ i (h : i < r.length), t.blk.spad.read (off + i) = r[i])
          ∧ ∀ a, (a < off ∨ off + r.length ≤ a) → t.blk.spad.read a = s.blk.spad.read a)
      ∧ (ruleMatches rule w.key r = false → rule / 2 ^ 20 % 4 = 0 →
        ∃ t, exec (.walkStep w.id) s = .next t ∧ ends t 2 (w.steps + 1) w.rule ∧ t.blk.spad = s.blk.spad)

end Sys2Proof.Say

/-- R199, R327, R378, R379, R388: this device serves a read, a store, an atomic and a reduction that arrive for its memory; the answer to
one of its own accesses gives a load or an atomic its data or tells it that its home is unreachable, and ends a store or a reduction. -/
def Obligations.RemoteAccessesArriveAndReturn : Prop :=
  (∀ (s : State) (pa : Nat), Quiet s → s.mem.wf = true → s.tlbs = [] → pa < 2 ^ 39 → hbmHas pa = true →
    (∀ n, ∃ t, exec (.remoteAccess pa (.load n)) s = .next t ∧ t.mem = s.mem ∧ t.st = s.st ∧ t.blk = s.blk)
    ∧ (∀ d : List Byte, ∃ t, exec (.remoteAccess pa (.store d)) s = .next t ∧ t.mem.readN pa d.length = d ∧ t.st = s.st
      ∧ ∀ a, (a < pa ∨ pa + d.length ≤ a) → t.mem.read a = s.mem.read a)
    ∧ ∀ (aop : Aop) (w : Bool) (x y : Addr), aop ∈ aops → (aop = .fadd → w = false) →
      let n := if w then 8 else 4
      let cutTo (v : Addr) : Nat := v.toNat % 2 ^ (8 * n)
      let does (t : State) (y : Nat) : Prop := t.st = s.st
        ∧ t.mem.nat pa n = newValue aop (8 * n) (s.mem.nat pa n) (cutTo x) y
        ∧ ∀ a, (a < pa ∨ pa + n ≤ a) → t.mem.read a = s.mem.read a
      (∃ t, exec (.remoteAccess pa (.atomic aop w x y)) s = .next t ∧ does t (cutTo y))
      ∧ (aop ∈ redOps → ∃ t, exec (.remoteAccess pa (.reduce aop w x)) s = .next t ∧ does t 0))
  ∧ ∀ (s : State) (r : RemoteReq), s.remote = [r] → r.reply = none →
    (∀ n v, ((r.op = .load n ∧ 0 < n) ∨ ∃ aop w x y, r.op = .atomic aop w x y ∧ n = if w then 8 else 4) →
      s.homeFailed (homeDevice r.pa) = false → exec (.remoteAck r.id (.data v)) s = .next { s with
        remote := [{ r with reply := some (.data (v.take n)) }] }
      ∧ exec (.remoteAck r.id .unreachable) s = .next { s with remote := [{ r with reply := some .unreachable }] })
    ∧ (((∃ d, r.op = .store d) ∨ ∃ aop w x, r.op = .reduce aop w x) → s.homeFailed (homeDevice r.pa) = false → s.late = [] →
      exec (.remoteAck r.id .done) s = .next { s with remote := [] })

namespace Sys2Proof.Say

/-- R319, R320, R357, R374: outstanding counts reach their weigh area and their page's counter record, saturating, and a SYNC
packet goes into an enabled core's trace buffer. Where the counter records stand is log entry 7. -/
def CountsAreFlushed : Prop :=
  (∀ (s : State) (a : WeighArea) (d : WDelta), s.ctxs = [a] → s.wdeltas = [d] → d.ctx = a.ctx → d.idx < a.counters.length →
    nth a.counters d.idx + d.n < 2 ^ 64 → exec (.weighDeltaFlush d.agent a.ctx) s = .next { s with
      wdeltas := [], ctxs := [{ a with counters := a.counters.set d.idx (nth a.counters d.idx + d.n) }] })
  ∧ (∀ (s : State) (agent ctx page ca : Nat) (e : TlbEntry) (c : CtxDesc), s.mem.wf = true → s.tlb? agent ctx page = some e → s.ctxDesc? ctx = some c →
    counterAddr c e.eaddr = some ca → hbmHas ca = true → s.bars = [] → NoMonitors s → ∃ t, exec (.pageCounterFlush agent ctx page) s = .next t
      ∧ t = { s with mem := t.mem, tlbs := t.tlbs, lineVer := t.lineVer }
      ∧ t.mem.nat ca 4 = min (s.mem.nat ca 4 + e.reads) (2 ^ 32 - 1)
      ∧ t.mem.nat (ca + 4) 4 = min (s.mem.nat (ca + 4) 4 + e.writes) (2 ^ 32 - 1)
      ∧ t.mem.nat (ca + 8) 4 = min (s.mem.nat (ca + 8) 4 + e.remote) (2 ^ 32 - 1)
      ∧ ∀ x, (x < ca ∨ ca + 12 ≤ x) → t.mem.read x = s.mem.read x)
  ∧ ∀ (s : State) (core : Nat), (s.core core).tr.buf.wf = true → (s.core core).tr.en = true → (s.core core).tr.lost = 0 →
    (256 ≤ (s.core core).tr.since ∨ (s.dieClock (coreDie core) % 4096 = 0 ∧ (s.core core).tr.time ≠ s.dieClock (coreDie core))) →
    (syncPacket s core).length ≤ (s.core core).tr.room → ∃ t, exec (.traceSync core) s = .next t ∧ t = { s with cores := t.cores }
      ∧ (t.core core).tr.time = s.dieClock (coreDie core)
      ∧ (t.core core).tr.wrptr = ((s.core core).tr.wrptr + (syncPacket s core).length) % 16384
      ∧ (t.core core).tr.buf.read ((s.core core).tr.wrptr % 16384) = 0x10

/-- R169, R170, R352: an arithmetic cycle raises the clock by one and the time by the period of the current frequency; a core
with no street resident, on a die that does not stand still, counts no eligible street and reason NONE for both schedulers;
registers and memory are as before. That a hot die stands still in some cycles is deduced (log entry 63). -/
def CyclesAreCounted : Prop :=
  ∀ s : State, 0 < s.pkg.mhz → ∃ t, exec .arithmeticCycle s = .next t ∧ t.clock = s.clock + 1 ∧ t.mem = s.mem ∧ t.st = s.st
    ∧ t.streets = s.streets ∧ t.timeNs = s.timeNs + (s.timeAcc + 1000) / s.pkg.mhz
    ∧ t.timeAcc = (s.timeAcc + 1000) % s.pkg.mhz
    ∧ ((s.clock + 1) % 4096 ≠ 0 → ∀ i, s.resident i = [] → (s.core i).left = [] →
        (∀ x ∈ s.allStreets, x.core = i → x.life ≠ .running ∧ x.lastIssue ≠ some s.clock) → (s.core i).freeze = false → (s.die (coreDie i)).still = false →
        (s.die (coreDie i)).lost ≤ s.clock →
        (t.core i).bins = bumpAt (bumpAt (s.core i).bins 0 1) 9 1
        ∧ (t.core i).reasons = bumpAt (bumpAt (s.core i).reasons 14 1) 29 1)

end Sys2Proof.Say

/-- R390: when a context ends, none of its blocks, streets, records, copies, walks, collectives, completions to come and colours is
left; memory stays, where no record of another context waits (one that waits on an ended block is refused with an error record). -/
def Obligations.EndedContextsLeaveNothing : Prop :=
  ∀ (s : State) (ctx : Nat), ∃ t, exec (.contextEnd ctx) s = .next t
    ∧ ((∀ d, d < 4 → ∀ r ∈ (s.die d).pool ++ (s.die d).directq, r.ctx.ctxid = ctx ∨ r.state ≠ .waiting) → t.mem = s.mem)
    ∧ (∀ b ∈ t.allBlocks, b.ctx.ctxid ≠ ctx)
    ∧ (∀ b ∈ s.allBlocks, b.ctx.ctxid = ctx → ∀ x ∈ t.allStreets, x.block ≠ b.id)
    ∧ (∀ d, d < 4 → ∀ r ∈ (t.die d).pool ++ (t.die d).directq, r.ctx.ctxid ≠ ctx)
    ∧ (∀ c ∈ t.copies, c.ctx.ctxid ≠ ctx) ∧ (∀ w ∈ t.walks, w.ctx.ctxid ≠ ctx) ∧ (∀ c ∈ t.colls, c.ctx.ctxid ≠ ctx)
    ∧ (∀ l ∈ t.late, l.c.ctx.ctxid ≠ ctx) ∧ ∀ k ∈ t.colours, k.ctx ≠ ctx

namespace Sys2Proof.Say

/-- The object at a place, where one is in service there (R263). -/
def inService (s : State) (pl : BarPlace) : Option Barrier := (s.bar? pl).filter fun b => b.valid

end Sys2Proof.Say

/-- R264 to R266, R297, R298, R318, R357, R358, R369: on an aligned object in memory or in the scratchpad, whatever it holds, BAR, BARA, BARINIT
with a count and a scope, and BARINV complete; a started invalidation, a requested SNAP or CLOSE and a sample complete, BUSY falls. -/
def Obligations.BarriersAndWindowRequestsComplete : Prop :=
  (∀ (s : State) (x q : RegNo) (u : Bool) (la : BitVec 4) (pl : BarPlace), Still s → AllCanonical s → GroupOk s x →
    ObjectAt s u x q pl →
    (∃ t, exec (.bar ⟨u, x, q⟩) s = .next t ∧ t = BarrierOnly s t ∧ match inService s pl with
      | none => Advanced s t ∧ t.bars = s.bars
      | some b =>
        if b.aband then Advanced s t ∧ t.bars = s.bars
        else (if b.arrived + 1 = b.expected then PathResumes s t else PathWaits s t (.bar pl b.phase x (resultLanes s u) none))
          ∧ BarrierNow s t (arrival s b))
    ∧ (∃ t, exec (.bara ⟨u, la, x, q⟩) s = .next t ∧ t = BarrierOnly s t ∧ Advanced s t
      ∧ Results s t u x 1 fun _ _ => match inService s pl with | none => 2 | some b => if b.aband then 1 else 0)
    ∧ (argOf s u x 2 ≠ 0 → argOf s u x 3 % 4 ≠ 0 → argOf s u x 3 / 4 % 64 = 0 → argOf s u x 3 / 2 ^ 16 = 0 →
      (∀ b, inService s pl = some b → b.far = false) → ∃ t, exec (.barinit ⟨u, la, x, q⟩) s = .next t ∧ t = BarrierOnly s t ∧ Advanced s t
        ∧ ∃ b : Barrier, inService t pl = some b ∧ b.expected = argOf s u x 2 ∧ b.arrived = 0)
    ∧ ∃ t, exec (.barinv ⟨u, la, x, q⟩) s = .next t ∧ t = BarrierOnly s t ∧ Advanced s t ∧ inService t pl = none)
  ∧ (∀ (s : State) (die : Nat), (s.die die).tlbi.busy = true → s.mreds = [] → s.remote = [] →
      (∀ x ∈ s.allStreets, x.pair = none) → NoMonitors s →
      ∃ t, exec (.tlbiComplete die) s = .next t ∧ (t.die die).tlbi.busy = false
        ∧ t.tlbs = s.tlbs.filter fun e => !coveredBy (s.die die).tlbi.kind (s.die die).tlbi.ctx (s.die die).tlbi.va e)
  ∧ (∀ s : State, s.pkg.wbusy = true → s.wdeltas = [] →
      (s.pkg.wreq = 1 ∨ s.inUse s.pkg.wctx = true ∨ s.ctxs.all (fun a => a.ctx != s.pkg.wctx) = true) →
      ∃ t, exec .wctlRequestComplete s = .next t ∧ t.pkg.wbusy = false ∧ t.mem = s.mem ∧ t.ctxs = s.ctxs ∧ t.pkg.wstatus
        = if s.ctxs.all (fun a => a.ctx != s.pkg.wctx) then 1 else if s.pkg.wreq = 1 then 0 else 3)
  ∧ ∀ (s : State) (die source v : Nat), ∃ t : State, exec (.rangeMonitorSample die source v) s = .next t
      ∧ ∀ (i : Nat) (m : RangeMon), (s.die die).mons[i]? = some m → m.en = true → m.source = source → source < 8 →
        ∃ n : RangeMon, (t.die die).mons[i]? = some n ∧ n.min = min m.min v ∧ n.max = max m.max v

/-! ### Statements of several parts -/

/-- R90 to R93: every integer instruction of two sources completes in each lane with the exact sum, difference, product, high
product, minimum, maximum or logic result, clamped under MD.SAT as R91 says. R94, R95, R97: the compares, shifts and BFX
complete with their results. -/
def Obligations.IntegerInstructionsGiveTheirResults : Prop := IntegerPairsGiveExactResults ∧ ComparesAndShiftsGiveTheirResults

/-- R93, R96, R97: IMAD, SEL and BFI complete. R100: MOV, NOT, INEG, IABS, POPC, CLZ and BREV complete. R105, R106: LI and the
format K instructions complete. -/
def Obligations.TriplesSinglesAndImmediates : Prop := TriplesReadTheirDestination ∧ SinglesGiveTheirResults ∧ ImmediatesGiveTheirResults

/-- R98 to R103: PERM, VOTEANY, VOTEALL, BALLOT and NNZ complete. R104: SLIDE completes. -/
def Obligations.LanesMeetAcrossTheStreet : Prop := LanesMeetInVotesAndPermutes ∧ SlideShiftsElements

/-- R108 to R112: ADD, SUB, MUL, FMA, FMS and FNMA complete under every type code 0 to 11, element by element. That a NaN source
comes before an invalid product is deduced (log entry 17). R113, R114: MIN, MAX and the compares complete; CUN, which holds
where a source is NaN, takes floating types only. -/
def Obligations.TypedPairsFollowTheType : Prop := TypedArithmeticFollowsTheType ∧ TypedComparesFollowTheType

/-- R115, R116: the dot products and RSHR complete. A NaN source before an invalid sum, and the sign of an exact zero sum, are the
model's choice (log entries 58 and 79). R117 to R122: ABS, NEG, SATP, FRACT, RNDI and CVT complete. The zero of FRACT is the
model's choice (log entry 59). -/
def Obligations.DotsRoundingAndOneSource : Prop := DotsAndRoundingShifts ∧ OneSourceTypedOperations

/-- R108, R123 to R126: the XCEND instructions complete, opening their window; R124's tables of special and exact inputs give
those results, in every rounding mode, and every other finite input sets NX. Which neighbour of the exact value such an input
gives is the model's free choice within the bound of R72 (log entries 15 and 60) and is not stated. R127 to R138: the moment
instructions complete in both registers of the destination pair, with the results and flags of their steps; the value of EXP2,
NCDF and NPDF inside a step is the free choice of log entries 15 and 60, and a NaN that arises in a step follows log entry 31. -/
def Obligations.TranscendentalsAndMoments : Prop := TranscendentalsComplete ∧ MomentsComplete

/-- R180, R318, R349, R350, R352, R358, R360, R369, R373, R377, R380: RESET leaves, from every state, what the spec's Reset
columns and texts give ELECT, PSTAT, PLIM, the measurements, WCTL, FABID, JTAB, PORTSTAT, TLBICTL, MIN, MAX and the bins of
the range monitors, SPCTL, HCTL and TRCTL; the package is powered, its clock stands at zero and no street is placed. CFG and
BASE of a range monitor, and the other registers without a Reset column, have values of the model (log entry 12) and are not
stated here. The memory of the machine after reset is in its canonical form. -/
def Obligations.ResetLeavesTheStatedState : Prop := ResetGivesTheStatedValues ∧ ResetMemoryIsCanonical

/-- R145, R146: CALL and CALLX store PC + 4 for each lane of the path at FSTK + 512 × DEPTH + 8 × L and go to their targets one
DEPTH deeper; no other byte changes beside counter records, and no register or flag. R147: RET from a frame whose lanes hold
no colour loads each lane's return address and goes there one DEPTH up; the street's engine operations of that frame then
belong to the calling one; memory keeps every byte beside counter records. -/
def Obligations.CallsAndReturnsUseFrames : Prop := CallsStoreReturnAddresses ∧ ReturnsLoadReturnAddresses

/-- R147 to R149: EXIT, and RET at DEPTH 0, free the entry of the issuing path; with another entry left nothing else changes, and
with none left the street has exited while another street of its block goes on. YIELD and NOP change no register, flag or
memory; YIELD also gives up the grant, eight cycles of eligibility and the next selection. R150: MODE writes its field of MD
and no other state but the place of the path, whatever lanes are active; a value that R54 forbids takes ILLEGAL. -/
def Obligations.PathsEndYieldAndSetModes : Prop := PathsEndYieldAndIdle ∧ ModeWritesOneField

/-- R151 to R153: SREAD writes the special register into the active lanes of d, all 64 lanes under U = 1 or for an HSCR register,
and nothing else; a read of CLKLO latches the high word for CLKHI. R151 to R153: SWRITE from a register writes the special
register with the value of the lowest active lane, of lane 0 under U = 1, or of every lane for an HSCR register, and nothing
else; a forbidden MD takes ILLEGAL; a privileged register in a user context takes PRIV. -/
def Obligations.SpecialRegistersAreReadAndWritten : Prop := SpecialRegistersAreRead ∧ SpecialRegistersAreWritten

/-- R37, R39, R40, R64, R154 to R156, R158: at trap level 0 with a handler, TRAP takes SWTRAP with its code, BKPT without a
debugger takes BKPT with its tag, an illegal or unlisted word and TRET take ILLEGAL, and HALT in a user context takes PRIV:
the save area is written, the handler's entry is made, and nothing else changes, but that the path gives up a channel entry or
a queue entry it has reserved. The DEPTH above 65,535 is the model's choice (log entry 52). R160, R363: a trap at trap level
1, or with no handler, halts the street by containment: every entry freed, every colour the street holds released poisoned,
and a stop record of the trap's cause posted, which is stated where the street holds no colour, so that no other word is
written. Another street of the block goes on here. That the stop record has the trap's cause is deduced (log entry 38). -/
def Obligations.TrapsAreTaken : Prop := TrapsSaveAndEnterTheHandler ∧ DoubleTrapsContainTheStreet

/-- R154, R155, R370: with a debugger attached BKPT stops the street with a record that names the BKPT, and the street goes on
after it. HALT, not in a user context, stops the street at its next instruction with a record; at trap level 1 without `.f` it
is deferred to the TRET. The street has one path here. R18, R154, R373, R374: TRMARK puts a MARK packet of the street's slot
and its value into the core's trace ring when tracing and marks are on and nothing was lost before, and else only moves on.
The path goes on at the next instruction. -/
def Obligations.StopsAndTraceMarks : Prop := BreakpointsAndHaltsStopTheStreet ∧ TraceMarksAreWritten

/-- R224: CLRQ writes what it asks of the colour of each lane's address, for lane 0 in all 64 lanes under U = 1, and changes
nothing but the destination and the core's lookaside. R211, R223, R353: CLRSYNC reads the table's base and count again; a
valid table is put into use and every core drops the context's region entries; one that is not valid takes CLR_TABLE with
FADDR 0. -/
def Obligations.ColourQueriesAndSync : Prop := ColourQueriesReport ∧ ColourSyncChecksTheTable

/-- R225: CLRWAIT of a lane that is alone on its path and holds the colour releases it, sleeps on it and waits; a lane handed the
colour again gets 0 and goes on; a lane that does not hold it gets 1 and goes on. R226, R227: CLRNOTE moves the earliest
sleeper, or all sleepers, of the colour of each address to the tail of its FIFO, whose head takes a colour without owner;
CLRCLEAN, where it is permitted, clears POISON of the colours it finds. What the records that the spec keeps in memory then
hold is not stated here. -/
def Obligations.ColourWaitsAndNotes : Prop := ColourWaitsSleepAndWake ∧ ColourNotesAndCleaning

/-- R182, R183, R191, R197: LDS of every size loads from scratchpad space: each lane gets the bytes at its place, its block's own
scratchpad for a local address in range, zero for one out of range; with no lane out of range memory is unchanged. No earlier
state of a sector that a load may still find differs from its state now. R182, R183, R191, R197: STS of every size stores each
lane's bytes at its place in scratchpad space, the highest lane standing where lanes meet; every other scratchpad byte of
every block, every pan and every register is as before, and so is memory when no lane is out of range. -/
def Obligations.ScratchpadIsLoadedAndStored : Prop := ScratchpadLoadsRead ∧ ScratchpadStoresWrite

/-- R328, R329: LDX loads an element of MD.TYPE's size at base + size × index, the index as it stands, or remapped by `.mod`,
`.hash` or `.tab`, which reads it from a table in scratchpad space. R328, R330: SCAT sends one reduction for each distinct
address, in whatever order, of the operands of its lanes combined in lane order; memory is unchanged beside counter records
until the reductions are performed. -/
def Obligations.IndexedLoadsAndScatters : Prop := IndexedLoadsRead ∧ ScattersCombineAndSend

/-- R72, R75, R78, R85: on a page of f16, bf16 or f32 elements LD and ST of a run move elements in lane order from the lowest
active lane's address on: LD widens each to f32, ST rounds each f32 in MD.RND, both with flags. Element j of lane L stands k ×
L + j elements from the start; no other byte changes beside counter records. R76 to R79, R84, R85: on a page of block-
floating-point elements LD decodes each active lane's elements under its block's scale byte, with no flag; ST, with every lane
active and every block inside the run, writes each block's containers and scale byte as R79 encodes them; ST.KEEPEXP encodes
each active lane's element under the scale byte that stands there, a NaN or an infinity setting it to 0xFF. SR.BFPOV records a
cut mantissa; no other byte changes beside counter records. -/
def Obligations.FormattedRunsConvert : Prop := FloatRunsConvert ∧ BlockRunsConvert

/-- R186, R200, R201: WAITA waits on a line that the lane has seen by a strong load and nothing has written since, with the line's
monitor armed for its slot; with no such lane it completes at once; either way what its lanes saw of the lines is forgotten.
No counter record stands in the lines here. Which loads and lines count is deduced (log entry 36). R67, R193, R202: with
nothing sent outstanding, FENCE completes: an acquire ends what the street's open windows and its other lanes' loads may still
find of older data, at quarter scope or wider it empties the core's L1 (log entry 39), and nothing else changes. -/
def Obligations.AddressWaitsAndFences : Prop := WaitsOnAddresses ∧ FencesOrderAccesses

/-- R203: CACHE.WB leaves the lines of its regions clean in L2, CACHE.INV drops the core's L1 copies, CACHE.WBINV does both and
drops the L2 copies, which holds where no walk for these lines reads a table entry in one of them (R314, R322); no byte of
memory changes. The context has no counter records, and the core no translations kept, here. R204: PREF completes whatever its
addresses are, without a fault, and changes no register, flag or byte of memory beside counter records. -/
def Obligations.CachesAndPrefetches : Prop := CacheOperationsActOnLines ∧ PrefetchesNeverFault

/-- R240, R250, R275, R278, R279: MMT, MMTS and MMM read their tile operand record at acceptance and enter the block's engine
queue with its fields, the pan and an ordered number; memory stays as it is beside counter records. R240, R250, R279: PANZ,
PANLD and PANST enter the block's engine queue with the pan, and PANLD and PANST with their base and row stride; a pan at or
above PANS takes TASK with FADDR 0. -/
def Obligations.EngineQueueTakesOperations : Prop := TileOperationsAreQueued ∧ PanOperationsAreQueued

/-- R241, R275, R283: PANRD gives each lane L its columns L and 64 + L of the row; PANWR writes them, under U = 1 lane 0's values
into every column; no other byte of a pan changes. No operation names the pan and no access waits in a window here; where an
operation names it and the instruction opens no window, it waits at issue. R279, R284, R285: PANSTAT gives the pan's exception
summary, which it clears, and the state and progress of the operation that names the pan, or 0. -/
def Obligations.PansAreReadAndReported : Prop := PanPortsMoveRows ∧ PanStatusIsReported

/-- R264 to R266, R297, R298: BAR and BARA arrive on a valid barrier; the arrival that reaches EXPECTED completes the phase, and a
BAR that completes no phase waits; an abandoned barrier gives 1 at once and one that is not valid gives 2, without an arrival.
That a path whose BAR completes the phase keeps its GRANT is deduced (log entry 37). R265, R266, R297, R298: BARINIT puts an
object into service with the count, scope and QSZ, ARRIVED 0, and PHASE kept where it was valid and else 0; BARINV takes a
valid one out of service. No one waits at it here, for BARINIT of no other device either. -/
def Obligations.BarriersAreServed : Prop := BarriersCountArrivals ∧ BarriersAreSetUpAndTakenDown

/-- R250, R331, R332, R337: TRAV starts one walk for each lane with the lane's pointer, key, program and destination, in that
lane's slot; the walks of other lanes' slots stay. The engine at the die's even stack is the model's choice (log entry 9).
R61, R338: TRAVW waits as one entry while a walk of its slots runs; when all have ended it gives each lane the status word, 0
and the final pointer, 0 without a walk, and empties the slots; a mark of TRAP takes TRAV with the pointer of the lowest such
lane, and the marks are cleared when the trap is taken. -/
def Obligations.WalksStartAndAreAwaited : Prop := WalksAreStarted ∧ WalksAreWaitedFor

/-- R250, R380, R384, R386: COLL of a context with a live job table, whose SEQ the device has not joined and whose buffers lie on
plain local pages, joins with the rank and the members as the table has them: held entries count among them as live ones, and
this device is found by its FABID, which is deduced (log entry 43). The context has no counter records here. R383, R386:
COLLSTAT gives the status of the street's latest COLL in bits 31 to 28, NONE where there is none, and N, in which held entries
count (DEDUCED, log entry 43). -/
def Obligations.CollectivesJoinAndReport : Prop := CollectivesAreJoined ∧ CollectiveStatusIsReported

/-- R350, R351: CLAIM takes ownership where there is none, for the master of the lowest number among those that claim in one
cycle; HANDTO passes it; a control write of another master than the owner is ignored and counted in DENIED. R170, R180, R318,
R344, R346, R352, R358, R369: the owner's writes: an invalidation is started, a core's stall counters and error counts are
cleared, a bank is retired once for its group, a weigh request is made, PLIM takes a value in its range, a range monitor is
cleared, and a register takes what is written to it; HEAD of a die queue takes it from any master. Writes taken from every
master and values ignored are deduced (log entry 42). R6, R170, R318, R344 to R346, R349, R351, R352: what the eight bytes at
an address of the windows read as: ELECT, PLIM, the clock and the power, the measurements, a die's TLBICTL and HEAD, a core's
stall counters; GO of TLBICTL, an offset that is not listed and an address below the windows read as zero. A read as a
function of the state is deduced (log entry 65). -/
def Obligations.ManagementWindowsTakeWrites : Prop := WindowsHaveOneOwner ∧ WindowsTakeTheOwnersWrites ∧ WindowsAreRead

/-- R347 to R349, R352, R359, R360: power loss and a thermal shutdown leave the flash alone; a clock step moves the frequency by
the power limit and marks each die at 105 °C; an image that has come is verified, and when it passes it is measured, its body
stands at its load address and the boot goes on; one that fails is fetched again; a failed fetch goes to port 1, then to the
wait of a second; a measurement is extended by SHA-256. The time of the load and the phases shown are the model's choice (log
entry 62). SHA-256 is presumed (log entry 30); what extends a measurement and the clock of a hot die are deduced (log entries
44 and 63). R376, R377: a link that comes up shows its peer; a replayed flit is counted; a port runs on with the lanes left,
DEGRADED, and is DOWN with none. -/
def Obligations.PowerBootAndLinks : Prop := PowerAndBoot ∧ LinksReportTheirState

/-- R361, R380, R381, R383: heartbeats are sent every 10 µs and restart a member's timer; a member whose timer has run out, or
that has not joined a collective within PTO of its first join, is declared failed: the collectives in flight restart without
it, and the table's DIGEST becomes that of the new membership message; HOLD and RELEASE of a peer set its STATE. No request
stands out at a device, no barrier in memory and no monitor here, no descriptor's JOBDIGEST overlaps the entry, and the
heartbeat received tells of no joins. DIGEST is a SHA-256, whose function is presumed (log entry 30). When this device signs
is the model's choice, how progress is held against a member deduced (log entries 64 and 43). R382, R384, R386: a collective
whose members disagree, or one of which aborts, completes with MISMATCH and leaves DST as it was; a broadcast that completes
gives this device ROOT's slot of bytes in DST, here within one sector. The operands of other members come with the event (log
entry 43). -/
def Obligations.JobMembersAndCollectives : Prop := MembersAreWatched ∧ CollectivesComplete

/-- R29, R149, R155, R161, R243, R370, R371: a passed fault point closes its window, whose result and flags are then visible; the
replay of a serviced fault releases the street after the page tables are written; a halt request stops a street, or every
street of a context, at its next boundary, at trap level 1 at once under force, a saved one so when it is restored; that of a
thread of a system core posts a stop record without a street; a stopped street continues, at another PC where one is given; a
YIELD ends after its cycles. How a context or a thread is stopped is the model's choice (log entry 66). R186, R201: a monitor
that fires ends the wait of WAITA on its line and is freed; the path goes on at the next instruction. -/
def Obligations.StreetsStopContinueAndWake : Prop := StreetsAreHeldAndReleased ∧ MonitorsEndWaits

/-- R253 to R257, R289: ingestion takes the record at the head of a pending-launch queue into the die's ready pool, with the
copies and the state that its checks give; a direct post enters it; a LAUNCH passed over 64 times reserves its cores. The
order of the checks and the copies are deduced (log entry 34). R52, R54, R153, R163, R164, R235, R257: DISPATCH places a READY
LAUNCH of one core where nothing is placed: its block with cleared scratchpad, pans, queues and timelines, and its streets
with their registers cleared at the kernel's entry; the record runs. The LAUNCH is not paired, and its places are the model's
choice (log entry 26). -/
def Obligations.TasksEnterAndAreDispatched : Prop := RecordsEnterThePool ∧ LaunchesArePlaced

/-- R242 to R246, R281, R284: an idle engine takes a queued operation at its queue's head; one passed over 16 times is raised; a
merge of PANZ clears its pan, joins its summary and ends it; a translation fault leaves the step's operation FAULTED, with a
fault record; a serviced one is QUEUED again. R88, R139, R140, R243, R244, R248, R280 to R282, R284, R285: on f32 operands a
K-step of MMT adds 256 products to each element of its pan in ascending k, MMTS those of the kept elements, MMM those of the
means and in the next pan the variance terms; PANLD loads a pan and PANST stores one. KPROG and the summary follow, and the
last step ends the operation. That a K-step is made whole in one merge and adds +0 for an element that is not kept or lies
outside the limits is deduced (log entry 40), and which NaN a fused product gives is the model's choice (log entry 17). The
engine's context keeps no page counters and no translations here, and PANST's rows hold no page table. R250: the operation
whose ordered number comes next makes its advance when its turn has come. -/
def Obligations.EnginesAndTurnsMakeProgress : Prop := EnginesRunOperations ∧ StepsAccumulate ∧ TurnsAreTaken

/-- R259 to R261, R293, R294: a copy of raw bytes moves them from global memory to the scratchpad, and is over. A copy in one step
is the model's choice (log entry 23). R262, R281, R282, R293, R294, R299 to R301: CPYRED combines its elements into those of
global memory; a copy from a page of f16 or bf16 elements widens them, one to such a page rounds them to nearest even; SALN
writes the kept elements and zeros, SMETA the kept elements and their indices. Each is then over, and no other byte of memory
changes. R331 to R333: one evaluation of a walk on a record it holds: it follows the pointer that the match or miss field
names, or goes to its next rule on the same record; either way it counts a step and remembers the rule. The seat of a walk is
the model's choice (log entry 9). R331 to R336: a walk that a TRAV started into the block's scratchpad ends where its rule
says so: DONE on a match, with its record at its destination; MISS on a mismatch, at a null pointer as well; LIMIT when its
steps are spent; these write nothing. Its status word stands with it, and its TRAV waits for it no longer. -/
def Obligations.CopiesAndWalksMakeProgress : Prop := CopiesMoveTheirElements ∧ CopiesCombineAndConvert ∧ WalksEvaluateRules ∧ WalksEnd

/-- R169, R170, R352: an arithmetic cycle raises the clock by one and the time by the period of the current frequency; a core with
no street resident, on a die that does not stand still, counts no eligible street and reason NONE for both schedulers;
registers and memory are as before. That a hot die stands still in some cycles is deduced (log entry 63). R319, R320, R357,
R374: outstanding counts reach their weigh area and their page's counter record, saturating, and a SYNC packet goes into an
enabled core's trace buffer. Where the counter records stand is log entry 7. -/
def Obligations.CyclesAndCountsAdvance : Prop := CyclesAreCounted ∧ CountsAreFlushed
end

