-- ==== Sys2Proof/Laws/Memory.lean ====
section
/-! SUPPORT. Laws of a memory in canonical form: a read after a write, what a write leaves alone, that every operation keeps the
form, and that two memories in the form that read alike are equal. -/

namespace Sys2Proof.Machine

/-! ### The form -/

@[simp] theorem Memory.wfFrom_nil (lo : Nat) : Memory.wfFrom lo [] = true := rfl

@[simp] theorem Memory.wf_nil : Memory.wf [] = true := rfl

theorem Memory.wfFrom_cons {lo b : Nat} {v : Byte} {m : Memory} :
    Memory.wfFrom lo ((b, v) :: m) = true ↔ lo ≤ b ∧ v ≠ unlistedByte ∧ Memory.wfFrom (b + 1) m = true := by
  simp [Memory.wfFrom, and_assoc]

theorem Memory.wfFrom_mono {lo lo' : Nat} {m : Memory} (h : Memory.wfFrom lo m = true) (hl : lo' ≤ lo) :
    Memory.wfFrom lo' m = true := by
  cases m with
  | nil => rfl
  | cons c m => rw [Memory.wfFrom_cons] at h ⊢; exact ⟨le_trans hl h.1, h.2⟩

/-- Below its first address a memory in canonical form reads as unlisted. -/
theorem Memory.read_below {lo a : Nat} {m : Memory} (h : Memory.wfFrom lo m = true) (ha : a < lo) : m.read a = unlistedByte := by
  induction m generalizing lo with
  | nil => rfl
  | cons c m ih =>
    rw [Memory.wfFrom_cons] at h
    simp only [Memory.read]
    rw [if_neg (by omega)]
    exact ih h.2.2 (by omega)

/-- A filter keeps the form. -/
theorem Memory.wfFrom_filter {lo : Nat} {m : Memory} (p : Host.Cell → Bool) (h : Memory.wfFrom lo m = true) :
    Memory.wfFrom lo (m.filter p) = true := by
  induction m generalizing lo with
  | nil => rfl
  | cons c m ih =>
    obtain ⟨b, v⟩ := c
    rw [Memory.wfFrom_cons] at h
    rw [List.filter_cons]
    split
    · exact Memory.wfFrom_cons.2 ⟨h.1, h.2.1, ih h.2.2⟩
    · exact Memory.wfFrom_mono (ih h.2.2) (by omega)

/-- Two memories of which the first ends before the second begins stand one after the other in the form. -/
theorem Memory.wfFrom_append {lo hi : Nat} {m n : Memory} (h : Memory.wfFrom lo m = true) (hm : ∀ c ∈ m, c.1 < hi)
    (hn : Memory.wfFrom hi n = true) (hl : lo ≤ hi) : Memory.wfFrom lo (m ++ n) = true := by
  induction m generalizing lo with
  | nil => exact Memory.wfFrom_mono hn hl
  | cons c m ih =>
    obtain ⟨b, v⟩ := c
    rw [Memory.wfFrom_cons] at h
    have hb : b < hi := hm (b, v) (by simp)
    rw [List.cons_append, Memory.wfFrom_cons]
    exact ⟨h.1, h.2.1, ih h.2.2 (fun c hc => hm c (by simp [hc])) hb⟩

/-! ### One byte -/

theorem Memory.wfFrom_write {lo a : Nat} {m : Memory} (v : Byte) (h : Memory.wfFrom lo m = true) (ha : lo ≤ a) :
    Memory.wfFrom lo (m.write a v) = true := by
  induction m generalizing lo with
  | nil => simp only [Memory.write]; split <;> simp_all [Memory.wfFrom]
  | cons c m ih =>
    obtain ⟨b, x⟩ := c
    rw [Memory.wfFrom_cons] at h
    simp only [Memory.write]
    split
    · rename_i hab
      split
      · exact Memory.wfFrom_cons.2 h
      · rename_i hv
        exact Memory.wfFrom_cons.2 ⟨ha, hv, Memory.wfFrom_cons.2 ⟨by omega, h.2⟩⟩
    · split
      · rename_i _ hab
        split
        · exact Memory.wfFrom_mono h.2.2 (by omega)
        · rename_i hv
          exact Memory.wfFrom_cons.2 ⟨ha, hv, by rw [hab]; exact h.2.2⟩
      · exact Memory.wfFrom_cons.2 ⟨h.1, h.2.1, ih h.2.2 (by omega)⟩

/-- Writing a byte keeps the form. -/
@[simp] theorem Memory.wf_write {a : Nat} {v : Byte} {m : Memory} (h : m.wf = true) : (m.write a v).wf = true :=
  Memory.wfFrom_write v h (Nat.zero_le a)

/-- A byte written is read, in a memory in canonical form. -/
theorem Memory.read_write_same {lo a : Nat} {m : Memory} (v : Byte) (h : Memory.wfFrom lo m = true) :
    (m.write a v).read a = v := by
  induction m generalizing lo with
  | nil => simp only [Memory.write]; split <;> simp_all [Memory.read]
  | cons c m ih =>
    obtain ⟨b, x⟩ := c
    rw [Memory.wfFrom_cons] at h
    simp only [Memory.write]
    split
    · rename_i hab
      split
      · rename_i hv
        simp only [Memory.read]
        rw [if_neg (by omega), Memory.read_below h.2.2 (by omega), hv]
      · simp [Memory.read]
    · split
      · rename_i _ hab
        split
        · rename_i hv; rw [Memory.read_below h.2.2 (by omega), hv]
        · simp [Memory.read]
      · rename_i h1 h2
        simp only [Memory.read]
        rw [if_neg h2]
        exact ih h.2.2

/-- A write leaves every other byte alone, in a memory in canonical form. -/
theorem Memory.read_write_other {lo a b : Nat} {m : Memory} (v : Byte) (h : Memory.wfFrom lo m = true) (hab : b ≠ a) :
    (m.write a v).read b = m.read b := by
  induction m generalizing lo with
  | nil => simp only [Memory.write]; split <;> simp [Memory.read, hab]
  | cons c m ih =>
    obtain ⟨d, x⟩ := c
    rw [Memory.wfFrom_cons] at h
    simp only [Memory.write]
    split
    · split
      · rfl
      · simp [Memory.read, hab]
    · split
      · rename_i _ had
        split
        · simp only [Memory.read]
          rw [if_neg (by omega)]
        · simp [Memory.read, hab, ← had]
      · simp only [Memory.read]
        rw [ih h.2.2]

/-- What a byte reads as after a write. -/
theorem Memory.read_write {a b : Nat} {v : Byte} {m : Memory} (h : m.wf = true) :
    (m.write a v).read b = if b = a then v else m.read b := by
  split
  · rename_i hb; rw [hb]; exact Memory.read_write_same v h
  · rename_i hb; exact Memory.read_write_other v h hb

/-! ### Bytes in a row -/

/-- Writing bytes keeps the form. -/
@[simp] theorem Memory.wf_writeN {a : Nat} {bs : List Byte} {m : Memory} (h : m.wf = true) : (m.writeN a bs).wf = true := by
  induction bs generalizing a m with
  | nil => exact h
  | cons v vs ih => exact ih (Memory.wf_write h)

/-- Writing a number keeps the form. -/
@[simp] theorem Memory.wf_putNat {a n x : Nat} {m : Memory} (h : m.wf = true) : (m.putNat a n x).wf = true := Memory.wf_writeN h

@[simp] theorem Memory.wf_clear {lo hi : Nat} {m : Memory} (h : m.wf = true) : (m.clear lo hi).wf = true := Memory.wfFrom_filter _ h

@[simp] theorem Memory.wf_window {a n : Nat} {m : Memory} (h : m.wf = true) : (m.window a n).wf = true := Memory.wfFrom_filter _ h

theorem Memory.wfFrom_ofBytes {a : Nat} {bs : List Byte} : Memory.wfFrom a (Memory.ofBytes a bs) = true := by
  induction bs generalizing a with
  | nil => rfl
  | cons v vs ih =>
    simp only [Memory.ofBytes]
    split
    · exact Memory.wfFrom_mono ih (by omega)
    · rename_i hv; exact Memory.wfFrom_cons.2 ⟨le_refl a, hv, ih⟩

theorem Memory.mem_ofBytes {a : Nat} {bs : List Byte} {c : Host.Cell} (h : c ∈ Memory.ofBytes a bs) : a ≤ c.1 ∧ c.1 < a + bs.length := by
  induction bs generalizing a with
  | nil => simp [Memory.ofBytes] at h
  | cons v vs ih =>
    simp only [Memory.ofBytes] at h
    split at h
    · have := ih h; simp only [List.length_cons]; omega
    · rcases List.mem_cons.1 h with rfl | h
      · simp
      · have := ih h; simp only [List.length_cons]; omega

theorem Memory.wfFrom_from {lo hi : Nat} {m : Memory} (h : Memory.wfFrom lo m = true) :
    Memory.wfFrom hi (m.filter fun c => decide (hi ≤ c.1)) = true := by
  induction m generalizing lo with
  | nil => rfl
  | cons c m ih =>
    obtain ⟨b, v⟩ := c
    rw [Memory.wfFrom_cons] at h
    rw [List.filter_cons]
    split
    · rename_i hb
      refine Memory.wfFrom_cons.2 ⟨by simpa using hb, h.2.1, Memory.wfFrom_filter _ h.2.2⟩
    · exact ih h.2.2

/-- Replacing a range keeps the form. -/
@[simp] theorem Memory.wf_splice {a : Nat} {bs : List Byte} {m : Memory} (h : m.wf = true) : (m.splice a bs).wf = true := by
  unfold Memory.splice Memory.wf
  rw [List.append_assoc]
  refine Memory.wfFrom_append (hi := a) (Memory.wfFrom_filter _ h) (fun c hc => by simpa using (List.mem_filter.1 hc).2) ?_ (Nat.zero_le a)
  exact Memory.wfFrom_append Memory.wfFrom_ofBytes (fun c hc => (Memory.mem_ofBytes hc).2) (Memory.wfFrom_from h) (by omega)

@[simp] theorem Memory.length_readN (m : Memory) (a n : Nat) : (m.readN a n).length = n := by
  induction n generalizing a with
  | zero => rfl
  | succ n ih => simp [Memory.readN, ih]

theorem Memory.readN_getElem? (m : Memory) (a n i : Nat) (h : i < n) : (m.readN a n)[i]? = some (m.read (a + i)) := by
  induction n generalizing a i with
  | zero => omega
  | succ n ih =>
    cases i with
    | zero => simp [Memory.readN]
    | succ i => simp only [Memory.readN, List.getElem?_cons_succ]; rw [ih (a + 1) i (by omega)]; congr 2; omega

theorem Memory.readN_append (m : Memory) (a k n : Nat) : m.readN a (k + n) = m.readN a k ++ m.readN (a + k) n := by
  induction k generalizing a with
  | zero => simp [Memory.readN]
  | succ k ih =>
    rw [show k + 1 + n = (k + n) + 1 by omega]
    simp only [Memory.readN, List.cons_append]
    rw [ih (a + 1), show a + 1 + k = a + (k + 1) by omega]

/-- What a byte reads as after bytes were written from `a` upward. -/
theorem Memory.read_writeN {a b : Nat} {bs : List Byte} {m : Memory} (h : m.wf = true) :
    (m.writeN a bs).read b = if a ≤ b ∧ b < a + bs.length then bs.getD (b - a) 0 else m.read b := by
  induction bs generalizing a m with
  | nil => simp [Memory.writeN]
  | cons v vs ih =>
    simp only [Memory.writeN, List.length_cons]
    rw [ih (Memory.wf_write h), Memory.read_write h]
    by_cases hb : b = a
    · subst hb; rw [if_neg (by omega), if_pos rfl, if_pos (by omega)]; simp
    · rw [if_neg hb]
      by_cases hc : a + 1 ≤ b ∧ b < a + 1 + vs.length
      · rw [if_pos hc, if_pos (by omega), show b - a = (b - (a + 1)) + 1 by omega]; simp
      · rw [if_neg hc, if_neg (by omega)]

theorem Memory.read_writeN_outside {a b : Nat} {bs : List Byte} {m : Memory} (h : m.wf = true) (hb : b < a ∨ a + bs.length ≤ b) :
    (m.writeN a bs).read b = m.read b := by
  rw [Memory.read_writeN h, if_neg (by omega)]

/-- Bytes written are read. -/
theorem Memory.readN_writeN_same {a : Nat} {bs : List Byte} {m : Memory} (h : m.wf = true) :
    (m.writeN a bs).readN a bs.length = bs := by
  refine List.ext_getElem? fun i => ?_
  by_cases hi : i < bs.length
  · rw [Memory.readN_getElem? _ _ _ _ hi, Memory.read_writeN h, if_pos (by omega), List.getElem?_eq_getElem hi]
    simp [hi]
  · rw [List.getElem?_eq_none (by simpa using hi), List.getElem?_eq_none (by simpa using hi)]

theorem Memory.readN_writeN_apart {a b n : Nat} {bs : List Byte} {m : Memory} (h : m.wf = true) (hb : b + n ≤ a ∨ a + bs.length ≤ b) :
    (m.writeN a bs).readN b n = m.readN b n := by
  refine List.ext_getElem? fun i => ?_
  by_cases hi : i < n
  · rw [Memory.readN_getElem? _ _ _ _ hi, Memory.readN_getElem? _ _ _ _ hi, Memory.read_writeN_outside h (by omega)]
  · rw [List.getElem?_eq_none (by simpa using hi), List.getElem?_eq_none (by simpa using hi)]

/-! ### Numbers -/

@[simp] theorem length_leBytes (n x : Nat) : (leBytes n x).length = n := by
  induction n generalizing x with
  | zero => rfl
  | succ n ih => simp [leBytes, ih]

/-- The bytes of a number are the number, modulo their count (R2). -/
theorem leNat_leBytes (n x : Nat) : leNat (leBytes n x) = x % 256 ^ n := by
  induction n generalizing x with
  | zero => simp [leBytes, leNat, Nat.mod_one]
  | succ n ih =>
    have e : 256 ^ (n + 1) = 256 * 256 ^ n := pow_succ' 256 n
    have k : x % (256 * 256 ^ n) = x % 256 + 256 * (x / 256 % 256 ^ n) := Nat.mod_mul
    rw [e, k, leBytes, leNat, ih, BitVec.toNat_ofNat]

/-- A number written is read. -/
theorem Memory.nat_putNat_same {a n x : Nat} {m : Memory} (h : m.wf = true) : (m.putNat a n x).nat a n = x % 256 ^ n := by
  have := Memory.readN_writeN_same (a := a) (bs := leBytes n x) h
  rw [length_leBytes] at this
  rw [Memory.nat, Memory.putNat, this, leNat_leBytes]

theorem Memory.nat_putNat_apart {a b n k x : Nat} {m : Memory} (h : m.wf = true) (hb : b + k ≤ a ∨ a + n ≤ b) :
    (m.putNat a n x).nat b k = m.nat b k := by
  rw [Memory.nat, Memory.putNat, Memory.readN_writeN_apart h (by simpa using hb)]; rfl

/-! ### Equal memories -/

theorem Memory.eq_of_read {lo : Nat} {m n : Memory} (hm : Memory.wfFrom lo m = true) (hn : Memory.wfFrom lo n = true)
    (h : ∀ a, m.read a = n.read a) : m = n := by
  induction m generalizing lo n with
  | nil =>
    cases n with
    | nil => rfl
    | cons c n =>
      rw [Memory.wfFrom_cons] at hn
      have := h c.1
      simp only [Memory.read, if_true] at this
      exact absurd this.symm hn.2.1
  | cons c m ih =>
    obtain ⟨b, v⟩ := c
    rw [Memory.wfFrom_cons] at hm
    cases n with
    | nil =>
      have := h b
      simp only [Memory.read, if_true] at this
      exact absurd this hm.2.1
    | cons d n =>
      obtain ⟨e, w⟩ := d
      rw [Memory.wfFrom_cons] at hn
      have hbe : b = e := by
        by_contra hne
        rcases Nat.lt_or_gt_of_ne hne with hlt | hlt
        · have := h b
          simp only [Memory.read, if_true] at this
          rw [if_neg (by omega), Memory.read_below hn.2.2 (by omega)] at this
          exact hm.2.1 this
        · have := h e
          simp only [Memory.read, if_true] at this
          rw [if_neg (by omega), Memory.read_below hm.2.2 (by omega)] at this
          exact hn.2.1 this.symm
      subst hbe
      have hv : v = w := by simpa [Memory.read] using h b
      subst hv
      congr 1
      refine ih hm.2.2 hn.2.2 fun a => ?_
      by_cases hab : a = b
      · subst hab; rw [Memory.read_below hm.2.2 (by omega), Memory.read_below hn.2.2 (by omega)]
      · simpa [Memory.read, hab] using h a

/-- Memories in canonical form that read alike are equal data. -/
theorem Memory.ext_of_wf {m n : Memory} (hm : m.wf = true) (hn : n.wf = true) (h : ∀ a, m.read a = n.read a) : m = n :=
  Memory.eq_of_read hm hn h

/-- The memory of the machine after reset is in canonical form. -/
@[simp] theorem State.reset_mem_wf : State.reset.mem.wf = true := rfl

end Sys2Proof.Machine
end

