-- ==== Sys2Proof/Laws/State.lean ====
section
/-! SUPPORT. What each named update of a state, a street and a block leaves, field by field: every lemma holds by definition,
so that no later proof unfolds a record update. -/

namespace Sys2Proof.Machine

/-! `State.onSt` -/

@[simp] theorem onSt_blk (s : State) (f : Street → Street) : (s.onSt f).blk = s.blk := rfl
@[simp] theorem onSt_streets (s : State) (f : Street → Street) : (s.onSt f).streets = s.streets := rfl
@[simp] theorem onSt_blocks (s : State) (f : Street → Street) : (s.onSt f).blocks = s.blocks := rfl
@[simp] theorem onSt_mem (s : State) (f : Street → Street) : (s.onSt f).mem = s.mem := rfl
@[simp] theorem onSt_cores (s : State) (f : Street → Street) : (s.onSt f).cores = s.cores := rfl
@[simp] theorem onSt_dies (s : State) (f : Street → Street) : (s.onSt f).dies = s.dies := rfl
@[simp] theorem onSt_engines (s : State) (f : Street → Street) : (s.onSt f).engines = s.engines := rfl
@[simp] theorem onSt_pkg (s : State) (f : Street → Street) : (s.onSt f).pkg = s.pkg := rfl
@[simp] theorem onSt_clock (s : State) (f : Street → Street) : (s.onSt f).clock = s.clock := rfl
@[simp] theorem onSt_timeNs (s : State) (f : Street → Street) : (s.onSt f).timeNs = s.timeNs := rfl
@[simp] theorem onSt_timeAcc (s : State) (f : Street → Street) : (s.onSt f).timeAcc = s.timeAcc := rfl
@[simp] theorem onSt_tlbs (s : State) (f : Street → Street) : (s.onSt f).tlbs = s.tlbs := rfl
@[simp] theorem onSt_l2 (s : State) (f : Street → Street) : (s.onSt f).l2 = s.l2 := rfl
@[simp] theorem onSt_lineVer (s : State) (f : Street → Street) : (s.onSt f).lineVer = s.lineVer := rfl
@[simp] theorem onSt_colours (s : State) (f : Street → Street) : (s.onSt f).colours = s.colours := rfl
@[simp] theorem onSt_bars (s : State) (f : Street → Street) : (s.onSt f).bars = s.bars := rfl
@[simp] theorem onSt_poison (s : State) (f : Street → Street) : (s.onSt f).poison = s.poison := rfl
@[simp] theorem onSt_upsets (s : State) (f : Street → Street) : (s.onSt f).upsets = s.upsets := rfl
@[simp] theorem onSt_corrected (s : State) (f : Street → Street) : (s.onSt f).corrected = s.corrected := rfl
@[simp] theorem onSt_copies (s : State) (f : Street → Street) : (s.onSt f).copies = s.copies := rfl
@[simp] theorem onSt_walks (s : State) (f : Street → Street) : (s.onSt f).walks = s.walks := rfl
@[simp] theorem onSt_travs (s : State) (f : Street → Street) : (s.onSt f).travs = s.travs := rfl
@[simp] theorem onSt_late (s : State) (f : Street → Street) : (s.onSt f).late = s.late := rfl
@[simp] theorem onSt_mreds (s : State) (f : Street → Street) : (s.onSt f).mreds = s.mreds := rfl
@[simp] theorem onSt_colls (s : State) (f : Street → Street) : (s.onSt f).colls = s.colls := rfl
@[simp] theorem onSt_jobs (s : State) (f : Street → Street) : (s.onSt f).jobs = s.jobs := rfl
@[simp] theorem onSt_remote (s : State) (f : Street → Street) : (s.onSt f).remote = s.remote := rfl
@[simp] theorem onSt_ctxs (s : State) (f : Street → Street) : (s.onSt f).ctxs = s.ctxs := rfl
@[simp] theorem onSt_wdeltas (s : State) (f : Street → Street) : (s.onSt f).wdeltas = s.wdeltas := rfl
@[simp] theorem onSt_nextId (s : State) (f : Street → Street) : (s.onSt f).nextId = s.nextId := rfl
@[simp] theorem onSt_packed (s : State) (f : Street → Street) : (s.onSt f).packed = s.packed := rfl
@[simp] theorem onSt_qlock (s : State) (f : Street → Street) : (s.onSt f).qlock = s.qlock := rfl
@[simp] theorem onSt_stopped (s : State) (f : Street → Street) : (s.onSt f).stopped = s.stopped := rfl
@[simp] theorem onSt_agenda (s : State) (f : Street → Street) : (s.onSt f).agenda = s.agenda := rfl
@[simp] theorem onSt_bgDone (s : State) (f : Street → Street) : (s.onSt f).bgDone = s.bgDone := rfl
@[simp] theorem onSt_freeTick (s : State) (f : Street → Street) : (s.onSt f).freeTick = s.freeTick := rfl
@[simp] theorem onSt_st (s : State) (f : Street → Street) : (s.onSt f).st = f s.st := rfl

/-! `State.done` -/

@[simp] theorem done_blk (s : State) : (s.done).blk = s.blk := rfl
@[simp] theorem done_streets (s : State) : (s.done).streets = s.streets := rfl
@[simp] theorem done_blocks (s : State) : (s.done).blocks = s.blocks := rfl
@[simp] theorem done_mem (s : State) : (s.done).mem = s.mem := rfl
@[simp] theorem done_cores (s : State) : (s.done).cores = s.cores := rfl
@[simp] theorem done_dies (s : State) : (s.done).dies = s.dies := rfl
@[simp] theorem done_engines (s : State) : (s.done).engines = s.engines := rfl
@[simp] theorem done_pkg (s : State) : (s.done).pkg = s.pkg := rfl
@[simp] theorem done_clock (s : State) : (s.done).clock = s.clock := rfl
@[simp] theorem done_timeNs (s : State) : (s.done).timeNs = s.timeNs := rfl
@[simp] theorem done_timeAcc (s : State) : (s.done).timeAcc = s.timeAcc := rfl
@[simp] theorem done_tlbs (s : State) : (s.done).tlbs = s.tlbs := rfl
@[simp] theorem done_l2 (s : State) : (s.done).l2 = s.l2 := rfl
@[simp] theorem done_lineVer (s : State) : (s.done).lineVer = s.lineVer := rfl
@[simp] theorem done_colours (s : State) : (s.done).colours = s.colours := rfl
@[simp] theorem done_bars (s : State) : (s.done).bars = s.bars := rfl
@[simp] theorem done_poison (s : State) : (s.done).poison = s.poison := rfl
@[simp] theorem done_upsets (s : State) : (s.done).upsets = s.upsets := rfl
@[simp] theorem done_corrected (s : State) : (s.done).corrected = s.corrected := rfl
@[simp] theorem done_copies (s : State) : (s.done).copies = s.copies := rfl
@[simp] theorem done_walks (s : State) : (s.done).walks = s.walks := rfl
@[simp] theorem done_travs (s : State) : (s.done).travs = s.travs := rfl
@[simp] theorem done_late (s : State) : (s.done).late = s.late := rfl
@[simp] theorem done_mreds (s : State) : (s.done).mreds = s.mreds := rfl
@[simp] theorem done_colls (s : State) : (s.done).colls = s.colls := rfl
@[simp] theorem done_jobs (s : State) : (s.done).jobs = s.jobs := rfl
@[simp] theorem done_remote (s : State) : (s.done).remote = s.remote := rfl
@[simp] theorem done_ctxs (s : State) : (s.done).ctxs = s.ctxs := rfl
@[simp] theorem done_wdeltas (s : State) : (s.done).wdeltas = s.wdeltas := rfl
@[simp] theorem done_nextId (s : State) : (s.done).nextId = s.nextId := rfl
@[simp] theorem done_packed (s : State) : (s.done).packed = s.packed := rfl
@[simp] theorem done_qlock (s : State) : (s.done).qlock = s.qlock := rfl
@[simp] theorem done_stopped (s : State) : (s.done).stopped = s.stopped := rfl
@[simp] theorem done_agenda (s : State) : (s.done).agenda = s.agenda := rfl
@[simp] theorem done_bgDone (s : State) : (s.done).bgDone = s.bgDone := rfl
@[simp] theorem done_freeTick (s : State) : (s.done).freeTick = s.freeTick := rfl

@[simp] theorem done_st_life (s : State) : s.done.st.life = s.st.life := rfl
@[simp] theorem done_st_sid (s : State) : s.done.st.sid = s.st.sid := rfl
@[simp] theorem done_st_block (s : State) : s.done.st.block = s.st.block := rfl
@[simp] theorem done_st_core (s : State) : s.done.st.core = s.st.core := rfl
@[simp] theorem done_st_slot (s : State) : s.done.st.slot = s.st.slot := rfl
@[simp] theorem done_st_sindex (s : State) : s.done.st.sindex = s.st.sindex := rfl
@[simp] theorem done_st_placed (s : State) : s.done.st.placed = s.st.placed := rfl
@[simp] theorem done_st_regs (s : State) : s.done.st.regs = s.st.regs := rfl
@[simp] theorem done_st_md (s : State) : s.done.st.md = s.st.md := rfl
@[simp] theorem done_st_sr (s : State) : s.done.st.sr = s.st.sr := rfl
@[simp] theorem done_st_sel (s : State) : s.done.st.sel = s.st.sel := rfl
@[simp] theorem done_st_lastSel (s : State) : s.done.st.lastSel = s.st.lastSel := rfl
@[simp] theorem done_st_chans (s : State) : s.done.st.chans = s.st.chans := rfl
@[simp] theorem done_st_tlevel (s : State) : s.done.st.tlevel = s.st.tlevel := rfl
@[simp] theorem done_st_trap (s : State) : s.done.st.trap = s.st.trap := rfl
@[simp] theorem done_st_hscr (s : State) : s.done.st.hscr = s.st.hscr := rfl
@[simp] theorem done_st_thand (s : State) : s.done.st.thand = s.st.thand := rfl
@[simp] theorem done_st_tsave (s : State) : s.done.st.tsave = s.st.tsave := rfl
@[simp] theorem done_st_fstk (s : State) : s.done.st.fstk = s.st.fstk := rfl
@[simp] theorem done_st_ctxflags (s : State) : s.done.st.ctxflags = s.st.ctxflags := rfl
@[simp] theorem done_st_clkhi (s : State) : s.done.st.clkhi = s.st.clkhi := rfl
@[simp] theorem done_st_windows (s : State) : s.done.st.windows = s.st.windows := rfl
@[simp] theorem done_st_yieldUntil (s : State) : s.done.st.yieldUntil = s.st.yieldUntil := rfl
@[simp] theorem done_st_passOver (s : State) : s.done.st.passOver = s.st.passOver := rfl
@[simp] theorem done_st_svc (s : State) : s.done.st.svc = s.st.svc := rfl
@[simp] theorem done_st_haltReq (s : State) : s.done.st.haltReq = s.st.haltReq := rfl
@[simp] theorem done_st_watchSkip (s : State) : s.done.st.watchSkip = s.st.watchSkip := rfl
@[simp] theorem done_st_seen (s : State) : s.done.st.seen = s.st.seen := rfl
@[simp] theorem done_st_holds (s : State) : s.done.st.holds = s.st.holds := rfl
@[simp] theorem done_st_clrw (s : State) : s.done.st.clrw = s.st.clrw := rfl
@[simp] theorem done_st_ops (s : State) : s.done.st.ops = s.st.ops := rfl
@[simp] theorem done_st_walkSlots (s : State) : s.done.st.walkSlots = s.st.walkSlots := rfl
@[simp] theorem done_st_copyErr (s : State) : s.done.st.copyErr = s.st.copyErr := rfl
@[simp] theorem done_st_coll (s : State) : s.done.st.coll = s.st.coll := rfl
@[simp] theorem done_st_pair (s : State) : s.done.st.pair = s.st.pair := rfl
@[simp] theorem done_st_ready (s : State) : s.done.st.ready = s.st.ready := rfl
@[simp] theorem done_st_lastIssue (s : State) : s.done.st.lastIssue = s.st.lastIssue := rfl
@[simp] theorem done_st_tried (s : State) : s.done.st.tried = s.st.tried := rfl
@[simp] theorem done_st_heard (s : State) : s.done.st.heard = s.st.heard := rfl
@[simp] theorem done_st_reserves (s : State) : s.done.st.reserves = s.st.reserves := rfl
@[simp] theorem done_st_haltForce (s : State) : s.done.st.haltForce = s.st.haltForce := rfl
@[simp] theorem done_st_stall (s : State) : s.done.st.stall = none := rfl
@[simp] theorem done_st_paths (s : State) :
    s.done.st.paths = s.st.paths.set s.st.sel { s.st.path with pc := s.st.path.pc + 4 } := rfl

/-! `State.stalled` -/

@[simp] theorem stalled_blk (s : State) (r : Stall) : (s.stalled r).blk = s.blk := rfl
@[simp] theorem stalled_streets (s : State) (r : Stall) : (s.stalled r).streets = s.streets := rfl
@[simp] theorem stalled_blocks (s : State) (r : Stall) : (s.stalled r).blocks = s.blocks := rfl
@[simp] theorem stalled_mem (s : State) (r : Stall) : (s.stalled r).mem = s.mem := rfl
@[simp] theorem stalled_cores (s : State) (r : Stall) : (s.stalled r).cores = s.cores := rfl
@[simp] theorem stalled_dies (s : State) (r : Stall) : (s.stalled r).dies = s.dies := rfl
@[simp] theorem stalled_engines (s : State) (r : Stall) : (s.stalled r).engines = s.engines := rfl
@[simp] theorem stalled_pkg (s : State) (r : Stall) : (s.stalled r).pkg = s.pkg := rfl
@[simp] theorem stalled_clock (s : State) (r : Stall) : (s.stalled r).clock = s.clock := rfl
@[simp] theorem stalled_timeNs (s : State) (r : Stall) : (s.stalled r).timeNs = s.timeNs := rfl
@[simp] theorem stalled_timeAcc (s : State) (r : Stall) : (s.stalled r).timeAcc = s.timeAcc := rfl
@[simp] theorem stalled_tlbs (s : State) (r : Stall) : (s.stalled r).tlbs = s.tlbs := rfl
@[simp] theorem stalled_l2 (s : State) (r : Stall) : (s.stalled r).l2 = s.l2 := rfl
@[simp] theorem stalled_lineVer (s : State) (r : Stall) : (s.stalled r).lineVer = s.lineVer := rfl
@[simp] theorem stalled_colours (s : State) (r : Stall) : (s.stalled r).colours = s.colours := rfl
@[simp] theorem stalled_bars (s : State) (r : Stall) : (s.stalled r).bars = s.bars := rfl
@[simp] theorem stalled_poison (s : State) (r : Stall) : (s.stalled r).poison = s.poison := rfl
@[simp] theorem stalled_upsets (s : State) (r : Stall) : (s.stalled r).upsets = s.upsets := rfl
@[simp] theorem stalled_corrected (s : State) (r : Stall) : (s.stalled r).corrected = s.corrected := rfl
@[simp] theorem stalled_copies (s : State) (r : Stall) : (s.stalled r).copies = s.copies := rfl
@[simp] theorem stalled_walks (s : State) (r : Stall) : (s.stalled r).walks = s.walks := rfl
@[simp] theorem stalled_travs (s : State) (r : Stall) : (s.stalled r).travs = s.travs := rfl
@[simp] theorem stalled_late (s : State) (r : Stall) : (s.stalled r).late = s.late := rfl
@[simp] theorem stalled_mreds (s : State) (r : Stall) : (s.stalled r).mreds = s.mreds := rfl
@[simp] theorem stalled_colls (s : State) (r : Stall) : (s.stalled r).colls = s.colls := rfl
@[simp] theorem stalled_jobs (s : State) (r : Stall) : (s.stalled r).jobs = s.jobs := rfl
@[simp] theorem stalled_remote (s : State) (r : Stall) : (s.stalled r).remote = s.remote := rfl
@[simp] theorem stalled_ctxs (s : State) (r : Stall) : (s.stalled r).ctxs = s.ctxs := rfl
@[simp] theorem stalled_wdeltas (s : State) (r : Stall) : (s.stalled r).wdeltas = s.wdeltas := rfl
@[simp] theorem stalled_nextId (s : State) (r : Stall) : (s.stalled r).nextId = s.nextId := rfl
@[simp] theorem stalled_packed (s : State) (r : Stall) : (s.stalled r).packed = s.packed := rfl
@[simp] theorem stalled_qlock (s : State) (r : Stall) : (s.stalled r).qlock = s.qlock := rfl
@[simp] theorem stalled_stopped (s : State) (r : Stall) : (s.stalled r).stopped = s.stopped := rfl
@[simp] theorem stalled_agenda (s : State) (r : Stall) : (s.stalled r).agenda = s.agenda := rfl
@[simp] theorem stalled_bgDone (s : State) (r : Stall) : (s.stalled r).bgDone = s.bgDone := rfl
@[simp] theorem stalled_freeTick (s : State) (r : Stall) : (s.stalled r).freeTick = s.freeTick := rfl

@[simp] theorem stalled_st_life (s : State) (r : Stall) : (s.stalled r).st.life = s.st.life := rfl
@[simp] theorem stalled_st_sid (s : State) (r : Stall) : (s.stalled r).st.sid = s.st.sid := rfl
@[simp] theorem stalled_st_block (s : State) (r : Stall) : (s.stalled r).st.block = s.st.block := rfl
@[simp] theorem stalled_st_core (s : State) (r : Stall) : (s.stalled r).st.core = s.st.core := rfl
@[simp] theorem stalled_st_slot (s : State) (r : Stall) : (s.stalled r).st.slot = s.st.slot := rfl
@[simp] theorem stalled_st_sindex (s : State) (r : Stall) : (s.stalled r).st.sindex = s.st.sindex := rfl
@[simp] theorem stalled_st_placed (s : State) (r : Stall) : (s.stalled r).st.placed = s.st.placed := rfl
@[simp] theorem stalled_st_regs (s : State) (r : Stall) : (s.stalled r).st.regs = s.st.regs := rfl
@[simp] theorem stalled_st_md (s : State) (r : Stall) : (s.stalled r).st.md = s.st.md := rfl
@[simp] theorem stalled_st_sr (s : State) (r : Stall) : (s.stalled r).st.sr = s.st.sr := rfl
@[simp] theorem stalled_st_paths (s : State) (r : Stall) : (s.stalled r).st.paths = s.st.paths := rfl
@[simp] theorem stalled_st_sel (s : State) (r : Stall) : (s.stalled r).st.sel = s.st.sel := rfl
@[simp] theorem stalled_st_lastSel (s : State) (r : Stall) : (s.stalled r).st.lastSel = s.st.lastSel := rfl
@[simp] theorem stalled_st_chans (s : State) (r : Stall) : (s.stalled r).st.chans = s.st.chans := rfl
@[simp] theorem stalled_st_tlevel (s : State) (r : Stall) : (s.stalled r).st.tlevel = s.st.tlevel := rfl
@[simp] theorem stalled_st_trap (s : State) (r : Stall) : (s.stalled r).st.trap = s.st.trap := rfl
@[simp] theorem stalled_st_hscr (s : State) (r : Stall) : (s.stalled r).st.hscr = s.st.hscr := rfl
@[simp] theorem stalled_st_thand (s : State) (r : Stall) : (s.stalled r).st.thand = s.st.thand := rfl
@[simp] theorem stalled_st_tsave (s : State) (r : Stall) : (s.stalled r).st.tsave = s.st.tsave := rfl
@[simp] theorem stalled_st_fstk (s : State) (r : Stall) : (s.stalled r).st.fstk = s.st.fstk := rfl
@[simp] theorem stalled_st_ctxflags (s : State) (r : Stall) : (s.stalled r).st.ctxflags = s.st.ctxflags := rfl
@[simp] theorem stalled_st_clkhi (s : State) (r : Stall) : (s.stalled r).st.clkhi = s.st.clkhi := rfl
@[simp] theorem stalled_st_windows (s : State) (r : Stall) : (s.stalled r).st.windows = s.st.windows := rfl
@[simp] theorem stalled_st_yieldUntil (s : State) (r : Stall) : (s.stalled r).st.yieldUntil = s.st.yieldUntil := rfl
@[simp] theorem stalled_st_passOver (s : State) (r : Stall) : (s.stalled r).st.passOver = s.st.passOver := rfl
@[simp] theorem stalled_st_svc (s : State) (r : Stall) : (s.stalled r).st.svc = s.st.svc := rfl
@[simp] theorem stalled_st_haltReq (s : State) (r : Stall) : (s.stalled r).st.haltReq = s.st.haltReq := rfl
@[simp] theorem stalled_st_watchSkip (s : State) (r : Stall) : (s.stalled r).st.watchSkip = s.st.watchSkip := rfl
@[simp] theorem stalled_st_seen (s : State) (r : Stall) : (s.stalled r).st.seen = s.st.seen := rfl
@[simp] theorem stalled_st_holds (s : State) (r : Stall) : (s.stalled r).st.holds = s.st.holds := rfl
@[simp] theorem stalled_st_clrw (s : State) (r : Stall) : (s.stalled r).st.clrw = s.st.clrw := rfl
@[simp] theorem stalled_st_ops (s : State) (r : Stall) : (s.stalled r).st.ops = s.st.ops := rfl
@[simp] theorem stalled_st_walkSlots (s : State) (r : Stall) : (s.stalled r).st.walkSlots = s.st.walkSlots := rfl
@[simp] theorem stalled_st_copyErr (s : State) (r : Stall) : (s.stalled r).st.copyErr = s.st.copyErr := rfl
@[simp] theorem stalled_st_coll (s : State) (r : Stall) : (s.stalled r).st.coll = s.st.coll := rfl
@[simp] theorem stalled_st_pair (s : State) (r : Stall) : (s.stalled r).st.pair = s.st.pair := rfl
@[simp] theorem stalled_st_ready (s : State) (r : Stall) : (s.stalled r).st.ready = s.st.ready := rfl
@[simp] theorem stalled_st_lastIssue (s : State) (r : Stall) : (s.stalled r).st.lastIssue = s.st.lastIssue := rfl
@[simp] theorem stalled_st_tried (s : State) (r : Stall) : (s.stalled r).st.tried = s.st.tried := rfl
@[simp] theorem stalled_st_heard (s : State) (r : Stall) : (s.stalled r).st.heard = s.st.heard := rfl
@[simp] theorem stalled_st_reserves (s : State) (r : Stall) : (s.stalled r).st.reserves = s.st.reserves := rfl
@[simp] theorem stalled_st_haltForce (s : State) (r : Stall) : (s.stalled r).st.haltForce = s.st.haltForce := rfl
@[simp] theorem stalled_st_stall (s : State) (r : Stall) : (s.stalled r).st.stall = some r := rfl

/-! `State.mapStreets` and `State.onStreet` -/

@[simp] theorem mapStreets_blk (s : State) (f : Street → Street) : (s.mapStreets f).blk = s.blk := rfl
@[simp] theorem mapStreets_blocks (s : State) (f : Street → Street) : (s.mapStreets f).blocks = s.blocks := rfl
@[simp] theorem mapStreets_mem (s : State) (f : Street → Street) : (s.mapStreets f).mem = s.mem := rfl
@[simp] theorem mapStreets_cores (s : State) (f : Street → Street) : (s.mapStreets f).cores = s.cores := rfl
@[simp] theorem mapStreets_dies (s : State) (f : Street → Street) : (s.mapStreets f).dies = s.dies := rfl
@[simp] theorem mapStreets_engines (s : State) (f : Street → Street) : (s.mapStreets f).engines = s.engines := rfl
@[simp] theorem mapStreets_pkg (s : State) (f : Street → Street) : (s.mapStreets f).pkg = s.pkg := rfl
@[simp] theorem mapStreets_clock (s : State) (f : Street → Street) : (s.mapStreets f).clock = s.clock := rfl
@[simp] theorem mapStreets_timeNs (s : State) (f : Street → Street) : (s.mapStreets f).timeNs = s.timeNs := rfl
@[simp] theorem mapStreets_timeAcc (s : State) (f : Street → Street) : (s.mapStreets f).timeAcc = s.timeAcc := rfl
@[simp] theorem mapStreets_tlbs (s : State) (f : Street → Street) : (s.mapStreets f).tlbs = s.tlbs := rfl
@[simp] theorem mapStreets_l2 (s : State) (f : Street → Street) : (s.mapStreets f).l2 = s.l2 := rfl
@[simp] theorem mapStreets_lineVer (s : State) (f : Street → Street) : (s.mapStreets f).lineVer = s.lineVer := rfl
@[simp] theorem mapStreets_colours (s : State) (f : Street → Street) : (s.mapStreets f).colours = s.colours := rfl
@[simp] theorem mapStreets_bars (s : State) (f : Street → Street) : (s.mapStreets f).bars = s.bars := rfl
@[simp] theorem mapStreets_poison (s : State) (f : Street → Street) : (s.mapStreets f).poison = s.poison := rfl
@[simp] theorem mapStreets_upsets (s : State) (f : Street → Street) : (s.mapStreets f).upsets = s.upsets := rfl
@[simp] theorem mapStreets_corrected (s : State) (f : Street → Street) : (s.mapStreets f).corrected = s.corrected := rfl
@[simp] theorem mapStreets_copies (s : State) (f : Street → Street) : (s.mapStreets f).copies = s.copies := rfl
@[simp] theorem mapStreets_walks (s : State) (f : Street → Street) : (s.mapStreets f).walks = s.walks := rfl
@[simp] theorem mapStreets_travs (s : State) (f : Street → Street) : (s.mapStreets f).travs = s.travs := rfl
@[simp] theorem mapStreets_late (s : State) (f : Street → Street) : (s.mapStreets f).late = s.late := rfl
@[simp] theorem mapStreets_mreds (s : State) (f : Street → Street) : (s.mapStreets f).mreds = s.mreds := rfl
@[simp] theorem mapStreets_colls (s : State) (f : Street → Street) : (s.mapStreets f).colls = s.colls := rfl
@[simp] theorem mapStreets_jobs (s : State) (f : Street → Street) : (s.mapStreets f).jobs = s.jobs := rfl
@[simp] theorem mapStreets_remote (s : State) (f : Street → Street) : (s.mapStreets f).remote = s.remote := rfl
@[simp] theorem mapStreets_ctxs (s : State) (f : Street → Street) : (s.mapStreets f).ctxs = s.ctxs := rfl
@[simp] theorem mapStreets_wdeltas (s : State) (f : Street → Street) : (s.mapStreets f).wdeltas = s.wdeltas := rfl
@[simp] theorem mapStreets_nextId (s : State) (f : Street → Street) : (s.mapStreets f).nextId = s.nextId := rfl
@[simp] theorem mapStreets_packed (s : State) (f : Street → Street) : (s.mapStreets f).packed = s.packed := rfl
@[simp] theorem mapStreets_qlock (s : State) (f : Street → Street) : (s.mapStreets f).qlock = s.qlock := rfl
@[simp] theorem mapStreets_stopped (s : State) (f : Street → Street) : (s.mapStreets f).stopped = s.stopped := rfl
@[simp] theorem mapStreets_agenda (s : State) (f : Street → Street) : (s.mapStreets f).agenda = s.agenda := rfl
@[simp] theorem mapStreets_bgDone (s : State) (f : Street → Street) : (s.mapStreets f).bgDone = s.bgDone := rfl
@[simp] theorem mapStreets_freeTick (s : State) (f : Street → Street) : (s.mapStreets f).freeTick = s.freeTick := rfl
@[simp] theorem mapStreets_st (s : State) (f : Street → Street) : (s.mapStreets f).st = f s.st := rfl
@[simp] theorem mapStreets_streets (s : State) (f : Street → Street) : (s.mapStreets f).streets = s.streets.map f := rfl

@[simp] theorem onStreet_blk (s : State) (i : StreetId) (f : Street → Street) : (s.onStreet i f).blk = s.blk := rfl
@[simp] theorem onStreet_blocks (s : State) (i : StreetId) (f : Street → Street) : (s.onStreet i f).blocks = s.blocks := rfl
@[simp] theorem onStreet_mem (s : State) (i : StreetId) (f : Street → Street) : (s.onStreet i f).mem = s.mem := rfl
@[simp] theorem onStreet_cores (s : State) (i : StreetId) (f : Street → Street) : (s.onStreet i f).cores = s.cores := rfl
@[simp] theorem onStreet_dies (s : State) (i : StreetId) (f : Street → Street) : (s.onStreet i f).dies = s.dies := rfl
@[simp] theorem onStreet_engines (s : State) (i : StreetId) (f : Street → Street) : (s.onStreet i f).engines = s.engines := rfl
@[simp] theorem onStreet_pkg (s : State) (i : StreetId) (f : Street → Street) : (s.onStreet i f).pkg = s.pkg := rfl
@[simp] theorem onStreet_clock (s : State) (i : StreetId) (f : Street → Street) : (s.onStreet i f).clock = s.clock := rfl
@[simp] theorem onStreet_timeNs (s : State) (i : StreetId) (f : Street → Street) : (s.onStreet i f).timeNs = s.timeNs := rfl
@[simp] theorem onStreet_timeAcc (s : State) (i : StreetId) (f : Street → Street) : (s.onStreet i f).timeAcc = s.timeAcc := rfl
@[simp] theorem onStreet_tlbs (s : State) (i : StreetId) (f : Street → Street) : (s.onStreet i f).tlbs = s.tlbs := rfl
@[simp] theorem onStreet_l2 (s : State) (i : StreetId) (f : Street → Street) : (s.onStreet i f).l2 = s.l2 := rfl
@[simp] theorem onStreet_lineVer (s : State) (i : StreetId) (f : Street → Street) : (s.onStreet i f).lineVer = s.lineVer := rfl
@[simp] theorem onStreet_colours (s : State) (i : StreetId) (f : Street → Street) : (s.onStreet i f).colours = s.colours := rfl
@[simp] theorem onStreet_bars (s : State) (i : StreetId) (f : Street → Street) : (s.onStreet i f).bars = s.bars := rfl
@[simp] theorem onStreet_poison (s : State) (i : StreetId) (f : Street → Street) : (s.onStreet i f).poison = s.poison := rfl
@[simp] theorem onStreet_upsets (s : State) (i : StreetId) (f : Street → Street) : (s.onStreet i f).upsets = s.upsets := rfl
@[simp] theorem onStreet_corrected (s : State) (i : StreetId) (f : Street → Street) : (s.onStreet i f).corrected = s.corrected := rfl
@[simp] theorem onStreet_copies (s : State) (i : StreetId) (f : Street → Street) : (s.onStreet i f).copies = s.copies := rfl
@[simp] theorem onStreet_walks (s : State) (i : StreetId) (f : Street → Street) : (s.onStreet i f).walks = s.walks := rfl
@[simp] theorem onStreet_travs (s : State) (i : StreetId) (f : Street → Street) : (s.onStreet i f).travs = s.travs := rfl
@[simp] theorem onStreet_late (s : State) (i : StreetId) (f : Street → Street) : (s.onStreet i f).late = s.late := rfl
@[simp] theorem onStreet_mreds (s : State) (i : StreetId) (f : Street → Street) : (s.onStreet i f).mreds = s.mreds := rfl
@[simp] theorem onStreet_colls (s : State) (i : StreetId) (f : Street → Street) : (s.onStreet i f).colls = s.colls := rfl
@[simp] theorem onStreet_jobs (s : State) (i : StreetId) (f : Street → Street) : (s.onStreet i f).jobs = s.jobs := rfl
@[simp] theorem onStreet_remote (s : State) (i : StreetId) (f : Street → Street) : (s.onStreet i f).remote = s.remote := rfl
@[simp] theorem onStreet_ctxs (s : State) (i : StreetId) (f : Street → Street) : (s.onStreet i f).ctxs = s.ctxs := rfl
@[simp] theorem onStreet_wdeltas (s : State) (i : StreetId) (f : Street → Street) : (s.onStreet i f).wdeltas = s.wdeltas := rfl
@[simp] theorem onStreet_nextId (s : State) (i : StreetId) (f : Street → Street) : (s.onStreet i f).nextId = s.nextId := rfl
@[simp] theorem onStreet_packed (s : State) (i : StreetId) (f : Street → Street) : (s.onStreet i f).packed = s.packed := rfl
@[simp] theorem onStreet_qlock (s : State) (i : StreetId) (f : Street → Street) : (s.onStreet i f).qlock = s.qlock := rfl
@[simp] theorem onStreet_stopped (s : State) (i : StreetId) (f : Street → Street) : (s.onStreet i f).stopped = s.stopped := rfl
@[simp] theorem onStreet_agenda (s : State) (i : StreetId) (f : Street → Street) : (s.onStreet i f).agenda = s.agenda := rfl
@[simp] theorem onStreet_bgDone (s : State) (i : StreetId) (f : Street → Street) : (s.onStreet i f).bgDone = s.bgDone := rfl
@[simp] theorem onStreet_freeTick (s : State) (i : StreetId) (f : Street → Street) : (s.onStreet i f).freeTick = s.freeTick := rfl

/-! `State.mapBlocks` and `State.onBlock` -/

@[simp] theorem mapBlocks_st (s : State) (f : Block → Block) : (s.mapBlocks f).st = s.st := rfl
@[simp] theorem mapBlocks_streets (s : State) (f : Block → Block) : (s.mapBlocks f).streets = s.streets := rfl
@[simp] theorem mapBlocks_mem (s : State) (f : Block → Block) : (s.mapBlocks f).mem = s.mem := rfl
@[simp] theorem mapBlocks_cores (s : State) (f : Block → Block) : (s.mapBlocks f).cores = s.cores := rfl
@[simp] theorem mapBlocks_dies (s : State) (f : Block → Block) : (s.mapBlocks f).dies = s.dies := rfl
@[simp] theorem mapBlocks_engines (s : State) (f : Block → Block) : (s.mapBlocks f).engines = s.engines := rfl
@[simp] theorem mapBlocks_pkg (s : State) (f : Block → Block) : (s.mapBlocks f).pkg = s.pkg := rfl
@[simp] theorem mapBlocks_clock (s : State) (f : Block → Block) : (s.mapBlocks f).clock = s.clock := rfl
@[simp] theorem mapBlocks_timeNs (s : State) (f : Block → Block) : (s.mapBlocks f).timeNs = s.timeNs := rfl
@[simp] theorem mapBlocks_timeAcc (s : State) (f : Block → Block) : (s.mapBlocks f).timeAcc = s.timeAcc := rfl
@[simp] theorem mapBlocks_tlbs (s : State) (f : Block → Block) : (s.mapBlocks f).tlbs = s.tlbs := rfl
@[simp] theorem mapBlocks_l2 (s : State) (f : Block → Block) : (s.mapBlocks f).l2 = s.l2 := rfl
@[simp] theorem mapBlocks_lineVer (s : State) (f : Block → Block) : (s.mapBlocks f).lineVer = s.lineVer := rfl
@[simp] theorem mapBlocks_colours (s : State) (f : Block → Block) : (s.mapBlocks f).colours = s.colours := rfl
@[simp] theorem mapBlocks_bars (s : State) (f : Block → Block) : (s.mapBlocks f).bars = s.bars := rfl
@[simp] theorem mapBlocks_poison (s : State) (f : Block → Block) : (s.mapBlocks f).poison = s.poison := rfl
@[simp] theorem mapBlocks_upsets (s : State) (f : Block → Block) : (s.mapBlocks f).upsets = s.upsets := rfl
@[simp] theorem mapBlocks_corrected (s : State) (f : Block → Block) : (s.mapBlocks f).corrected = s.corrected := rfl
@[simp] theorem mapBlocks_copies (s : State) (f : Block → Block) : (s.mapBlocks f).copies = s.copies := rfl
@[simp] theorem mapBlocks_walks (s : State) (f : Block → Block) : (s.mapBlocks f).walks = s.walks := rfl
@[simp] theorem mapBlocks_travs (s : State) (f : Block → Block) : (s.mapBlocks f).travs = s.travs := rfl
@[simp] theorem mapBlocks_late (s : State) (f : Block → Block) : (s.mapBlocks f).late = s.late := rfl
@[simp] theorem mapBlocks_mreds (s : State) (f : Block → Block) : (s.mapBlocks f).mreds = s.mreds := rfl
@[simp] theorem mapBlocks_colls (s : State) (f : Block → Block) : (s.mapBlocks f).colls = s.colls := rfl
@[simp] theorem mapBlocks_jobs (s : State) (f : Block → Block) : (s.mapBlocks f).jobs = s.jobs := rfl
@[simp] theorem mapBlocks_remote (s : State) (f : Block → Block) : (s.mapBlocks f).remote = s.remote := rfl
@[simp] theorem mapBlocks_ctxs (s : State) (f : Block → Block) : (s.mapBlocks f).ctxs = s.ctxs := rfl
@[simp] theorem mapBlocks_wdeltas (s : State) (f : Block → Block) : (s.mapBlocks f).wdeltas = s.wdeltas := rfl
@[simp] theorem mapBlocks_nextId (s : State) (f : Block → Block) : (s.mapBlocks f).nextId = s.nextId := rfl
@[simp] theorem mapBlocks_packed (s : State) (f : Block → Block) : (s.mapBlocks f).packed = s.packed := rfl
@[simp] theorem mapBlocks_qlock (s : State) (f : Block → Block) : (s.mapBlocks f).qlock = s.qlock := rfl
@[simp] theorem mapBlocks_stopped (s : State) (f : Block → Block) : (s.mapBlocks f).stopped = s.stopped := rfl
@[simp] theorem mapBlocks_agenda (s : State) (f : Block → Block) : (s.mapBlocks f).agenda = s.agenda := rfl
@[simp] theorem mapBlocks_bgDone (s : State) (f : Block → Block) : (s.mapBlocks f).bgDone = s.bgDone := rfl
@[simp] theorem mapBlocks_freeTick (s : State) (f : Block → Block) : (s.mapBlocks f).freeTick = s.freeTick := rfl
@[simp] theorem mapBlocks_blk (s : State) (f : Block → Block) : (s.mapBlocks f).blk = f s.blk := rfl
@[simp] theorem mapBlocks_blocks (s : State) (f : Block → Block) : (s.mapBlocks f).blocks = s.blocks.map f := rfl

@[simp] theorem onBlock_st (s : State) (i : Nat) (f : Block → Block) : (s.onBlock i f).st = s.st := rfl
@[simp] theorem onBlock_streets (s : State) (i : Nat) (f : Block → Block) : (s.onBlock i f).streets = s.streets := rfl
@[simp] theorem onBlock_mem (s : State) (i : Nat) (f : Block → Block) : (s.onBlock i f).mem = s.mem := rfl
@[simp] theorem onBlock_cores (s : State) (i : Nat) (f : Block → Block) : (s.onBlock i f).cores = s.cores := rfl
@[simp] theorem onBlock_dies (s : State) (i : Nat) (f : Block → Block) : (s.onBlock i f).dies = s.dies := rfl
@[simp] theorem onBlock_engines (s : State) (i : Nat) (f : Block → Block) : (s.onBlock i f).engines = s.engines := rfl
@[simp] theorem onBlock_pkg (s : State) (i : Nat) (f : Block → Block) : (s.onBlock i f).pkg = s.pkg := rfl
@[simp] theorem onBlock_clock (s : State) (i : Nat) (f : Block → Block) : (s.onBlock i f).clock = s.clock := rfl
@[simp] theorem onBlock_timeNs (s : State) (i : Nat) (f : Block → Block) : (s.onBlock i f).timeNs = s.timeNs := rfl
@[simp] theorem onBlock_timeAcc (s : State) (i : Nat) (f : Block → Block) : (s.onBlock i f).timeAcc = s.timeAcc := rfl
@[simp] theorem onBlock_tlbs (s : State) (i : Nat) (f : Block → Block) : (s.onBlock i f).tlbs = s.tlbs := rfl
@[simp] theorem onBlock_l2 (s : State) (i : Nat) (f : Block → Block) : (s.onBlock i f).l2 = s.l2 := rfl
@[simp] theorem onBlock_lineVer (s : State) (i : Nat) (f : Block → Block) : (s.onBlock i f).lineVer = s.lineVer := rfl
@[simp] theorem onBlock_colours (s : State) (i : Nat) (f : Block → Block) : (s.onBlock i f).colours = s.colours := rfl
@[simp] theorem onBlock_bars (s : State) (i : Nat) (f : Block → Block) : (s.onBlock i f).bars = s.bars := rfl
@[simp] theorem onBlock_poison (s : State) (i : Nat) (f : Block → Block) : (s.onBlock i f).poison = s.poison := rfl
@[simp] theorem onBlock_upsets (s : State) (i : Nat) (f : Block → Block) : (s.onBlock i f).upsets = s.upsets := rfl
@[simp] theorem onBlock_corrected (s : State) (i : Nat) (f : Block → Block) : (s.onBlock i f).corrected = s.corrected := rfl
@[simp] theorem onBlock_copies (s : State) (i : Nat) (f : Block → Block) : (s.onBlock i f).copies = s.copies := rfl
@[simp] theorem onBlock_walks (s : State) (i : Nat) (f : Block → Block) : (s.onBlock i f).walks = s.walks := rfl
@[simp] theorem onBlock_travs (s : State) (i : Nat) (f : Block → Block) : (s.onBlock i f).travs = s.travs := rfl
@[simp] theorem onBlock_late (s : State) (i : Nat) (f : Block → Block) : (s.onBlock i f).late = s.late := rfl
@[simp] theorem onBlock_mreds (s : State) (i : Nat) (f : Block → Block) : (s.onBlock i f).mreds = s.mreds := rfl
@[simp] theorem onBlock_colls (s : State) (i : Nat) (f : Block → Block) : (s.onBlock i f).colls = s.colls := rfl
@[simp] theorem onBlock_jobs (s : State) (i : Nat) (f : Block → Block) : (s.onBlock i f).jobs = s.jobs := rfl
@[simp] theorem onBlock_remote (s : State) (i : Nat) (f : Block → Block) : (s.onBlock i f).remote = s.remote := rfl
@[simp] theorem onBlock_ctxs (s : State) (i : Nat) (f : Block → Block) : (s.onBlock i f).ctxs = s.ctxs := rfl
@[simp] theorem onBlock_wdeltas (s : State) (i : Nat) (f : Block → Block) : (s.onBlock i f).wdeltas = s.wdeltas := rfl
@[simp] theorem onBlock_nextId (s : State) (i : Nat) (f : Block → Block) : (s.onBlock i f).nextId = s.nextId := rfl
@[simp] theorem onBlock_packed (s : State) (i : Nat) (f : Block → Block) : (s.onBlock i f).packed = s.packed := rfl
@[simp] theorem onBlock_qlock (s : State) (i : Nat) (f : Block → Block) : (s.onBlock i f).qlock = s.qlock := rfl
@[simp] theorem onBlock_stopped (s : State) (i : Nat) (f : Block → Block) : (s.onBlock i f).stopped = s.stopped := rfl
@[simp] theorem onBlock_agenda (s : State) (i : Nat) (f : Block → Block) : (s.onBlock i f).agenda = s.agenda := rfl
@[simp] theorem onBlock_bgDone (s : State) (i : Nat) (f : Block → Block) : (s.onBlock i f).bgDone = s.bgDone := rfl
@[simp] theorem onBlock_freeTick (s : State) (i : Nat) (f : Block → Block) : (s.onBlock i f).freeTick = s.freeTick := rfl

/-! Cores, dies, engines, queues and colours -/

@[simp] theorem onCore_st (s : State) (i : Nat) (f : Core → Core) : (s.onCore i f).st = s.st := rfl
@[simp] theorem onCore_blk (s : State) (i : Nat) (f : Core → Core) : (s.onCore i f).blk = s.blk := rfl
@[simp] theorem onCore_streets (s : State) (i : Nat) (f : Core → Core) : (s.onCore i f).streets = s.streets := rfl
@[simp] theorem onCore_blocks (s : State) (i : Nat) (f : Core → Core) : (s.onCore i f).blocks = s.blocks := rfl
@[simp] theorem onCore_mem (s : State) (i : Nat) (f : Core → Core) : (s.onCore i f).mem = s.mem := rfl
@[simp] theorem onCore_dies (s : State) (i : Nat) (f : Core → Core) : (s.onCore i f).dies = s.dies := rfl
@[simp] theorem onCore_engines (s : State) (i : Nat) (f : Core → Core) : (s.onCore i f).engines = s.engines := rfl
@[simp] theorem onCore_pkg (s : State) (i : Nat) (f : Core → Core) : (s.onCore i f).pkg = s.pkg := rfl
@[simp] theorem onCore_clock (s : State) (i : Nat) (f : Core → Core) : (s.onCore i f).clock = s.clock := rfl
@[simp] theorem onCore_timeNs (s : State) (i : Nat) (f : Core → Core) : (s.onCore i f).timeNs = s.timeNs := rfl
@[simp] theorem onCore_timeAcc (s : State) (i : Nat) (f : Core → Core) : (s.onCore i f).timeAcc = s.timeAcc := rfl
@[simp] theorem onCore_tlbs (s : State) (i : Nat) (f : Core → Core) : (s.onCore i f).tlbs = s.tlbs := rfl
@[simp] theorem onCore_l2 (s : State) (i : Nat) (f : Core → Core) : (s.onCore i f).l2 = s.l2 := rfl
@[simp] theorem onCore_lineVer (s : State) (i : Nat) (f : Core → Core) : (s.onCore i f).lineVer = s.lineVer := rfl
@[simp] theorem onCore_colours (s : State) (i : Nat) (f : Core → Core) : (s.onCore i f).colours = s.colours := rfl
@[simp] theorem onCore_bars (s : State) (i : Nat) (f : Core → Core) : (s.onCore i f).bars = s.bars := rfl
@[simp] theorem onCore_poison (s : State) (i : Nat) (f : Core → Core) : (s.onCore i f).poison = s.poison := rfl
@[simp] theorem onCore_upsets (s : State) (i : Nat) (f : Core → Core) : (s.onCore i f).upsets = s.upsets := rfl
@[simp] theorem onCore_corrected (s : State) (i : Nat) (f : Core → Core) : (s.onCore i f).corrected = s.corrected := rfl
@[simp] theorem onCore_copies (s : State) (i : Nat) (f : Core → Core) : (s.onCore i f).copies = s.copies := rfl
@[simp] theorem onCore_walks (s : State) (i : Nat) (f : Core → Core) : (s.onCore i f).walks = s.walks := rfl
@[simp] theorem onCore_travs (s : State) (i : Nat) (f : Core → Core) : (s.onCore i f).travs = s.travs := rfl
@[simp] theorem onCore_late (s : State) (i : Nat) (f : Core → Core) : (s.onCore i f).late = s.late := rfl
@[simp] theorem onCore_mreds (s : State) (i : Nat) (f : Core → Core) : (s.onCore i f).mreds = s.mreds := rfl
@[simp] theorem onCore_colls (s : State) (i : Nat) (f : Core → Core) : (s.onCore i f).colls = s.colls := rfl
@[simp] theorem onCore_jobs (s : State) (i : Nat) (f : Core → Core) : (s.onCore i f).jobs = s.jobs := rfl
@[simp] theorem onCore_remote (s : State) (i : Nat) (f : Core → Core) : (s.onCore i f).remote = s.remote := rfl
@[simp] theorem onCore_ctxs (s : State) (i : Nat) (f : Core → Core) : (s.onCore i f).ctxs = s.ctxs := rfl
@[simp] theorem onCore_wdeltas (s : State) (i : Nat) (f : Core → Core) : (s.onCore i f).wdeltas = s.wdeltas := rfl
@[simp] theorem onCore_nextId (s : State) (i : Nat) (f : Core → Core) : (s.onCore i f).nextId = s.nextId := rfl
@[simp] theorem onCore_packed (s : State) (i : Nat) (f : Core → Core) : (s.onCore i f).packed = s.packed := rfl
@[simp] theorem onCore_qlock (s : State) (i : Nat) (f : Core → Core) : (s.onCore i f).qlock = s.qlock := rfl
@[simp] theorem onCore_stopped (s : State) (i : Nat) (f : Core → Core) : (s.onCore i f).stopped = s.stopped := rfl
@[simp] theorem onCore_agenda (s : State) (i : Nat) (f : Core → Core) : (s.onCore i f).agenda = s.agenda := rfl
@[simp] theorem onCore_bgDone (s : State) (i : Nat) (f : Core → Core) : (s.onCore i f).bgDone = s.bgDone := rfl
@[simp] theorem onCore_freeTick (s : State) (i : Nat) (f : Core → Core) : (s.onCore i f).freeTick = s.freeTick := rfl

@[simp] theorem mapCores_st (s : State) (f : Core → Core) : (s.mapCores f).st = s.st := rfl
@[simp] theorem mapCores_blk (s : State) (f : Core → Core) : (s.mapCores f).blk = s.blk := rfl
@[simp] theorem mapCores_streets (s : State) (f : Core → Core) : (s.mapCores f).streets = s.streets := rfl
@[simp] theorem mapCores_blocks (s : State) (f : Core → Core) : (s.mapCores f).blocks = s.blocks := rfl
@[simp] theorem mapCores_mem (s : State) (f : Core → Core) : (s.mapCores f).mem = s.mem := rfl
@[simp] theorem mapCores_dies (s : State) (f : Core → Core) : (s.mapCores f).dies = s.dies := rfl
@[simp] theorem mapCores_engines (s : State) (f : Core → Core) : (s.mapCores f).engines = s.engines := rfl
@[simp] theorem mapCores_pkg (s : State) (f : Core → Core) : (s.mapCores f).pkg = s.pkg := rfl
@[simp] theorem mapCores_clock (s : State) (f : Core → Core) : (s.mapCores f).clock = s.clock := rfl
@[simp] theorem mapCores_timeNs (s : State) (f : Core → Core) : (s.mapCores f).timeNs = s.timeNs := rfl
@[simp] theorem mapCores_timeAcc (s : State) (f : Core → Core) : (s.mapCores f).timeAcc = s.timeAcc := rfl
@[simp] theorem mapCores_tlbs (s : State) (f : Core → Core) : (s.mapCores f).tlbs = s.tlbs := rfl
@[simp] theorem mapCores_l2 (s : State) (f : Core → Core) : (s.mapCores f).l2 = s.l2 := rfl
@[simp] theorem mapCores_lineVer (s : State) (f : Core → Core) : (s.mapCores f).lineVer = s.lineVer := rfl
@[simp] theorem mapCores_colours (s : State) (f : Core → Core) : (s.mapCores f).colours = s.colours := rfl
@[simp] theorem mapCores_bars (s : State) (f : Core → Core) : (s.mapCores f).bars = s.bars := rfl
@[simp] theorem mapCores_poison (s : State) (f : Core → Core) : (s.mapCores f).poison = s.poison := rfl
@[simp] theorem mapCores_upsets (s : State) (f : Core → Core) : (s.mapCores f).upsets = s.upsets := rfl
@[simp] theorem mapCores_corrected (s : State) (f : Core → Core) : (s.mapCores f).corrected = s.corrected := rfl
@[simp] theorem mapCores_copies (s : State) (f : Core → Core) : (s.mapCores f).copies = s.copies := rfl
@[simp] theorem mapCores_walks (s : State) (f : Core → Core) : (s.mapCores f).walks = s.walks := rfl
@[simp] theorem mapCores_travs (s : State) (f : Core → Core) : (s.mapCores f).travs = s.travs := rfl
@[simp] theorem mapCores_late (s : State) (f : Core → Core) : (s.mapCores f).late = s.late := rfl
@[simp] theorem mapCores_mreds (s : State) (f : Core → Core) : (s.mapCores f).mreds = s.mreds := rfl
@[simp] theorem mapCores_colls (s : State) (f : Core → Core) : (s.mapCores f).colls = s.colls := rfl
@[simp] theorem mapCores_jobs (s : State) (f : Core → Core) : (s.mapCores f).jobs = s.jobs := rfl
@[simp] theorem mapCores_remote (s : State) (f : Core → Core) : (s.mapCores f).remote = s.remote := rfl
@[simp] theorem mapCores_ctxs (s : State) (f : Core → Core) : (s.mapCores f).ctxs = s.ctxs := rfl
@[simp] theorem mapCores_wdeltas (s : State) (f : Core → Core) : (s.mapCores f).wdeltas = s.wdeltas := rfl
@[simp] theorem mapCores_nextId (s : State) (f : Core → Core) : (s.mapCores f).nextId = s.nextId := rfl
@[simp] theorem mapCores_packed (s : State) (f : Core → Core) : (s.mapCores f).packed = s.packed := rfl
@[simp] theorem mapCores_qlock (s : State) (f : Core → Core) : (s.mapCores f).qlock = s.qlock := rfl
@[simp] theorem mapCores_stopped (s : State) (f : Core → Core) : (s.mapCores f).stopped = s.stopped := rfl
@[simp] theorem mapCores_agenda (s : State) (f : Core → Core) : (s.mapCores f).agenda = s.agenda := rfl
@[simp] theorem mapCores_bgDone (s : State) (f : Core → Core) : (s.mapCores f).bgDone = s.bgDone := rfl
@[simp] theorem mapCores_freeTick (s : State) (f : Core → Core) : (s.mapCores f).freeTick = s.freeTick := rfl

@[simp] theorem onDie_st (s : State) (i : Nat) (f : Die → Die) : (s.onDie i f).st = s.st := rfl
@[simp] theorem onDie_blk (s : State) (i : Nat) (f : Die → Die) : (s.onDie i f).blk = s.blk := rfl
@[simp] theorem onDie_streets (s : State) (i : Nat) (f : Die → Die) : (s.onDie i f).streets = s.streets := rfl
@[simp] theorem onDie_blocks (s : State) (i : Nat) (f : Die → Die) : (s.onDie i f).blocks = s.blocks := rfl
@[simp] theorem onDie_mem (s : State) (i : Nat) (f : Die → Die) : (s.onDie i f).mem = s.mem := rfl
@[simp] theorem onDie_cores (s : State) (i : Nat) (f : Die → Die) : (s.onDie i f).cores = s.cores := rfl
@[simp] theorem onDie_engines (s : State) (i : Nat) (f : Die → Die) : (s.onDie i f).engines = s.engines := rfl
@[simp] theorem onDie_pkg (s : State) (i : Nat) (f : Die → Die) : (s.onDie i f).pkg = s.pkg := rfl
@[simp] theorem onDie_clock (s : State) (i : Nat) (f : Die → Die) : (s.onDie i f).clock = s.clock := rfl
@[simp] theorem onDie_timeNs (s : State) (i : Nat) (f : Die → Die) : (s.onDie i f).timeNs = s.timeNs := rfl
@[simp] theorem onDie_timeAcc (s : State) (i : Nat) (f : Die → Die) : (s.onDie i f).timeAcc = s.timeAcc := rfl
@[simp] theorem onDie_tlbs (s : State) (i : Nat) (f : Die → Die) : (s.onDie i f).tlbs = s.tlbs := rfl
@[simp] theorem onDie_l2 (s : State) (i : Nat) (f : Die → Die) : (s.onDie i f).l2 = s.l2 := rfl
@[simp] theorem onDie_lineVer (s : State) (i : Nat) (f : Die → Die) : (s.onDie i f).lineVer = s.lineVer := rfl
@[simp] theorem onDie_colours (s : State) (i : Nat) (f : Die → Die) : (s.onDie i f).colours = s.colours := rfl
@[simp] theorem onDie_bars (s : State) (i : Nat) (f : Die → Die) : (s.onDie i f).bars = s.bars := rfl
@[simp] theorem onDie_poison (s : State) (i : Nat) (f : Die → Die) : (s.onDie i f).poison = s.poison := rfl
@[simp] theorem onDie_upsets (s : State) (i : Nat) (f : Die → Die) : (s.onDie i f).upsets = s.upsets := rfl
@[simp] theorem onDie_corrected (s : State) (i : Nat) (f : Die → Die) : (s.onDie i f).corrected = s.corrected := rfl
@[simp] theorem onDie_copies (s : State) (i : Nat) (f : Die → Die) : (s.onDie i f).copies = s.copies := rfl
@[simp] theorem onDie_walks (s : State) (i : Nat) (f : Die → Die) : (s.onDie i f).walks = s.walks := rfl
@[simp] theorem onDie_travs (s : State) (i : Nat) (f : Die → Die) : (s.onDie i f).travs = s.travs := rfl
@[simp] theorem onDie_late (s : State) (i : Nat) (f : Die → Die) : (s.onDie i f).late = s.late := rfl
@[simp] theorem onDie_mreds (s : State) (i : Nat) (f : Die → Die) : (s.onDie i f).mreds = s.mreds := rfl
@[simp] theorem onDie_colls (s : State) (i : Nat) (f : Die → Die) : (s.onDie i f).colls = s.colls := rfl
@[simp] theorem onDie_jobs (s : State) (i : Nat) (f : Die → Die) : (s.onDie i f).jobs = s.jobs := rfl
@[simp] theorem onDie_remote (s : State) (i : Nat) (f : Die → Die) : (s.onDie i f).remote = s.remote := rfl
@[simp] theorem onDie_ctxs (s : State) (i : Nat) (f : Die → Die) : (s.onDie i f).ctxs = s.ctxs := rfl
@[simp] theorem onDie_wdeltas (s : State) (i : Nat) (f : Die → Die) : (s.onDie i f).wdeltas = s.wdeltas := rfl
@[simp] theorem onDie_nextId (s : State) (i : Nat) (f : Die → Die) : (s.onDie i f).nextId = s.nextId := rfl
@[simp] theorem onDie_packed (s : State) (i : Nat) (f : Die → Die) : (s.onDie i f).packed = s.packed := rfl
@[simp] theorem onDie_qlock (s : State) (i : Nat) (f : Die → Die) : (s.onDie i f).qlock = s.qlock := rfl
@[simp] theorem onDie_stopped (s : State) (i : Nat) (f : Die → Die) : (s.onDie i f).stopped = s.stopped := rfl
@[simp] theorem onDie_agenda (s : State) (i : Nat) (f : Die → Die) : (s.onDie i f).agenda = s.agenda := rfl
@[simp] theorem onDie_bgDone (s : State) (i : Nat) (f : Die → Die) : (s.onDie i f).bgDone = s.bgDone := rfl
@[simp] theorem onDie_freeTick (s : State) (i : Nat) (f : Die → Die) : (s.onDie i f).freeTick = s.freeTick := rfl

@[simp] theorem onEngine_st (s : State) (i : Nat) (f : Engine → Engine) : (s.onEngine i f).st = s.st := rfl
@[simp] theorem onEngine_blk (s : State) (i : Nat) (f : Engine → Engine) : (s.onEngine i f).blk = s.blk := rfl
@[simp] theorem onEngine_streets (s : State) (i : Nat) (f : Engine → Engine) : (s.onEngine i f).streets = s.streets := rfl
@[simp] theorem onEngine_blocks (s : State) (i : Nat) (f : Engine → Engine) : (s.onEngine i f).blocks = s.blocks := rfl
@[simp] theorem onEngine_mem (s : State) (i : Nat) (f : Engine → Engine) : (s.onEngine i f).mem = s.mem := rfl
@[simp] theorem onEngine_cores (s : State) (i : Nat) (f : Engine → Engine) : (s.onEngine i f).cores = s.cores := rfl
@[simp] theorem onEngine_dies (s : State) (i : Nat) (f : Engine → Engine) : (s.onEngine i f).dies = s.dies := rfl
@[simp] theorem onEngine_pkg (s : State) (i : Nat) (f : Engine → Engine) : (s.onEngine i f).pkg = s.pkg := rfl
@[simp] theorem onEngine_clock (s : State) (i : Nat) (f : Engine → Engine) : (s.onEngine i f).clock = s.clock := rfl
@[simp] theorem onEngine_timeNs (s : State) (i : Nat) (f : Engine → Engine) : (s.onEngine i f).timeNs = s.timeNs := rfl
@[simp] theorem onEngine_timeAcc (s : State) (i : Nat) (f : Engine → Engine) : (s.onEngine i f).timeAcc = s.timeAcc := rfl
@[simp] theorem onEngine_tlbs (s : State) (i : Nat) (f : Engine → Engine) : (s.onEngine i f).tlbs = s.tlbs := rfl
@[simp] theorem onEngine_l2 (s : State) (i : Nat) (f : Engine → Engine) : (s.onEngine i f).l2 = s.l2 := rfl
@[simp] theorem onEngine_lineVer (s : State) (i : Nat) (f : Engine → Engine) : (s.onEngine i f).lineVer = s.lineVer := rfl
@[simp] theorem onEngine_colours (s : State) (i : Nat) (f : Engine → Engine) : (s.onEngine i f).colours = s.colours := rfl
@[simp] theorem onEngine_bars (s : State) (i : Nat) (f : Engine → Engine) : (s.onEngine i f).bars = s.bars := rfl
@[simp] theorem onEngine_poison (s : State) (i : Nat) (f : Engine → Engine) : (s.onEngine i f).poison = s.poison := rfl
@[simp] theorem onEngine_upsets (s : State) (i : Nat) (f : Engine → Engine) : (s.onEngine i f).upsets = s.upsets := rfl
@[simp] theorem onEngine_corrected (s : State) (i : Nat) (f : Engine → Engine) : (s.onEngine i f).corrected = s.corrected := rfl
@[simp] theorem onEngine_copies (s : State) (i : Nat) (f : Engine → Engine) : (s.onEngine i f).copies = s.copies := rfl
@[simp] theorem onEngine_walks (s : State) (i : Nat) (f : Engine → Engine) : (s.onEngine i f).walks = s.walks := rfl
@[simp] theorem onEngine_travs (s : State) (i : Nat) (f : Engine → Engine) : (s.onEngine i f).travs = s.travs := rfl
@[simp] theorem onEngine_late (s : State) (i : Nat) (f : Engine → Engine) : (s.onEngine i f).late = s.late := rfl
@[simp] theorem onEngine_mreds (s : State) (i : Nat) (f : Engine → Engine) : (s.onEngine i f).mreds = s.mreds := rfl
@[simp] theorem onEngine_colls (s : State) (i : Nat) (f : Engine → Engine) : (s.onEngine i f).colls = s.colls := rfl
@[simp] theorem onEngine_jobs (s : State) (i : Nat) (f : Engine → Engine) : (s.onEngine i f).jobs = s.jobs := rfl
@[simp] theorem onEngine_remote (s : State) (i : Nat) (f : Engine → Engine) : (s.onEngine i f).remote = s.remote := rfl
@[simp] theorem onEngine_ctxs (s : State) (i : Nat) (f : Engine → Engine) : (s.onEngine i f).ctxs = s.ctxs := rfl
@[simp] theorem onEngine_wdeltas (s : State) (i : Nat) (f : Engine → Engine) : (s.onEngine i f).wdeltas = s.wdeltas := rfl
@[simp] theorem onEngine_nextId (s : State) (i : Nat) (f : Engine → Engine) : (s.onEngine i f).nextId = s.nextId := rfl
@[simp] theorem onEngine_packed (s : State) (i : Nat) (f : Engine → Engine) : (s.onEngine i f).packed = s.packed := rfl
@[simp] theorem onEngine_qlock (s : State) (i : Nat) (f : Engine → Engine) : (s.onEngine i f).qlock = s.qlock := rfl
@[simp] theorem onEngine_stopped (s : State) (i : Nat) (f : Engine → Engine) : (s.onEngine i f).stopped = s.stopped := rfl
@[simp] theorem onEngine_agenda (s : State) (i : Nat) (f : Engine → Engine) : (s.onEngine i f).agenda = s.agenda := rfl
@[simp] theorem onEngine_bgDone (s : State) (i : Nat) (f : Engine → Engine) : (s.onEngine i f).bgDone = s.bgDone := rfl
@[simp] theorem onEngine_freeTick (s : State) (i : Nat) (f : Engine → Engine) : (s.onEngine i f).freeTick = s.freeTick := rfl

@[simp] theorem setQueue_st (s : State) (q : Nat) (es : List SVec) : (s.setQueue q es).st = s.st := rfl
@[simp] theorem setQueue_streets (s : State) (q : Nat) (es : List SVec) : (s.setQueue q es).streets = s.streets := rfl
@[simp] theorem setQueue_blocks (s : State) (q : Nat) (es : List SVec) : (s.setQueue q es).blocks = s.blocks := rfl
@[simp] theorem setQueue_mem (s : State) (q : Nat) (es : List SVec) : (s.setQueue q es).mem = s.mem := rfl
@[simp] theorem setQueue_cores (s : State) (q : Nat) (es : List SVec) : (s.setQueue q es).cores = s.cores := rfl
@[simp] theorem setQueue_dies (s : State) (q : Nat) (es : List SVec) : (s.setQueue q es).dies = s.dies := rfl
@[simp] theorem setQueue_engines (s : State) (q : Nat) (es : List SVec) : (s.setQueue q es).engines = s.engines := rfl
@[simp] theorem setQueue_pkg (s : State) (q : Nat) (es : List SVec) : (s.setQueue q es).pkg = s.pkg := rfl
@[simp] theorem setQueue_clock (s : State) (q : Nat) (es : List SVec) : (s.setQueue q es).clock = s.clock := rfl
@[simp] theorem setQueue_timeNs (s : State) (q : Nat) (es : List SVec) : (s.setQueue q es).timeNs = s.timeNs := rfl
@[simp] theorem setQueue_timeAcc (s : State) (q : Nat) (es : List SVec) : (s.setQueue q es).timeAcc = s.timeAcc := rfl
@[simp] theorem setQueue_tlbs (s : State) (q : Nat) (es : List SVec) : (s.setQueue q es).tlbs = s.tlbs := rfl
@[simp] theorem setQueue_l2 (s : State) (q : Nat) (es : List SVec) : (s.setQueue q es).l2 = s.l2 := rfl
@[simp] theorem setQueue_lineVer (s : State) (q : Nat) (es : List SVec) : (s.setQueue q es).lineVer = s.lineVer := rfl
@[simp] theorem setQueue_colours (s : State) (q : Nat) (es : List SVec) : (s.setQueue q es).colours = s.colours := rfl
@[simp] theorem setQueue_bars (s : State) (q : Nat) (es : List SVec) : (s.setQueue q es).bars = s.bars := rfl
@[simp] theorem setQueue_poison (s : State) (q : Nat) (es : List SVec) : (s.setQueue q es).poison = s.poison := rfl
@[simp] theorem setQueue_upsets (s : State) (q : Nat) (es : List SVec) : (s.setQueue q es).upsets = s.upsets := rfl
@[simp] theorem setQueue_corrected (s : State) (q : Nat) (es : List SVec) : (s.setQueue q es).corrected = s.corrected := rfl
@[simp] theorem setQueue_copies (s : State) (q : Nat) (es : List SVec) : (s.setQueue q es).copies = s.copies := rfl
@[simp] theorem setQueue_walks (s : State) (q : Nat) (es : List SVec) : (s.setQueue q es).walks = s.walks := rfl
@[simp] theorem setQueue_travs (s : State) (q : Nat) (es : List SVec) : (s.setQueue q es).travs = s.travs := rfl
@[simp] theorem setQueue_late (s : State) (q : Nat) (es : List SVec) : (s.setQueue q es).late = s.late := rfl
@[simp] theorem setQueue_mreds (s : State) (q : Nat) (es : List SVec) : (s.setQueue q es).mreds = s.mreds := rfl
@[simp] theorem setQueue_colls (s : State) (q : Nat) (es : List SVec) : (s.setQueue q es).colls = s.colls := rfl
@[simp] theorem setQueue_jobs (s : State) (q : Nat) (es : List SVec) : (s.setQueue q es).jobs = s.jobs := rfl
@[simp] theorem setQueue_remote (s : State) (q : Nat) (es : List SVec) : (s.setQueue q es).remote = s.remote := rfl
@[simp] theorem setQueue_ctxs (s : State) (q : Nat) (es : List SVec) : (s.setQueue q es).ctxs = s.ctxs := rfl
@[simp] theorem setQueue_wdeltas (s : State) (q : Nat) (es : List SVec) : (s.setQueue q es).wdeltas = s.wdeltas := rfl
@[simp] theorem setQueue_nextId (s : State) (q : Nat) (es : List SVec) : (s.setQueue q es).nextId = s.nextId := rfl
@[simp] theorem setQueue_packed (s : State) (q : Nat) (es : List SVec) : (s.setQueue q es).packed = s.packed := rfl
@[simp] theorem setQueue_qlock (s : State) (q : Nat) (es : List SVec) : (s.setQueue q es).qlock = s.qlock := rfl
@[simp] theorem setQueue_stopped (s : State) (q : Nat) (es : List SVec) : (s.setQueue q es).stopped = s.stopped := rfl
@[simp] theorem setQueue_agenda (s : State) (q : Nat) (es : List SVec) : (s.setQueue q es).agenda = s.agenda := rfl
@[simp] theorem setQueue_bgDone (s : State) (q : Nat) (es : List SVec) : (s.setQueue q es).bgDone = s.bgDone := rfl
@[simp] theorem setQueue_freeTick (s : State) (q : Nat) (es : List SVec) : (s.setQueue q es).freeTick = s.freeTick := rfl

@[simp] theorem setQueue_blk_life (s : State) (q : Nat) (es : List SVec) : (s.setQueue q es).blk.life = s.blk.life := rfl
@[simp] theorem setQueue_blk_id (s : State) (q : Nat) (es : List SVec) : (s.setQueue q es).blk.id = s.blk.id := rfl
@[simp] theorem setQueue_blk_ctx (s : State) (q : Nat) (es : List SVec) : (s.setQueue q es).blk.ctx = s.blk.ctx := rfl
@[simp] theorem setQueue_blk_core (s : State) (q : Nat) (es : List SVec) : (s.setQueue q es).blk.core = s.blk.core := rfl
@[simp] theorem setQueue_blk_hdr (s : State) (q : Nat) (es : List SVec) : (s.setQueue q es).blk.hdr = s.blk.hdr := rfl
@[simp] theorem setQueue_blk_task (s : State) (q : Nat) (es : List SVec) : (s.setQueue q es).blk.task = s.blk.task := rfl
@[simp] theorem setQueue_blk_x0 (s : State) (q : Nat) (es : List SVec) : (s.setQueue q es).blk.x0 = s.blk.x0 := rfl
@[simp] theorem setQueue_blk_y0 (s : State) (q : Nat) (es : List SVec) : (s.setQueue q es).blk.y0 = s.blk.y0 := rfl
@[simp] theorem setQueue_blk_width (s : State) (q : Nat) (es : List SVec) : (s.setQueue q es).blk.width = s.blk.width := rfl
@[simp] theorem setQueue_blk_height (s : State) (q : Nat) (es : List SVec) : (s.setQueue q es).blk.height = s.blk.height := rfl
@[simp] theorem setQueue_blk_high (s : State) (q : Nat) (es : List SVec) : (s.setQueue q es).blk.high = s.blk.high := rfl
@[simp] theorem setQueue_blk_tid (s : State) (q : Nat) (es : List SVec) : (s.setQueue q es).blk.tid = s.blk.tid := rfl
@[simp] theorem setQueue_blk_text (s : State) (q : Nat) (es : List SVec) : (s.setQueue q es).blk.text = s.blk.text := rfl
@[simp] theorem setQueue_blk_safetab (s : State) (q : Nat) (es : List SVec) : (s.setQueue q es).blk.safetab = s.blk.safetab := rfl
@[simp] theorem setQueue_blk_livetab (s : State) (q : Nat) (es : List SVec) : (s.setQueue q es).blk.livetab = s.blk.livetab := rfl
@[simp] theorem setQueue_blk_sids (s : State) (q : Nat) (es : List SVec) : (s.setQueue q es).blk.sids = s.blk.sids := rfl
@[simp] theorem setQueue_blk_spadBase (s : State) (q : Nat) (es : List SVec) : (s.setQueue q es).blk.spadBase = s.blk.spadBase := rfl
@[simp] theorem setQueue_blk_spad (s : State) (q : Nat) (es : List SVec) : (s.setQueue q es).blk.spad = s.blk.spad := rfl
@[simp] theorem setQueue_blk_panBase (s : State) (q : Nat) (es : List SVec) : (s.setQueue q es).blk.panBase = s.blk.panBase := rfl
@[simp] theorem setQueue_blk_pans (s : State) (q : Nat) (es : List SVec) : (s.setQueue q es).blk.pans = s.blk.pans := rfl
@[simp] theorem setQueue_blk_panSum (s : State) (q : Nat) (es : List SVec) : (s.setQueue q es).blk.panSum = s.blk.panSum := rfl
@[simp] theorem setQueue_blk_panFreed (s : State) (q : Nat) (es : List SVec) : (s.setQueue q es).blk.panFreed = s.blk.panFreed := rfl
@[simp] theorem setQueue_blk_mxq (s : State) (q : Nat) (es : List SVec) : (s.setQueue q es).blk.mxq = s.blk.mxq := rfl
@[simp] theorem setQueue_blk_tls (s : State) (q : Nat) (es : List SVec) : (s.setQueue q es).blk.tls = s.blk.tls := rfl
@[simp] theorem setQueue_blk_plq (s : State) (q : Nat) (es : List SVec) : (s.setQueue q es).blk.plq = s.blk.plq := rfl
@[simp] theorem setQueue_blk_save (s : State) (q : Nat) (es : List SVec) : (s.setQueue q es).blk.save = s.blk.save := rfl
@[simp] theorem setQueue_blk_image (s : State) (q : Nat) (es : List SVec) : (s.setQueue q es).blk.image = s.blk.image := rfl
@[simp] theorem setQueue_blk_imageKind (s : State) (q : Nat) (es : List SVec) : (s.setQueue q es).blk.imageKind = s.blk.imageKind := rfl
@[simp] theorem setQueue_blk_waitSince (s : State) (q : Nat) (es : List SVec) : (s.setQueue q es).blk.waitSince = s.blk.waitSince := rfl
@[simp] theorem setQueue_blk_candidate (s : State) (q : Nat) (es : List SVec) : (s.setQueue q es).blk.candidate = s.blk.candidate := rfl
@[simp] theorem setQueue_blk_twin (s : State) (q : Nat) (es : List SVec) : (s.setQueue q es).blk.twin = s.blk.twin := rfl
@[simp] theorem setQueue_blk_primary (s : State) (q : Nat) (es : List SVec) : (s.setQueue q es).blk.primary = s.blk.primary := rfl


/-! `Street.onPath`, `Street.setReg` and `Street.setFlags` -/

@[simp] theorem onPath_life (t : Street) (i : Fin 8) (f : PathEntry → PathEntry) : (t.onPath i f).life = t.life := rfl
@[simp] theorem onPath_sid (t : Street) (i : Fin 8) (f : PathEntry → PathEntry) : (t.onPath i f).sid = t.sid := rfl
@[simp] theorem onPath_block (t : Street) (i : Fin 8) (f : PathEntry → PathEntry) : (t.onPath i f).block = t.block := rfl
@[simp] theorem onPath_core (t : Street) (i : Fin 8) (f : PathEntry → PathEntry) : (t.onPath i f).core = t.core := rfl
@[simp] theorem onPath_slot (t : Street) (i : Fin 8) (f : PathEntry → PathEntry) : (t.onPath i f).slot = t.slot := rfl
@[simp] theorem onPath_sindex (t : Street) (i : Fin 8) (f : PathEntry → PathEntry) : (t.onPath i f).sindex = t.sindex := rfl
@[simp] theorem onPath_placed (t : Street) (i : Fin 8) (f : PathEntry → PathEntry) : (t.onPath i f).placed = t.placed := rfl
@[simp] theorem onPath_regs (t : Street) (i : Fin 8) (f : PathEntry → PathEntry) : (t.onPath i f).regs = t.regs := rfl
@[simp] theorem onPath_md (t : Street) (i : Fin 8) (f : PathEntry → PathEntry) : (t.onPath i f).md = t.md := rfl
@[simp] theorem onPath_sr (t : Street) (i : Fin 8) (f : PathEntry → PathEntry) : (t.onPath i f).sr = t.sr := rfl
@[simp] theorem onPath_sel (t : Street) (i : Fin 8) (f : PathEntry → PathEntry) : (t.onPath i f).sel = t.sel := rfl
@[simp] theorem onPath_lastSel (t : Street) (i : Fin 8) (f : PathEntry → PathEntry) : (t.onPath i f).lastSel = t.lastSel := rfl
@[simp] theorem onPath_chans (t : Street) (i : Fin 8) (f : PathEntry → PathEntry) : (t.onPath i f).chans = t.chans := rfl
@[simp] theorem onPath_tlevel (t : Street) (i : Fin 8) (f : PathEntry → PathEntry) : (t.onPath i f).tlevel = t.tlevel := rfl
@[simp] theorem onPath_trap (t : Street) (i : Fin 8) (f : PathEntry → PathEntry) : (t.onPath i f).trap = t.trap := rfl
@[simp] theorem onPath_hscr (t : Street) (i : Fin 8) (f : PathEntry → PathEntry) : (t.onPath i f).hscr = t.hscr := rfl
@[simp] theorem onPath_thand (t : Street) (i : Fin 8) (f : PathEntry → PathEntry) : (t.onPath i f).thand = t.thand := rfl
@[simp] theorem onPath_tsave (t : Street) (i : Fin 8) (f : PathEntry → PathEntry) : (t.onPath i f).tsave = t.tsave := rfl
@[simp] theorem onPath_fstk (t : Street) (i : Fin 8) (f : PathEntry → PathEntry) : (t.onPath i f).fstk = t.fstk := rfl
@[simp] theorem onPath_ctxflags (t : Street) (i : Fin 8) (f : PathEntry → PathEntry) : (t.onPath i f).ctxflags = t.ctxflags := rfl
@[simp] theorem onPath_clkhi (t : Street) (i : Fin 8) (f : PathEntry → PathEntry) : (t.onPath i f).clkhi = t.clkhi := rfl
@[simp] theorem onPath_windows (t : Street) (i : Fin 8) (f : PathEntry → PathEntry) : (t.onPath i f).windows = t.windows := rfl
@[simp] theorem onPath_yieldUntil (t : Street) (i : Fin 8) (f : PathEntry → PathEntry) : (t.onPath i f).yieldUntil = t.yieldUntil := rfl
@[simp] theorem onPath_passOver (t : Street) (i : Fin 8) (f : PathEntry → PathEntry) : (t.onPath i f).passOver = t.passOver := rfl
@[simp] theorem onPath_stall (t : Street) (i : Fin 8) (f : PathEntry → PathEntry) : (t.onPath i f).stall = t.stall := rfl
@[simp] theorem onPath_svc (t : Street) (i : Fin 8) (f : PathEntry → PathEntry) : (t.onPath i f).svc = t.svc := rfl
@[simp] theorem onPath_haltReq (t : Street) (i : Fin 8) (f : PathEntry → PathEntry) : (t.onPath i f).haltReq = t.haltReq := rfl
@[simp] theorem onPath_watchSkip (t : Street) (i : Fin 8) (f : PathEntry → PathEntry) : (t.onPath i f).watchSkip = t.watchSkip := rfl
@[simp] theorem onPath_seen (t : Street) (i : Fin 8) (f : PathEntry → PathEntry) : (t.onPath i f).seen = t.seen := rfl
@[simp] theorem onPath_holds (t : Street) (i : Fin 8) (f : PathEntry → PathEntry) : (t.onPath i f).holds = t.holds := rfl
@[simp] theorem onPath_clrw (t : Street) (i : Fin 8) (f : PathEntry → PathEntry) : (t.onPath i f).clrw = t.clrw := rfl
@[simp] theorem onPath_ops (t : Street) (i : Fin 8) (f : PathEntry → PathEntry) : (t.onPath i f).ops = t.ops := rfl
@[simp] theorem onPath_walkSlots (t : Street) (i : Fin 8) (f : PathEntry → PathEntry) : (t.onPath i f).walkSlots = t.walkSlots := rfl
@[simp] theorem onPath_copyErr (t : Street) (i : Fin 8) (f : PathEntry → PathEntry) : (t.onPath i f).copyErr = t.copyErr := rfl
@[simp] theorem onPath_coll (t : Street) (i : Fin 8) (f : PathEntry → PathEntry) : (t.onPath i f).coll = t.coll := rfl
@[simp] theorem onPath_pair (t : Street) (i : Fin 8) (f : PathEntry → PathEntry) : (t.onPath i f).pair = t.pair := rfl
@[simp] theorem onPath_ready (t : Street) (i : Fin 8) (f : PathEntry → PathEntry) : (t.onPath i f).ready = t.ready := rfl
@[simp] theorem onPath_lastIssue (t : Street) (i : Fin 8) (f : PathEntry → PathEntry) : (t.onPath i f).lastIssue = t.lastIssue := rfl
@[simp] theorem onPath_tried (t : Street) (i : Fin 8) (f : PathEntry → PathEntry) : (t.onPath i f).tried = t.tried := rfl
@[simp] theorem onPath_heard (t : Street) (i : Fin 8) (f : PathEntry → PathEntry) : (t.onPath i f).heard = t.heard := rfl
@[simp] theorem onPath_reserves (t : Street) (i : Fin 8) (f : PathEntry → PathEntry) : (t.onPath i f).reserves = t.reserves := rfl
@[simp] theorem onPath_haltForce (t : Street) (i : Fin 8) (f : PathEntry → PathEntry) : (t.onPath i f).haltForce = t.haltForce := rfl
@[simp] theorem onPath_paths (t : Street) (i : Fin 8) (f : PathEntry → PathEntry) :
    (t.onPath i f).paths = t.paths.set i (f (t.paths.get i)) := rfl

@[simp] theorem setReg_life (t : Street) (r : RegNo) (m : Mask) (v : SVec) : (t.setReg r m v).life = t.life := rfl
@[simp] theorem setReg_sid (t : Street) (r : RegNo) (m : Mask) (v : SVec) : (t.setReg r m v).sid = t.sid := rfl
@[simp] theorem setReg_block (t : Street) (r : RegNo) (m : Mask) (v : SVec) : (t.setReg r m v).block = t.block := rfl
@[simp] theorem setReg_core (t : Street) (r : RegNo) (m : Mask) (v : SVec) : (t.setReg r m v).core = t.core := rfl
@[simp] theorem setReg_slot (t : Street) (r : RegNo) (m : Mask) (v : SVec) : (t.setReg r m v).slot = t.slot := rfl
@[simp] theorem setReg_sindex (t : Street) (r : RegNo) (m : Mask) (v : SVec) : (t.setReg r m v).sindex = t.sindex := rfl
@[simp] theorem setReg_placed (t : Street) (r : RegNo) (m : Mask) (v : SVec) : (t.setReg r m v).placed = t.placed := rfl
@[simp] theorem setReg_md (t : Street) (r : RegNo) (m : Mask) (v : SVec) : (t.setReg r m v).md = t.md := rfl
@[simp] theorem setReg_sr (t : Street) (r : RegNo) (m : Mask) (v : SVec) : (t.setReg r m v).sr = t.sr := rfl
@[simp] theorem setReg_paths (t : Street) (r : RegNo) (m : Mask) (v : SVec) : (t.setReg r m v).paths = t.paths := rfl
@[simp] theorem setReg_sel (t : Street) (r : RegNo) (m : Mask) (v : SVec) : (t.setReg r m v).sel = t.sel := rfl
@[simp] theorem setReg_lastSel (t : Street) (r : RegNo) (m : Mask) (v : SVec) : (t.setReg r m v).lastSel = t.lastSel := rfl
@[simp] theorem setReg_chans (t : Street) (r : RegNo) (m : Mask) (v : SVec) : (t.setReg r m v).chans = t.chans := rfl
@[simp] theorem setReg_tlevel (t : Street) (r : RegNo) (m : Mask) (v : SVec) : (t.setReg r m v).tlevel = t.tlevel := rfl
@[simp] theorem setReg_trap (t : Street) (r : RegNo) (m : Mask) (v : SVec) : (t.setReg r m v).trap = t.trap := rfl
@[simp] theorem setReg_hscr (t : Street) (r : RegNo) (m : Mask) (v : SVec) : (t.setReg r m v).hscr = t.hscr := rfl
@[simp] theorem setReg_thand (t : Street) (r : RegNo) (m : Mask) (v : SVec) : (t.setReg r m v).thand = t.thand := rfl
@[simp] theorem setReg_tsave (t : Street) (r : RegNo) (m : Mask) (v : SVec) : (t.setReg r m v).tsave = t.tsave := rfl
@[simp] theorem setReg_fstk (t : Street) (r : RegNo) (m : Mask) (v : SVec) : (t.setReg r m v).fstk = t.fstk := rfl
@[simp] theorem setReg_ctxflags (t : Street) (r : RegNo) (m : Mask) (v : SVec) : (t.setReg r m v).ctxflags = t.ctxflags := rfl
@[simp] theorem setReg_clkhi (t : Street) (r : RegNo) (m : Mask) (v : SVec) : (t.setReg r m v).clkhi = t.clkhi := rfl
@[simp] theorem setReg_yieldUntil (t : Street) (r : RegNo) (m : Mask) (v : SVec) : (t.setReg r m v).yieldUntil = t.yieldUntil := rfl
@[simp] theorem setReg_passOver (t : Street) (r : RegNo) (m : Mask) (v : SVec) : (t.setReg r m v).passOver = t.passOver := rfl
@[simp] theorem setReg_stall (t : Street) (r : RegNo) (m : Mask) (v : SVec) : (t.setReg r m v).stall = t.stall := rfl
@[simp] theorem setReg_svc (t : Street) (r : RegNo) (m : Mask) (v : SVec) : (t.setReg r m v).svc = t.svc := rfl
@[simp] theorem setReg_haltReq (t : Street) (r : RegNo) (m : Mask) (v : SVec) : (t.setReg r m v).haltReq = t.haltReq := rfl
@[simp] theorem setReg_watchSkip (t : Street) (r : RegNo) (m : Mask) (v : SVec) : (t.setReg r m v).watchSkip = t.watchSkip := rfl
@[simp] theorem setReg_seen (t : Street) (r : RegNo) (m : Mask) (v : SVec) : (t.setReg r m v).seen = t.seen := rfl
@[simp] theorem setReg_holds (t : Street) (r : RegNo) (m : Mask) (v : SVec) : (t.setReg r m v).holds = t.holds := rfl
@[simp] theorem setReg_clrw (t : Street) (r : RegNo) (m : Mask) (v : SVec) : (t.setReg r m v).clrw = t.clrw := rfl
@[simp] theorem setReg_ops (t : Street) (r : RegNo) (m : Mask) (v : SVec) : (t.setReg r m v).ops = t.ops := rfl
@[simp] theorem setReg_walkSlots (t : Street) (r : RegNo) (m : Mask) (v : SVec) : (t.setReg r m v).walkSlots = t.walkSlots := rfl
@[simp] theorem setReg_copyErr (t : Street) (r : RegNo) (m : Mask) (v : SVec) : (t.setReg r m v).copyErr = t.copyErr := rfl
@[simp] theorem setReg_coll (t : Street) (r : RegNo) (m : Mask) (v : SVec) : (t.setReg r m v).coll = t.coll := rfl
@[simp] theorem setReg_pair (t : Street) (r : RegNo) (m : Mask) (v : SVec) : (t.setReg r m v).pair = t.pair := rfl
@[simp] theorem setReg_ready (t : Street) (r : RegNo) (m : Mask) (v : SVec) : (t.setReg r m v).ready = t.ready := rfl
@[simp] theorem setReg_lastIssue (t : Street) (r : RegNo) (m : Mask) (v : SVec) : (t.setReg r m v).lastIssue = t.lastIssue := rfl
@[simp] theorem setReg_tried (t : Street) (r : RegNo) (m : Mask) (v : SVec) : (t.setReg r m v).tried = t.tried := rfl
@[simp] theorem setReg_heard (t : Street) (r : RegNo) (m : Mask) (v : SVec) : (t.setReg r m v).heard = t.heard := rfl
@[simp] theorem setReg_reserves (t : Street) (r : RegNo) (m : Mask) (v : SVec) : (t.setReg r m v).reserves = t.reserves := rfl
@[simp] theorem setReg_haltForce (t : Street) (r : RegNo) (m : Mask) (v : SVec) : (t.setReg r m v).haltForce = t.haltForce := rfl
@[simp] theorem setReg_regs (t : Street) (r : RegNo) (m : Mask) (v : SVec) :
    (t.setReg r m v).regs = t.regs.set r.toNat (SVec.blend m v (t.regs.get r.toFin)) := rfl

@[simp] theorem setFlags_life (t : Street) (f : Word) : (t.setFlags f).life = t.life := rfl
@[simp] theorem setFlags_sid (t : Street) (f : Word) : (t.setFlags f).sid = t.sid := rfl
@[simp] theorem setFlags_block (t : Street) (f : Word) : (t.setFlags f).block = t.block := rfl
@[simp] theorem setFlags_core (t : Street) (f : Word) : (t.setFlags f).core = t.core := rfl
@[simp] theorem setFlags_slot (t : Street) (f : Word) : (t.setFlags f).slot = t.slot := rfl
@[simp] theorem setFlags_sindex (t : Street) (f : Word) : (t.setFlags f).sindex = t.sindex := rfl
@[simp] theorem setFlags_placed (t : Street) (f : Word) : (t.setFlags f).placed = t.placed := rfl
@[simp] theorem setFlags_regs (t : Street) (f : Word) : (t.setFlags f).regs = t.regs := rfl
@[simp] theorem setFlags_md (t : Street) (f : Word) : (t.setFlags f).md = t.md := rfl
@[simp] theorem setFlags_paths (t : Street) (f : Word) : (t.setFlags f).paths = t.paths := rfl
@[simp] theorem setFlags_sel (t : Street) (f : Word) : (t.setFlags f).sel = t.sel := rfl
@[simp] theorem setFlags_lastSel (t : Street) (f : Word) : (t.setFlags f).lastSel = t.lastSel := rfl
@[simp] theorem setFlags_chans (t : Street) (f : Word) : (t.setFlags f).chans = t.chans := rfl
@[simp] theorem setFlags_tlevel (t : Street) (f : Word) : (t.setFlags f).tlevel = t.tlevel := rfl
@[simp] theorem setFlags_trap (t : Street) (f : Word) : (t.setFlags f).trap = t.trap := rfl
@[simp] theorem setFlags_hscr (t : Street) (f : Word) : (t.setFlags f).hscr = t.hscr := rfl
@[simp] theorem setFlags_thand (t : Street) (f : Word) : (t.setFlags f).thand = t.thand := rfl
@[simp] theorem setFlags_tsave (t : Street) (f : Word) : (t.setFlags f).tsave = t.tsave := rfl
@[simp] theorem setFlags_fstk (t : Street) (f : Word) : (t.setFlags f).fstk = t.fstk := rfl
@[simp] theorem setFlags_ctxflags (t : Street) (f : Word) : (t.setFlags f).ctxflags = t.ctxflags := rfl
@[simp] theorem setFlags_clkhi (t : Street) (f : Word) : (t.setFlags f).clkhi = t.clkhi := rfl
@[simp] theorem setFlags_yieldUntil (t : Street) (f : Word) : (t.setFlags f).yieldUntil = t.yieldUntil := rfl
@[simp] theorem setFlags_passOver (t : Street) (f : Word) : (t.setFlags f).passOver = t.passOver := rfl
@[simp] theorem setFlags_stall (t : Street) (f : Word) : (t.setFlags f).stall = t.stall := rfl
@[simp] theorem setFlags_svc (t : Street) (f : Word) : (t.setFlags f).svc = t.svc := rfl
@[simp] theorem setFlags_haltReq (t : Street) (f : Word) : (t.setFlags f).haltReq = t.haltReq := rfl
@[simp] theorem setFlags_watchSkip (t : Street) (f : Word) : (t.setFlags f).watchSkip = t.watchSkip := rfl
@[simp] theorem setFlags_seen (t : Street) (f : Word) : (t.setFlags f).seen = t.seen := rfl
@[simp] theorem setFlags_holds (t : Street) (f : Word) : (t.setFlags f).holds = t.holds := rfl
@[simp] theorem setFlags_clrw (t : Street) (f : Word) : (t.setFlags f).clrw = t.clrw := rfl
@[simp] theorem setFlags_ops (t : Street) (f : Word) : (t.setFlags f).ops = t.ops := rfl
@[simp] theorem setFlags_walkSlots (t : Street) (f : Word) : (t.setFlags f).walkSlots = t.walkSlots := rfl
@[simp] theorem setFlags_copyErr (t : Street) (f : Word) : (t.setFlags f).copyErr = t.copyErr := rfl
@[simp] theorem setFlags_coll (t : Street) (f : Word) : (t.setFlags f).coll = t.coll := rfl
@[simp] theorem setFlags_pair (t : Street) (f : Word) : (t.setFlags f).pair = t.pair := rfl
@[simp] theorem setFlags_ready (t : Street) (f : Word) : (t.setFlags f).ready = t.ready := rfl
@[simp] theorem setFlags_lastIssue (t : Street) (f : Word) : (t.setFlags f).lastIssue = t.lastIssue := rfl
@[simp] theorem setFlags_tried (t : Street) (f : Word) : (t.setFlags f).tried = t.tried := rfl
@[simp] theorem setFlags_heard (t : Street) (f : Word) : (t.setFlags f).heard = t.heard := rfl
@[simp] theorem setFlags_reserves (t : Street) (f : Word) : (t.setFlags f).reserves = t.reserves := rfl
@[simp] theorem setFlags_haltForce (t : Street) (f : Word) : (t.setFlags f).haltForce = t.haltForce := rfl
@[simp] theorem setFlags_sr (t : Street) (f : Word) : (t.setFlags f).sr = t.sr ||| (f &&& srMask) := rfl

end Sys2Proof.Machine
end

