-- ==== Sys2Proof/Laws/Keep.lean ====
section
/-! SUPPORT. What the shared operations do to memory: which leave it as it is, and that each of the others keeps its canonical
form; and the ways a trap can be taken. -/

namespace Sys2Proof.Machine

/-- A fold of steps that leave memory alone leaves it alone. -/
theorem foldl_mem {α : Type} (f : State → α → State) (h : ∀ s x, (f s x).mem = s.mem) (l : List α) (s : State) :
    (l.foldl f s).mem = s.mem := by
  induction l generalizing s with
  | nil => rfl
  | cons x xs ih => rw [List.foldl_cons, ih, h]

/-- A fold of steps that keep memory in its form keeps it in its form. -/
theorem foldl_wf {α : Type} (f : State → α → State) (h : ∀ s x, s.mem.wf = true → (f s x).mem.wf = true) (l : List α) (s : State)
    (hs : s.mem.wf = true) : (l.foldl f s).mem.wf = true := by
  induction l generalizing s with
  | nil => exact hs
  | cons x xs ih => exact ih _ (h _ _ hs)

theorem mem_ite {c : Prop} [Decidable c] {a b : State} {m : Memory} (ha : a.mem = m) (hb : b.mem = m) :
    (if c then a else b).mem = m := by split <;> assumption

theorem wf_ite {c : Prop} [Decidable c] {a b : State} (ha : a.mem.wf = true) (hb : b.mem.wf = true) :
    (if c then a else b).mem.wf = true := by split <;> assumption

/-! ### Waits and monitors -/

@[simp] theorem settleBlock_mem (s : State) (id : Nat) (far : Bool) : (s.settleBlock id far).mem = s.mem := by
  unfold State.settleBlock
  split
  · rfl
  · exact mem_ite (by simp only [onCore_mem, mapStreets_mem]) (by simp only [mapStreets_mem])

@[simp] theorem settleAll_mem (s : State) : s.settleAll.mem = s.mem :=
  foldl_mem (fun (s : State) (b : Block) => s.settleBlock b.id true) (fun _ _ => settleBlock_mem _ _ _) _ _

@[simp] theorem fireLine_mem (s : State) (line : Nat) : (s.fireLine line).mem = s.mem := by
  unfold State.fireLine
  exact mem_ite (by simp only [settleAll_mem, mapStreets_mem]) rfl

/-! ### Counts -/

@[simp] theorem weighArea_mem (s : State) (ctx idx n : Nat) : (s.weighArea ctx idx n).mem = s.mem := rfl

@[simp] theorem flushDeltas_mem (s : State) (p : WDelta → Bool) : (s.flushDeltas p).mem = s.mem :=
  foldl_mem (fun (s : State) (d : WDelta) => s.weighArea d.ctx d.idx d.n) (fun _ _ => rfl) _ _

@[simp] theorem weigh_mem (s : State) (agent ctx idx n : Nat) : (s.weigh agent ctx idx n).mem = s.mem := by
  unfold State.weigh
  exact mem_ite rfl (by simp only [flushDeltas_mem])

@[simp] theorem weighSt_mem (s : State) (idx n : Nat) : (s.weighSt idx n).mem = s.mem := weigh_mem _ _ _ _ _

/-! ### Bytes that hardware writes for itself -/

theorem putBytes_wf {s : State} (pa : Nat) (bs : List Byte) (h : s.mem.wf = true) : (s.putBytes pa bs).mem.wf = true := by
  induction bs generalizing s pa with
  | nil => exact h
  | cons v vs ih =>
    unfold State.putBytes
    split
    · exact ih _ h
    · exact ih _ (Memory.wf_write h)

@[simp] theorem wrote_mem (s : State) (pa n : Nat) : (s.wrote pa n).mem = s.mem :=
  foldl_mem (fun (s : State) l => s.fireLine l) (fun _ _ => fireLine_mem _ _) _ _

theorem poke_wf {s : State} (pa : Nat) (bs : List Byte) (h : s.mem.wf = true) : (s.poke pa bs).mem.wf = true := by
  unfold State.poke
  rw [wrote_mem]
  exact putBytes_wf pa bs h

theorem pokeNat_wf {s : State} (pa n x : Nat) (h : s.mem.wf = true) : (s.pokeNat pa n x).mem.wf = true := poke_wf _ _ h

theorem spadWrite_wf {s : State} (block off : Nat) (bs : List Byte) (h : s.mem.wf = true) : (s.spadWrite block off bs).mem.wf = true := by
  unfold State.spadWrite
  split
  · exact h
  · exact wf_ite (poke_wf _ _ h) (by simpa only [onBlock_mem] using h)

theorem flushEntry_wf {s : State} (ctx : CtxDesc) (e : TlbEntry) (h : s.mem.wf = true) : (s.flushEntry ctx e).mem.wf = true := by
  unfold State.flushEntry
  split
  · exact h
  · exact wf_ite h (poke_wf _ _ h)

/-! ### Records -/

theorem ringWrite_wf {s : State} (r : Ring) (bs : List Byte) (h : s.mem.wf = true) : (s.ringWrite r bs).1.mem.wf = true := poke_wf _ _ h

theorem ringPush_wf {s : State} (r : Ring) (bs : List Byte) (h : s.mem.wf = true) : (s.ringPush r bs).1.mem.wf = true := by
  unfold State.ringPush
  split
  · exact h
  · exact ringWrite_wf _ _ h

theorem ringDrain_wf {s : State} (r : Ring) (ws : List (List Byte)) (h : s.mem.wf = true) : (s.ringDrain r ws).1.mem.wf = true := by
  induction ws generalizing s r with
  | nil => exact h
  | cons b bs ih =>
    unfold State.ringDrain
    split
    · exact h
    · exact ih _ (ringWrite_wf _ _ h)

theorem faultRecord_wf {s : State} (die : Nat) (f : XFault) (h : s.mem.wf = true) : (s.faultRecord die f).mem.wf = true := by
  unfold State.faultRecord
  simp only [onDie_mem]
  exact ringPush_wf _ _ h

theorem stopRecord_wf {s : State} (die pid tid : Nat) (sid : StreetId) (cause tlevel : Nat) (pc mask : Addr) (code faddr : Nat)
    (h : s.mem.wf = true) : (s.stopRecord die pid tid sid cause tlevel pc mask code faddr).mem.wf = true := by
  unfold State.stopRecord
  simp only [onDie_mem]
  exact ringPush_wf _ _ h

theorem machineCheck_wf {s : State} (die kind ctx pa sid twin : Nat) (h : s.mem.wf = true) :
    (s.machineCheck die kind ctx pa sid twin).mem.wf = true := by
  unfold State.machineCheck
  refine wf_ite ?_ ?_
  · simpa only [onDie_mem] using h
  · simp only [onDie_mem]
    exact ringWrite_wf _ _ h

theorem errDrop_wf {s : State} (ctx : CtxDesc) (h : s.mem.wf = true) : (s.errDrop ctx).mem.wf = true := by
  unfold State.errDrop
  exact wf_ite (pokeNat_wf _ _ _ h) h

theorem asyncErr_wf {s : State} (ctx : CtxDesc) (code reason : Nat) (sid : StreetId) (addr : Nat) (h : s.mem.wf = true) :
    (s.asyncErr ctx code reason sid addr).mem.wf = true := by
  unfold State.asyncErr
  split
  · exact errDrop_wf ctx h
  · refine wf_ite (errDrop_wf ctx h) ?_
    split
    · exact errDrop_wf ctx h
    · exact pokeNat_wf _ _ _ (poke_wf _ _ h)

@[simp] theorem traceSyncNow_mem (s : State) (core : Nat) : (s.traceSyncNow core).mem = s.mem := by
  unfold State.traceSyncNow
  simp only [onCore_mem]

@[simp] theorem tracePacket_mem (s : State) (core : Nat) (body : List Byte) : (s.tracePacket core body).mem = s.mem := by
  unfold State.tracePacket
  exact mem_ite (by simp only [onCore_mem]) (mem_ite (by simp only [traceSyncNow_mem, onCore_mem]) (by simp only [onCore_mem]))

@[simp] theorem traceIf_mem (s : State) (on : Trace → Bool) (body : List Byte) : (s.traceIf on body).mem = s.mem := by
  unfold State.traceIf
  exact mem_ite (tracePacket_mem _ _ _) rfl

@[simp] theorem traceTarget_mem (s : State) (entry : Nat) (pc : Addr) : (s.traceTarget entry pc).mem = s.mem := traceIf_mem _ _ _

/-! ### Stores -/

@[simp] theorem weighHbm_mem (s : State) (ctx idx : Nat) : (s.weighHbm ctx idx).mem = s.mem := weigh_mem _ _ _ _ _

theorem readSector_wf {s : State} (sec : Nat) (h : s.mem.wf = true) : (s.readSector sec).mem.wf = true := by
  unfold State.readSector
  split
  · exact machineCheck_wf _ _ _ _ _ _ h
  · exact h

theorem readUnit_wf {s : State} (sec : Nat) (h : s.mem.wf = true) : (s.readUnit sec).mem.wf = true := by
  unfold State.readUnit
  dsimp only
  split
  · exact machineCheck_wf _ _ _ _ _ _ h
  · exact h

theorem readSectors_wf {s : State} (secs : List Nat) (h : s.mem.wf = true) : (s.readSectors secs).mem.wf = true :=
  foldl_wf _ (fun _ _ hs => readSector_wf _ hs) _ _ h

theorem packUnit_wf {s : State} (line : Nat) (h : s.mem.wf = true) : (s.packUnit line).mem.wf = true := by
  unfold State.packUnit
  split
  · exact h
  · exact wf_ite (wf_ite h (readSectors_wf _ h)) h

theorem writeBack_wf {s : State} (l : L2Line) (h : s.mem.wf = true) : (s.writeBack l).mem.wf = true := by
  unfold State.writeBack
  split
  · exact h
  · dsimp only
    rw [weighHbm_mem]
    refine packUnit_wf _ (foldl_wf _ (fun s sec hs => ?_) _ _ (readUnit_wf _ h))
    split
    · exact machineCheck_wf _ _ _ _ _ _ hs
    · exact hs

theorem dropLine_wf {s : State} (l : L2Line) (h : s.mem.wf = true) : (s.dropLine l).mem.wf = true := by
  unfold State.dropLine
  simp only [fireLine_mem]
  exact foldl_wf (fun (s : State) i => s.mend (.l2 (l.line * 4 + i))) (fun _ _ hs => hs) _ _ (writeBack_wf l h)

theorem hbmRead_wf {s : State} (line ctx : Nat) (h : s.mem.wf = true) : (s.hbmRead line ctx).mem.wf = true := by
  unfold State.hbmRead
  dsimp only
  exact foldl_wf _ (fun _ _ hs => readSector_wf _ hs) _ _ (readUnit_wf _ (by rw [weighHbm_mem]; exact h))

theorem l2Fill_wf {s : State} (line ctx : Nat) (h : s.mem.wf = true) : (s.l2Fill line ctx).mem.wf = true := by
  unfold State.l2Fill
  refine wf_ite h ?_
  dsimp only
  refine hbmRead_wf line ctx (wf_ite ?_ h)
  split
  · exact dropLine_wf _ h
  · exact h

theorem walkFill_wf {s : State} (ctx : CtxDesc) (va : Nat) (h : s.mem.wf = true) : (s.walkFill ctx va).mem.wf = true :=
  foldl_wf _ (fun _ l hs => l2Fill_wf l _ hs) _ _ h

/-- The record of a translation fault leaves memory in its form. -/
theorem walkFault_wf {s : State} (die : Nat) (f : XFault) (h : s.mem.wf = true) : (s.walkFault die f).mem.wf = true := by
  unfold State.walkFault
  refine faultRecord_wf _ _ ?_
  split
  · exact walkFill_wf _ _ h
  · exact h

/-- Keeping a translation leaves memory in its form. -/
theorem touch_wf {s : State} (agent : Nat) (ctx : CtxDesc) (acc : Acc) (pa pte ea base size : Nat) (h : s.mem.wf = true) :
    (touch s agent ctx acc pa pte ea base size).mem.wf = true := by
  unfold touch
  have k := foldl_wf (fun (s : State) e => s.flushEntry ctx e) (fun _ e hs => flushEntry_wf ctx e hs)
  have w : ∀ (c : Prop) [Decidable c], (if c then s else s.walkFill ctx base).mem.wf = true := fun _ _ => wf_ite h (walkFill_wf ctx base h)
  exact wf_ite (flushEntry_wf _ _ (k _ _ (w _))) (k _ _ (w _))

@[simp] theorem keepPast_mem (s : State) (by_ : Option StreetId) (lanes : Mask) (secs : List Nat) :
    (s.keepPast by_ lanes secs).mem = s.mem := rfl

/-- A store keeps memory in its form. -/
theorem store_wf {s : State} (by_ : Option StreetId) (pa : Nat) (bs : List Byte) (ctx : Nat) (ms : Bool) (h : s.mem.wf = true) :
    (s.store by_ pa bs ctx ms).mem.wf = true := by
  unfold State.store State.storeBy
  split
  · exact h
  · dsimp only
    rw [wrote_mem]
    refine putBytes_wf pa bs (foldl_wf _ (fun s l hs => ?_) _ _ (by rw [keepPast_mem]; exact h))
    exact wf_ite (by rw [weighHbm_mem]; exact hs) (l2Fill_wf l ctx hs)

@[simp] theorem l1Store_mem (s : State) (core pa : Nat) (bs : List Byte) (nc : Bool) : (s.l1Store core pa bs nc).mem = s.mem := by
  unfold State.l1Store
  dsimp only
  exact mem_ite (by simp only [onCore_mem]) rfl

@[simp] theorem l1Flush_mem (s : State) (core : Nat) : (s.l1Flush core).mem = s.mem := onCore_mem _ _ _

theorem loadCopy_wf {s : State} (pa n ctx : Nat) (ms : Bool) (h : s.mem.wf = true) : (s.loadCopy pa n ctx ms).2.mem.wf = true := by
  unfold State.loadCopy
  dsimp only
  split
  · exact foldl_wf _ (fun _ _ hs => readSector_wf _ hs) _ _
      (foldl_wf _ (fun s l hs => by rw [weighHbm_mem]; exact hs) _ _ h)
  · exact foldl_wf _ (fun s l hs => l2Fill_wf l ctx hs) _ _ h

theorem meetBad_wf {s : State} (b : Nat × Bool) (ctx sid : Nat) (ms : Bool) (h : s.mem.wf = true) :
    (s.meetBad b ctx sid ms).mem.wf = true := by
  unfold State.meetBad
  split
  · exact loadCopy_wf _ _ _ _ h
  · exact machineCheck_wf _ _ _ _ _ _ h

theorem loadWeak_wf {s : State} (core pa n ctx : Nat) (h : s.mem.wf = true) : (s.loadWeak core pa n ctx).2.mem.wf = true :=
  loadCopy_wf pa n ctx false h

/-! ### Barriers, timelines and the end of operations -/

theorem afterSpadStore_wf {s : State} (core x n : Nat) (h : s.mem.wf = true) : (s.afterSpadStore core x n).mem.wf = true := by
  unfold State.afterSpadStore
  dsimp only
  rw [onCore_mem]
  refine wf_ite h (foldl_wf _ (fun s w hs => ?_) _ _ h)
  split <;> exact hs

theorem putBar_wf {s : State} (b : Barrier) (h : s.mem.wf = true) : (s.putBar b).mem.wf = true := by
  unfold State.putBar
  dsimp only
  split
  · split
    · rw [mapCores_mem, wrote_mem]; exact Memory.wf_writeN h
    · exact h
  · split
    · exact afterSpadStore_wf _ _ _ (spadWrite_wf _ _ _ h)
    · exact spadWrite_wf _ _ _ h
  · exact h

@[simp] theorem barResume_mem (s : State) (b : Barrier) (status phase : Nat) : (s.barResume b status phase).mem = s.mem := by
  unfold State.barResume
  refine Eq.trans ?_ (mapStreets_mem s fun t => t.barOver b.place status (BitVec.ofNat 32 phase))
  exact foldl_mem (fun (s : State) (k : Block) => s.settleBlock k.id b.wide) (fun _ _ => settleBlock_mem _ _ _) _ _

theorem barArrive_wf {s : State} (b : Barrier) (k : Option Nat) (h : s.mem.wf = true) : (s.barArrive b k).mem.wf = true := by
  unfold State.barArrive
  dsimp only
  split
  · rw [barResume_mem]; exact putBar_wf _ h
  · exact putBar_wf _ h

theorem abandonBars_wf {s : State} (block : Nat) (h : s.mem.wf = true) : (s.abandonBars block).mem.wf = true := by
  unfold State.abandonBars
  refine foldl_wf _ (fun s b hs => ?_) _ _ h
  dsimp only
  rw [barResume_mem]
  exact putBar_wf _ hs

theorem raise_wf {s : State} (block k : Nat) (far : Bool) (h : s.mem.wf = true) : (s.raise block k far).mem.wf = true := by
  unfold State.raise
  split
  · exact h
  · dsimp only
    rw [settleBlock_mem]
    split
    · exact pokeNat_wf _ _ _ h
    · exact h

theorem advance_wf {s : State} (block k : Nat) (far : Bool) (h : s.mem.wf = true) : (s.advance block k far).mem.wf = true := by
  unfold State.advance
  split
  · exact h
  · exact raise_wf _ _ _ h

theorem advanceHandle_wf {s : State} (sid tl : Nat) (ctx : CtxDesc) (f : StreetId) (far : Bool) (h : s.mem.wf = true) :
    (s.advanceHandle sid tl ctx f far).mem.wf = true := by
  unfold State.advanceHandle
  split
  · exact advance_wf _ _ _ h
  · exact asyncErr_wf _ _ _ _ _ h

theorem copyArrive_wf {s : State} (c : Completion) (addr : Nat) (place : Option BarPlace) (h : s.mem.wf = true) :
    (s.copyArrive c addr place).mem.wf = true := by
  have k : ∀ t : State, t.mem.wf = true → (if c.task.isNone then t.copyErrBit c.sid 3 else t).mem.wf = true :=
    fun t ht => wf_ite (by simpa only [State.copyErrBit, onStreet_mem] using ht) ht
  unfold State.copyArrive
  dsimp only
  split
  · exact wf_ite (k _ h) (barArrive_wf _ _ h)
  · exact k _ (asyncErr_wf _ _ _ _ _ h)

theorem taskDone_wf {s : State} (die task : Nat) (far : Bool) (h : s.mem.wf = true) : (s.taskDone die task far).mem.wf = true := by
  unfold State.taskDone
  split
  · exact h
  · dsimp only
    split
    · exact advanceHandle_wf _ _ _ _ _ (by simpa only [onDie_mem] using h)
    · simpa only [onDie_mem] using h

theorem makeAdvance_wf {s : State} (c : Completion) (h : s.mem.wf = true) : (s.makeAdvance c).mem.wf = true := by
  unfold State.makeAdvance
  split
  · exact foldl_wf _ (fun _ d hs => taskDone_wf d _ true hs) _ _ h
  · split
    · exact wf_ite (advance_wf _ _ _ h) (advance_wf _ _ _ (by simpa only [State.endOp, onStreet_mem, onBlock_mem] using h))
    · simpa only [State.endOp, onStreet_mem] using h

theorem lateFault_wf {s : State} (c : Completion) (f : XFault) (h : s.mem.wf = true) : (s.lateFault c f).mem.wf = true :=
  walkFault_wf _ _ h

/-- Sending accesses to another device leaves memory in its form: it writes the record of a loss only. -/
theorem sendTo_wf {s : State} (agent dev : Nat) (rs : List RemoteReq) (h : s.mem.wf = true) : (s.sendTo agent dev rs).2.mem.wf = true := by
  unfold State.sendTo
  split
  · exact h
  · have k : ∀ n, (({ s with nextId := s.nextId + 1 } : State).weigh agent n 19 0).mem = s.mem := fun n => weigh_mem _ _ _ _ _
    dsimp only [State.fresh]
    split
    · split
      · exact asyncErr_wf _ _ _ _ _ (by rw [weigh_mem]; exact h)
      · show (State.weigh _ _ _ _ _).mem.wf = true
        rw [weigh_mem]; exact h
    · show (State.weigh _ _ _ _ _).mem.wf = true
      rw [weigh_mem]; exact h

/-- The answers that no instruction waits for leave memory in its form: they write records of what was lost only. -/
theorem barReplies_wf {s : State} (h : s.mem.wf = true) : s.barReplies.mem.wf = true := by
  unfold State.barReplies
  dsimp only
  refine foldl_wf _ (fun s r hs => ?_) _ _ h
  split
  · split
    · exact wf_ite (asyncErr_wf _ _ _ _ _ hs) hs
    · exact asyncErr_wf _ _ _ _ _ hs
  · refine foldl_wf _ (fun s k hk => ?_) _ _ (by simpa only [mapStreets_mem] using hs)
    rw [settleBlock_mem]; exact hk

theorem farArrive_wf {s : State} (c : Completion) (va pa : Nat) (h : s.mem.wf = true) : (s.farArrive c va pa).mem.wf = true :=
  barReplies_wf (sendTo_wf _ _ _ h)

theorem arriveNow_wf {s : State} (c : Completion) (h : s.mem.wf = true) : (s.arriveNow c).mem.wf = true := by
  unfold State.arriveNow
  split
  · exact makeAdvance_wf c h
  · split
    · exact lateFault_wf _ _ h
    · exact makeAdvance_wf _ (farArrive_wf _ _ _ h)
    · exact makeAdvance_wf _ (copyArrive_wf _ _ _ h)

theorem completeNow_wf {s : State} (c : Completion) (h : s.mem.wf = true) : (s.completeNow c).mem.wf = true := by
  unfold State.completeNow
  split
  · exact arriveNow_wf _ h
  · exact h
  · dsimp only
    split
    · exact lateFault_wf _ _ h
    · exact arriveNow_wf _ h
    · split
      · exact arriveNow_wf _ (store_wf _ _ _ _ _ (touch_wf _ _ _ _ _ _ _ _ h))
      · exact wf_ite (arriveNow_wf _ (sendTo_wf _ _ _ (touch_wf _ _ _ _ _ _ _ _ h))) (sendTo_wf _ _ _ (touch_wf _ _ _ _ _ _ _ _ h))

theorem completeOrdered_wf {s : State} (k : Nat) (c : Completion) (h : s.mem.wf = true) : (s.completeOrdered k c).mem.wf = true := by
  unfold State.completeOrdered
  split
  · simpa only [State.endOp, onStreet_mem] using h
  · exact wf_ite (completeNow_wf _ h) (by simpa only [onBlock_mem] using h)

theorem advanceTurn_wf {s : State} (block k : Nat) (h : s.mem.wf = true) : (s.advanceTurn block k).mem.wf = true := by
  unfold State.advanceTurn
  split
  · exact h
  · split
    · exact h
    · exact completeNow_wf _ (by simpa only [onBlock_mem] using h)

theorem complete_wf {s : State} (c : Completion) (h : s.mem.wf = true) : (s.complete c).mem.wf = true := by
  unfold State.complete
  split
  · exact completeOrdered_wf _ _ h
  · exact completeNow_wf _ h

/-! ### Colours -/

@[simp] theorem onPair_mem (s : State) (sid : StreetId) (f : Street → Street) : (s.onPair sid f).mem = s.mem := by
  unfold State.onPair
  split <;> simp only [onStreet_mem]

theorem pokeVirt_wf {s : State} (c : CtxDesc) (va : Nat) (bs : List Byte) (h : s.mem.wf = true) : (s.pokeVirt c va bs).mem.wf = true := by
  unfold State.pokeVirt
  split
  · exact poke_wf _ _ h
  · exact h

theorem writeColour_wf {s : State} (ctx c : Nat) (h : s.mem.wf = true) : (s.writeColour ctx c).mem.wf = true := by
  unfold State.writeColour
  split
  · exact pokeVirt_wf _ _ _ h
  · exact h

theorem writeRecords_wf {s : State} (ctx c : Nat) (h : s.mem.wf = true) : (s.writeRecords ctx c).mem.wf = true := by
  unfold State.writeRecords
  split
  · exact foldl_wf _ (fun _ _ hs => pokeVirt_wf _ _ _ hs) _ _ h
  · exact h

theorem cacheColour_wf {s : State} (ctx c : Nat) (h : s.mem.wf = true) : (s.cacheColour ctx c).mem.wf = true := by
  unfold State.cacheColour
  refine wf_ite h (wf_ite h ?_)
  split
  · exact writeColour_wf (s := { s with qlock := (ctx, c) :: s.qlock }) _ _ h
  · exact h

theorem onColour_wf {s : State} (ctx c : Nat) (f : Colour → Colour) (h : s.mem.wf = true) : (s.onColour ctx c f).mem.wf = true :=
  writeRecords_wf _ _ (cacheColour_wf _ _ h)

theorem writeHolds_wf {s : State} (sid : StreetId) (h : s.mem.wf = true) : (s.writeHolds sid).mem.wf = true := by
  unfold State.writeHolds
  split
  · exact h
  · refine wf_ite h ?_
    split
    · exact h
    · exact wf_ite h (walkFault_wf _ _ (by simpa only [onStreet_mem] using h))
    · exact foldl_wf _ (fun _ _ hs => pokeVirt_wf _ _ _ hs) _ _ (pokeVirt_wf _ _ _ h)

@[simp] theorem flushPair_mem (s : State) (sid : StreetId) : (s.flushPair sid).mem = s.mem := by
  unfold State.flushPair
  split
  · rfl
  · dsimp only
    split <;> simp only [l1Flush_mem]

theorem handOver_wf {s : State} (ctx c : Nat) (h : s.mem.wf = true) : (s.handOver ctx c).mem.wf = true := by
  unfold State.handOver
  dsimp only
  split
  · rw [flushPair_mem]
    exact writeHolds_wf _ (by rw [onPair_mem]; exact onColour_wf _ _ _ h)
  · exact h

theorem poisonColour_wf {s : State} (ctx c : Nat) (h : s.mem.wf = true) : (s.poisonColour ctx c).mem.wf = true := by
  unfold State.poisonColour
  dsimp only
  rw [foldl_mem _ (fun _ _ => onPair_mem _ _ _), foldl_mem _ (fun _ _ => onPair_mem _ _ _)]
  exact onColour_wf _ _ _ h

theorem releaseOne_wf {s : State} (sid : StreetId) (ctx lane c : Nat) (p : Bool) (h : s.mem.wf = true) :
    (s.releaseOne sid ctx lane c p).mem.wf = true := by
  have k : ((s.onStreet sid fun t => { t with holds := t.holds.filter fun h => !(h.colour == c && h.lane == lane) }).writeHolds sid).mem.wf
      = true := writeHolds_wf _ (by simpa only [onStreet_mem] using h)
  unfold State.releaseOne
  exact wf_ite k (wf_ite (poisonColour_wf _ _ k) (handOver_wf _ _ (onColour_wf _ _ _ k)))

/-- Releasing colours, with all the handovers it makes, leaves memory in its form: it writes hold tables and colour state only. -/
theorem releaseHolds_wf {s : State} (sid : StreetId) (ctx : Nat) (hs : List Hold) (p : Bool) (h : s.mem.wf = true) :
    (s.releaseHolds sid ctx hs p).mem.wf = true :=
  foldl_wf (fun (s : State) (h : Hold) => s.releaseOne sid ctx h.lane h.colour p) (fun _ _ ht => releaseOne_wf _ _ _ _ _ ht) _ _ h

/-- Leaving the lists writes the words and records of the colours left only. -/
theorem leaveLists_wf {s : State} (sid : StreetId) (m : Mask) (h : s.mem.wf = true) : (s.leaveLists sid m).mem.wf = true := by
  unfold State.leaveLists
  exact foldl_wf _ (fun _ _ hs => onColour_wf _ _ _ hs) _ _ h

theorem exitLanes_wf {s : State} (m : Mask) (p : Bool) (h : s.mem.wf = true) : (s.exitLanes m p).mem.wf = true := by
  unfold State.exitLanes
  exact releaseHolds_wf _ _ _ _ (leaveLists_wf _ _ (by simpa only [onSt_mem] using h))

/-! ### The ends of tasks, streets and blocks -/

theorem refuseOrphans_wf {s : State} (h : s.mem.wf = true) : s.refuseOrphans.mem.wf = true := by
  unfold State.refuseOrphans
  exact foldl_wf _ (fun _ _ hs => foldl_wf _ (fun _ _ ht => asyncErr_wf _ _ _ _ _ (by simpa only [onDie_mem] using ht)) _ _ hs) _ _ h

theorem performMred_wf {s : State} (r : Mred) (h : s.mem.wf = true) : (s.performMred r).mem.wf = true := by
  unfold State.performMred
  dsimp only
  split
  · exact asyncErr_wf _ _ _ _ _ (meetBad_wf _ _ _ _ h)
  · split
    · split
      · rw [l1Store_mem, l1Store_mem]; exact store_wf _ _ _ _ _ (loadCopy_wf _ _ _ _ h)
      · rw [l1Store_mem]; exact store_wf _ _ _ _ _ (loadCopy_wf _ _ _ _ h)
    · exact store_wf _ _ _ _ _ (loadCopy_wf _ _ _ _ h)

theorem drainMreds_wf {s : State} (sid : StreetId) (h : s.mem.wf = true) : (s.drainMreds sid).mem.wf = true :=
  foldl_wf (fun (s : State) (r : Mred) => s.performMred r) (fun _ r hs => performMred_wf r hs) _ _ h

theorem drainBlock_wf {s : State} (b : Block) (h : s.mem.wf = true) : (s.drainBlock b).mem.wf = true :=
  foldl_wf (fun (s : State) (r : Mred) => s.performMred r) (fun _ r hs => performMred_wf r hs) _ _ h

theorem finishBlock_wf {s : State} (b : Block) (h : s.mem.wf = true) : (s.finishBlock b).mem.wf = true := by
  unfold State.finishBlock
  refine foldl_wf _ (fun s die hs => ?_) _ _ (refuseOrphans_wf (by simpa only [flushDeltas_mem, onBlock_mem] using drainBlock_wf b h))
  split
  · exact hs
  · refine wf_ite (taskDone_wf _ _ _ ?_) ?_ <;> simpa only [onDie_mem] using hs

theorem endBlock_wf {s : State} (id : Nat) (h : s.mem.wf = true) : (s.endBlock id).mem.wf = true := by
  unfold State.endBlock
  split
  · exact h
  · refine wf_ite ?_ (finishBlock_wf _ ?_)
    · simpa only [onBlock_mem, mapStreets_mem] using h
    · simpa only [mapStreets_mem] using h

theorem endStreetIfEmpty_wf {s : State} (h : s.mem.wf = true) : s.endStreetIfEmpty.mem.wf = true := by
  have k : (if s.st.life == .running then s.onSt fun t => { t with life := .exited } else s).mem.wf = true :=
    wf_ite (by simpa only [onSt_mem] using h) h
  unfold State.endStreetIfEmpty
  exact wf_ite (wf_ite (endBlock_wf _ k) k) h

theorem drainCheck_wf {s : State} (id : Nat) (h : s.mem.wf = true) : (s.drainCheck id).mem.wf = true := by
  unfold State.drainCheck
  split
  · exact h
  · exact wf_ite (finishBlock_wf _ h) h

/-! ### Traps, service and reductions -/

/-- Waiting for service leaves memory in its form: it writes the fault record only. -/
theorem service_wf {s : State} (f : XFault) (r : Stall) (h : s.mem.wf = true) : (s.service f r).mem.wf = true := by
  unfold State.service
  exact walkFault_wf _ _ (by simpa only [onSt_mem] using h)

theorem contain_wf {s : State} (cause code faddr : Nat) (h : s.mem.wf = true) : (s.contain cause code faddr).mem.wf = true := by
  unfold State.contain
  refine endStreetIfEmpty_wf (abandonBars_wf _ (releaseHolds_wf _ _ _ _ (drainMreds_wf _ (leaveLists_wf _ _ ?_))))
  simp only [onSt_mem]
  exact stopRecord_wf _ _ _ _ _ _ _ _ _ _ h

/-- In a handler, or without one, a trap contains the street (R160). -/
theorem takeTrap_contained {s : State} (cause code faddr : Nat) (h : s.st.tlevel = true ∨ s.st.thand = 0) :
    s.takeTrap cause code faddr = s.contain cause code faddr := by
  unfold State.takeTrap
  rcases h with h | h <;> simp [h]

/-- A trap whose save area is not translated waits for service and has no other effect (R161). -/
theorem takeTrap_serviced {s : State} (cause code faddr : Nat) {f : XFault} (h : s.st.tlevel = false) (k : s.st.thand ≠ 0)
    (p : cause ≠ 11 ∨ s.st.pair = none) (x : translate s s.st.core s.blk.ctx s.st.tsave.toNat .write = .fault f) : s.takeTrap cause code faddr = s.service f .trap := by
  unfold State.takeTrap
  have k' : (s.st.thand == 0) = false := by simpa using k
  have p' : (cause == 11 && s.st.pair.isSome) = false := by rcases p with p | p <;> simp [p]
  simp only [h, k', p', Bool.or_self, Bool.false_eq_true, if_false, x]

theorem writeArea_wf {s : State} (pa pte : Nat) (bs : List Byte) (h : s.mem.wf = true) : (s.writeArea pa pte bs).mem.wf = true := by
  unfold State.writeArea
  exact wf_ite (sendTo_wf _ _ _ h) (by rw [l1Store_mem]; exact store_wf _ _ _ _ _ h)

/-- Taking a trap leaves memory in its form. -/
theorem takeTrap_wf {s : State} (cause code faddr : Nat) (h : s.mem.wf = true) : (s.takeTrap cause code faddr).mem.wf = true := by
  unfold State.takeTrap
  refine wf_ite (contain_wf _ _ _ h) ?_
  split
  · exact service_wf _ _ h
  · exact contain_wf _ _ _ h
  · refine wf_ite (contain_wf _ _ _ h) ?_
    simp only [traceTarget_mem, onSt_mem]
    exact writeArea_wf _ _ _ (touch_wf _ _ _ _ _ _ _ _ h)

theorem debugStop_wf {s : State} (cause code faddr : Nat) (h : s.mem.wf = true) : (s.debugStop cause code faddr).mem.wf = true := by
  unfold State.debugStop
  simp only [onSt_mem]
  exact stopRecord_wf _ _ _ _ _ _ _ _ _ _ h

theorem haltStop_wf {s : State} (h : s.mem.wf = true) : s.haltStop.mem.wf = true := by
  unfold State.haltStop State.haltAt
  simp only [onSt_mem]
  exact stopRecord_wf _ _ _ _ _ _ _ _ _ _ h

end Sys2Proof.Machine
end

