-- ==== Sys2Proof/Laws/Vector.lean ====
section
/-! SUPPORT. Everything the runner of the vector formats can do (Machine/Operands.lean): its parts' frames, lane values and flags,
and `runVec_done`, which says what a vector instruction that is ready leaves. -/

namespace Sys2Proof.Machine

@[simp] theorem gen_lane (f : Lane → Word) (l : Lane) : (SVec.gen f).lane l = f l := by
  simp [SVec.gen, SVec.lane]

@[simp] theorem splat_lane (w : Word) (l : Lane) : (SVec.splat w).lane l = w := by simp [SVec.splat]

@[simp] theorem zero_lane (l : Lane) : SVec.zero.lane l = 0 := by simp [SVec.zero]

@[simp] theorem blend_lane (m : Mask) (v o : SVec) (l : Lane) :
    (SVec.blend m v o).lane l = if m.has l then v.lane l else o.lane l := by simp [SVec.blend]

@[simp] theorem mem_allLanes (l : Lane) : l ∈ allLanes := by simp [allLanes]

@[simp] theorem mem_lanes (m : Mask) (l : Lane) : l ∈ m.lanes ↔ m.has l = true := by simp [Mask.lanes]

theorem all_has (l : Lane) : Mask.all.has l = true := by revert l; decide

theorem one_has (l : Lane) : Mask.has 1 l = decide (l = 0) := by revert l; decide

/-- Two street vectors with equal lanes are equal. -/
theorem svec_ext {a b : SVec} (h : ∀ l, a.lane l = b.lane l) : a = b := by
  apply Vector.ext
  intro i hi
  exact h ⟨i, hi⟩

/-- Register read back after one is put. -/
theorem get_set_reg (v : Vector SVec 64) (r q : RegNo) (x : SVec) :
    (v.set r.toNat x).get q.toFin = if q = r then x else v.get q.toFin := by
  have e : q = r ↔ q.toNat = r.toNat := BitVec.toNat_inj.symm
  show (v.set r.toNat x)[q.toNat] = if q = r then x else v[q.toNat]
  rw [Vector.getElem_set]
  by_cases h : q = r
  · subst h; simp
  · have h' : r.toNat ≠ q.toNat := fun k => h (e.2 k.symm)
    simp [h, h']

/-- The registers after one write (R7). -/
theorem setReg_lane (t : Street) (r q : RegNo) (m : Mask) (v : SVec) (l : Lane) :
    ((t.setReg r m v).regs.get q.toFin).lane l
      = if q = r ∧ m.has l = true then v.lane l else (t.regs.get q.toFin).lane l := by
  rw [setReg_regs, get_set_reg]
  by_cases h : q = r
  · subst h; simp
  · simp [h]

theorem setReg_eq (t : Street) (r : RegNo) (m : Mask) (v : SVec) :
    t.setReg r m v = { t with regs := (t.setReg r m v).regs, windows := (t.setReg r m v).windows } := rfl

/-- The writes of `setRegs` from word k on. -/
def putFrom (r : RegNo) (m : Mask) (k : Nat) (t : Street) (vs : List SVec) : Street :=
  (vs.foldl (fun (p : Nat × Street) v => (p.1 + 1, p.2.setReg (regPlus r p.1) m v)) (k, t)).2

theorem setRegs_putFrom (t : Street) (r : RegNo) (m : Mask) (vs : List SVec) : t.setRegs r m vs = putFrom r m 0 t vs := rfl

theorem putFrom_cons (r : RegNo) (m : Mask) (k : Nat) (t : Street) (v : SVec) (vs : List SVec) :
    putFrom r m k t (v :: vs) = putFrom r m (k + 1) (t.setReg (regPlus r k) m v) vs := rfl

theorem putFrom_eq (r : RegNo) (m : Mask) (k : Nat) (t : Street) (vs : List SVec) :
    putFrom r m k t vs = { t with regs := (putFrom r m k t vs).regs, windows := (putFrom r m k t vs).windows } := by
  induction vs generalizing k t with
  | nil => rfl
  | cons v vs ih => rw [putFrom_cons, ih]; rfl

theorem regPlus_toNat (r : RegNo) (i : Nat) (h : r.toNat + i < 64) : (regPlus r i).toNat = r.toNat + i := by
  simp [regPlus, BitVec.toNat_add]; omega

theorem putFrom_lane (r q : RegNo) (m : Mask) (k : Nat) (t : Street) (vs : List SVec) (l : Lane)
    (h : r.toNat + k + vs.length ≤ 64) :
    ((putFrom r m k t vs).regs.get q.toFin).lane l
      = if r.toNat + k ≤ q.toNat ∧ q.toNat < r.toNat + k + vs.length ∧ m.has l = true then
          (vs.getD (q.toNat - r.toNat - k) SVec.zero).lane l
        else (t.regs.get q.toFin).lane l := by
  induction vs generalizing k t with
  | nil =>
    rw [if_neg (by simp only [List.length_nil]; omega)]; rfl
  | cons v vs ih =>
    simp only [List.length_cons] at h
    rw [putFrom_cons, ih (k + 1) _ (by omega), setReg_lane]
    have e : q = regPlus r k ↔ q.toNat = r.toNat + k := by
      rw [← BitVec.toNat_inj, regPlus_toNat r k (by omega)]
    by_cases hq : q.toNat = r.toNat + k
    · have e1 : ¬ (r.toNat + (k + 1) ≤ q.toNat ∧ q.toNat < r.toNat + (k + 1) + vs.length ∧ m.has l = true) := by omega
      have e2 : q.toNat - r.toNat - k = 0 := by omega
      rw [if_neg e1, e2]
      have e3 : r.toNat + k ≤ q.toNat ∧ q.toNat < r.toNat + k + (v :: vs).length := by
        simp only [List.length_cons]; omega
      by_cases hm : m.has l = true
      · rw [if_pos ⟨e.2 hq, hm⟩, if_pos ⟨e3.1, e3.2, hm⟩]; simp
      · rw [if_neg (fun c => hm c.2), if_neg (fun c => hm c.2.2)]
    · rw [if_neg (c := q = regPlus r k ∧ m.has l = true) (fun c => hq (e.1 c.1))]
      by_cases hin : r.toNat + (k + 1) ≤ q.toNat ∧ q.toNat < r.toNat + (k + 1) + vs.length ∧ m.has l = true
      · have e2 : q.toNat - r.toNat - k = (q.toNat - r.toNat - (k + 1)) + 1 := by omega
        rw [if_pos hin, if_pos ⟨by omega, by simp only [List.length_cons]; omega, hin.2.2⟩, e2]
        simp
      · rw [if_neg hin, if_neg]
        rintro ⟨a, b, c⟩
        simp only [List.length_cons] at b
        exact hin ⟨by omega, by omega, c⟩

/-- What `setRegs` leaves: the written lanes of the registers from r on hold the words. -/
theorem setRegs_lane (t : Street) (r q : RegNo) (m : Mask) (vs : List SVec) (l : Lane) (h : r.toNat + vs.length ≤ 64) :
    ((t.setRegs r m vs).regs.get q.toFin).lane l
      = if r.toNat ≤ q.toNat ∧ q.toNat < r.toNat + vs.length ∧ m.has l = true then
          (vs.getD (q.toNat - r.toNat) SVec.zero).lane l
        else (t.regs.get q.toFin).lane l := by
  rw [setRegs_putFrom, putFrom_lane r q m 0 t vs l (by omega)]
  simp

theorem setRegs_eq (t : Street) (r : RegNo) (m : Mask) (vs : List SVec) :
    t.setRegs r m vs = { t with regs := (t.setRegs r m vs).regs, windows := (t.setRegs r m vs).windows } :=
  putFrom_eq r m 0 t vs

theorem openWin_eq (t b : Street) (la : Nat) (rs : List Nat) (m : Mask) :
    t.openWin b la rs m = { t with windows := (t.openWin b la rs m).windows } := by
  unfold Street.openWin; split <;> rfl

theorem setFlags_eq (t : Street) (f : Word) :
    t.setFlags f = { t with sr := (t.setFlags f).sr, windows := (t.setFlags f).windows } := rfl

/-- Two states that differ in the queues of the block in focus only. -/
theorem popAll_eq (s : State) (g : Gathered) :
    s.popAll g = { s with blk := { s.blk with queues := (s.popAll g).blk.queues } } := by
  unfold State.popAll
  generalize g.pops = ps
  induction ps generalizing s with
  | nil => rfl
  | cons p ps ih => rw [List.foldl_cons, ih]; rfl

theorem push_eq (s : State) (c : RegNo) (vs : List SVec) :
    s.push c vs = { s with blk := { s.blk with queues := (s.push c vs).blk.queues } } := by
  unfold State.push State.pushTo; split <;> rfl

theorem weighArea_eq (s : State) (c i n : Nat) : s.weighArea c i n = { s with ctxs := (s.weighArea c i n).ctxs } := rfl

theorem flushDeltas_eq (s : State) (p : WDelta → Bool) :
    s.flushDeltas p = { s with wdeltas := (s.flushDeltas p).wdeltas, ctxs := (s.flushDeltas p).ctxs } := by
  unfold State.flushDeltas
  have h : ∀ (ds : List WDelta) (u : State), ds.foldl (fun s d => s.weighArea d.ctx d.idx d.n) u
      = { u with ctxs := (ds.foldl (fun s d => s.weighArea d.ctx d.idx d.n) u).ctxs } := by
    intro ds
    induction ds with
    | nil => intro u; rfl
    | cons d ds ih => intro u; rw [List.foldl_cons, ih]; rfl
  rw [h]

/-- Counting work changes the deltas and the weigh areas only (R357). -/
theorem weigh_eq (s : State) (a c i n : Nat) :
    s.weigh a c i n = { s with wdeltas := (s.weigh a c i n).wdeltas, ctxs := (s.weigh a c i n).ctxs } := by
  unfold State.weigh; split
  · rfl
  · rw [flushDeltas_eq]

theorem weighSt_eq (s : State) (i n : Nat) :
    s.weighSt i n = { s with wdeltas := (s.weighSt i n).wdeltas, ctxs := (s.weighSt i n).ctxs } := weigh_eq s _ _ i n

theorem or_foldl_bit (ls : List Lane) (f : Lane → Word) (acc : Word) (i : Nat) :
    (ls.foldl (fun a l => a ||| f l) acc).getLsbD i = (acc.getLsbD i || ls.any fun l => (f l).getLsbD i) := by
  induction ls generalizing acc with
  | nil => simp
  | cons l ls ih => rw [List.foldl_cons, ih]; simp [Bool.or_assoc]

theorem orFlags_bit (ls : List Lane) (f : Lane → Word) (i : Nat) :
    (orFlags ls f).getLsbD i = ls.any fun l => (f l).getLsbD i := by
  rw [orFlags, or_foldl_bit]; simp

theorem srMask_bit (i : Nat) : srMask.getLsbD i = decide (i < 7) := by
  by_cases h : i < 32
  · exact (by decide : ∀ j : Fin 32, srMask.getLsbD j.val = decide (j.val < 7)) ⟨i, h⟩
  · rw [BitVec.getLsbD_of_ge _ _ (by omega)]; simp; omega

theorem queue_setQueue (s : State) (q p : Nat) (es : List SVec) (h : q < 16) :
    (s.setQueue q es).queue p = if p = q then es else s.queue p := by
  unfold State.queue State.setQueue
  simp only [Vector.toArray_setIfInBounds, Array.getD_eq_getD_getElem?, Array.getElem?_setIfInBounds]
  by_cases e : p = q
  · subst e; simp [h]
  · simp [e, Ne.symm e]

theorem queue_setQueue_out (s : State) (q p : Nat) (es : List SVec) (h : 16 ≤ q) (hp : p < 16) :
    (s.setQueue q es).queue p = s.queue p := by
  unfold State.queue State.setQueue
  simp only [Vector.toArray_setIfInBounds, Array.getD_eq_getD_getElem?, Array.getElem?_setIfInBounds]
  have : q ≠ p := by omega
  simp [this]

/-- What a push leaves in each queue (R13). -/
theorem queue_push (s : State) (c : RegNo) (vs : List SVec) (q : Nat) (h : q < 16) :
    (s.push c vs).queue q = s.queue q ++ if s.queueOf c = some q then vs else [] := by
  unfold State.push State.pushTo
  cases e : s.queueOf c with
  | none => simp
  | some p =>
    by_cases hp : p < 16
    · rw [queue_setQueue s p q _ hp]
      by_cases k : q = p
      · subst k; simp
      · simp [k, Ne.symm k]
    · rw [queue_setQueue_out s p q _ (by omega) h]
      have : p ≠ q := by omega
      simp [this]

/-- The results of an execution, lane by lane. -/
theorem results_lane (s : State) (o : VecOp) (l : Lane) (h : o.u = true ∨ s.active.has l = true) :
    (o.results s.active (s.gather o.srcs).vals).get l = laneResult s o l := by
  unfold VecOp.results laneResult
  by_cases hu : o.u = true
  · simp [hu, Vector.get]
  · simp [hu] at h ⊢; simp [h]

/-- The lanes an execution uses are lanes it writes. -/
theorem lanesUsed_has (u : Bool) (act : Mask) (l : Lane) (h : (lanesUsed u act).has l = true) : u = true ∨ act.has l = true := by
  unfold lanesUsed at h; cases u <;> simp_all

/-- A legal register destination does not run past v63: pairs and quads are aligned (R10). -/
theorem regsOk_fits {n : Nat} {r : RegNo} {w : Nat} (h : regsOk n r w = true) (hw : w = 0 ∨ w = 1 ∨ w = 2 ∨ w = 4) :
    r.toNat + w ≤ 64 := by
  have hr := r.isLt
  rcases hw with rfl | rfl | rfl | rfl <;> simp [regsOk] at h <;> omega

@[simp] theorem rewrote_st (s : State) (r : RegNo) (n : Nat) (m : Mask) : (s.rewrote r n m).st = s.st := rfl
@[simp] theorem rewrote_blk (s : State) (r : RegNo) (n : Nat) (m : Mask) : (s.rewrote r n m).blk = s.blk := rfl
@[simp] theorem rewrote_upsets (s : State) (r : RegNo) (n : Nat) (m : Mask) :
    (s.rewrote r n m).upsets = s.upsets.filter fun u => !errInRegs u.1 s.st.sid r.toNat n m := rfl

/-- What delivering a result leaves in each register. -/
theorem deliver_lane (s : State) (d : Dst) (m : Mask) (vs : List SVec) (r : RegNo) (l : Lane)
    (h : d.chan = false → d.idx.toNat + vs.length ≤ 64) :
    ((s.deliver d m vs).st.regs.get r.toFin).lane l
      = if d.chan = false ∧ d.idx.toNat ≤ r.toNat ∧ r.toNat < d.idx.toNat + vs.length ∧ m.has l = true then
          (vs.getD (r.toNat - d.idx.toNat) SVec.zero).lane l
        else (s.st.regs.get r.toFin).lane l := by
  unfold State.deliver
  cases hc : d.chan with
  | true => simp; rw [push_eq]
  | false => simp only [Bool.false_eq_true, if_false, onSt_st, true_and]; rw [setRegs_lane _ _ _ _ _ _ (h hc)]; rfl

/-- Delivering changes registers and windows, or the queues. -/
theorem deliver_eq (s : State) (d : Dst) (m : Mask) (vs : List SVec) :
    s.deliver d m vs = { s with
      st := { s.st with regs := (s.deliver d m vs).st.regs, windows := (s.deliver d m vs).st.windows }
      blk := { s.blk with queues := (s.deliver d m vs).blk.queues }
      upsets := (s.deliver d m vs).upsets } := by
  unfold State.deliver
  split
  · rw [push_eq]
  · simp only [State.onSt]; rw [setRegs_eq]; rfl

/-- The uncorrectable words that a delivery leaves: those it writes are gone (R362). -/
theorem deliver_upsets (s : State) (d : Dst) (m : Mask) (vs : List SVec) :
    (s.deliver d m vs).upsets
      = s.upsets.filter fun x => !(!d.chan && errInRegs x.1 s.st.sid d.idx.toNat vs.length m) := by
  unfold State.deliver
  cases hc : d.chan with
  | true => simp only [if_true]; rw [push_eq]; simp
  | false => simp only [Bool.false_eq_true, if_false, onSt_upsets, rewrote_upsets, Bool.not_false, Bool.true_and]

/-- Sources without an uncorrectable word are taken as they are. -/
theorem takeWords_sound {s : State} {lanes : Mask} {srcs : List (Src × Nat)} {vals : List Val}
    (h : ∀ x ∈ srcs, s.srcBroken lanes x = none) : s.takeWords lanes srcs vals = vals := by
  unfold State.takeWords
  conv_rhs => rw [← List.zipIdx_map_fst 0 vals]
  apply List.map_congr_left
  intro p _
  split
  · rename_i x hx
    simp [State.srcWords, h x (List.mem_of_getElem? hx)]
  · rfl

theorem brokenTaken_sound {s : State} {lanes : Mask} {srcs : List (Src × Nat)} (pops : List (Nat × Nat))
    (h : ∀ x ∈ srcs, s.srcBroken lanes x = none) : s.brokenTaken lanes srcs pops = s := by
  unfold State.brokenTaken
  rw [if_pos]
  rw [List.all_eq_true]
  intro x hx
  simp [h x hx]

/-- EVERYTHING A VECTOR INSTRUCTION DOES when it is ready, for the widths the formats have. -/
theorem runVec_effect (s : State) (o : VecOp) (h : VecReady s o) :
    s.runVec o = s.vecEffect o s.active (s.gather o.srcs) := by
  simp only [State.runVec, h.legal, h.bound, h.active, h.present, h.room, takeWords_sound h.sound, h.moment, brokenTaken_sound _ h.sound,
    Bool.not_true, Bool.false_eq_true, if_false]

/-- The queues of a delivery: a push appends the words, with zero in the lanes not written (R13). -/
theorem deliver_queue (s : State) (d : Dst) (m : Mask) (vs : List SVec) (q : Nat) (h : q < 16) :
    (s.deliver d m vs).queue q = s.queue q
      ++ if d.chan = true ∧ s.queueOf d.idx = some q then vs.map fun v => SVec.blend m v SVec.zero else [] := by
  unfold State.deliver
  cases hc : d.chan with
  | true => simp only [if_true, true_and]; rw [queue_push _ _ _ _ h]
  | false => simp [State.queue, State.onSt]

/-- What `runVec` leaves when the instruction is ready (R7, R13, R25, R55, R63). -/
theorem runVec_done (s : State) (o : VecOp) (h : VecReady s o) (hw : o.dwords = 1 ∨ o.dwords = 2 ∨ o.dwords = 4) :
    VecDone s (s.runVec o) o := by
  rw [runVec_effect s o h]
  have hfit : o.dst.chan = false → o.dst.idx.toNat + o.dwords ≤ 64 := by
    intro hc
    have hl := h.legal
    simp only [State.vecOk, dstOk, hc, Bool.and_eq_true, Bool.false_eq_true, if_false] at hl
    exact regsOk_fits hl.2 (by omega)
  unfold State.vecEffect
  generalize hg : s.gather o.srcs = g
  have hlane : ∀ l, (o.u = true ∨ s.active.has l = true) →
      (o.results s.active g.vals).get l = laneResult s o l := by
    intro l hl; rw [← hg]; exact results_lane s o l hl
  have hm : ∀ l, (if o.u = true then Mask.all else s.active).has l = true ↔ Written s o.u l := by
    intro l; unfold Written; cases o.u <;> simp [all_has]
  simp only []
  generalize hd1 : (s.popAll g).onSt (fun t => t.setFlags (orFlags (lanesUsed o.u s.active).lanes
    fun l => ((o.results s.active g.vals).get l).2)) = a
  have ha : a = { s with
      st := { s.st with sr := a.st.sr, windows := a.st.windows }
      blk := { s.blk with queues := (s.popAll g).blk.queues } } := by
    rw [← hd1, popAll_eq]; rfl
  have haq : ∀ q, a.queue q = (s.popAll g).queue q := by intro q; rw [← hd1]; rfl
  have haqo : ∀ c, a.queueOf c = s.queueOf c := by intro c; rw [ha]; rfl
  have hasr : a.st.sr = s.st.sr ||| ((orFlags (lanesUsed o.u s.active).lanes
      fun l => ((o.results s.active g.vals).get l).2) &&& srMask) := by
    rw [← hd1, onSt_st, setFlags_sr, popAll_eq]
  generalize hd2 : a.deliver o.dst (if o.u = true then Mask.all else s.active)
    ((List.range o.dwords).map (resWord (o.results s.active g.vals))) = b
  have hb := deliver_eq a o.dst (if o.u = true then Mask.all else s.active)
    ((List.range o.dwords).map (resWord (o.results s.active g.vals)))
  rw [hd2] at hb
  generalize hd3 : b.onSt (fun t => t.openWin s.st o.la
    (if o.dst.chan = true then [] else (List.range o.dwords).map fun i => o.dst.idx.toNat + i)
    (if o.u = true then Mask.all else s.active)) = c
  have hc : c = { b with st := { b.st with windows := c.st.windows } } := by
    rw [← hd3]; dsimp only [State.onSt]; rw [openWin_eq]
  generalize hd4 : c.weighSt o.cnt.1 (o.cnt.2 * (lanesUsed o.u s.active).lanes.length) = d
  have hd : d = { c with wdeltas := d.wdeltas, ctxs := d.ctxs } := by rw [← hd4]; exact weighSt_eq _ _ _
  constructor
  · unfold State.done
    rw [hd, hc, hb, ha]; rfl
  · unfold Advanced
    constructor
    · rw [done_st_paths, hd, hc, hb, ha]; rfl
    · rfl
  · intro r l
    have e : d.done.st.regs = b.st.regs := by rw [done_st_regs, hd, hc]
    rw [e, ← hd2, deliver_lane _ _ _ _ _ _ (by simpa using hfit)]
    have ea : a.st.regs = s.st.regs := by rw [ha]
    rw [ea]
    simp only [List.length_map, List.length_range]
    constructor
    · rintro ⟨⟨h1, h2, h3⟩, h4⟩
      rw [if_pos ⟨h1, h2, h3, (hm l).2 h4⟩, List.getD_eq_getElem?_getD, List.getElem?_map,
        List.getElem?_range (by omega)]
      simp only [Option.map_some, Option.getD_some, resWord, gen_lane]
      rw [hlane l h4]
    · intro hn
      rw [if_neg]
      rintro ⟨h1, h2, h3, h4⟩
      exact hn ⟨⟨h1, h2, h3⟩, (hm l).1 h4⟩
  · intro i hi
    have e : d.done.st.sr = a.st.sr := by rw [done_st_sr, hd, hc, hb]
    rw [e, hasr, BitVec.getLsbD_or, BitVec.getLsbD_and, orFlags_bit, srMask_bit, Bool.and_comm]
    congr 2
    apply Bool.eq_iff_iff.2
    simp only [List.any_eq_true, mem_lanes]
    constructor
    · rintro ⟨l, h1, h2⟩; rw [hlane l (lanesUsed_has _ _ _ h1)] at h2; exact ⟨l, h1, h2⟩
    · rintro ⟨l, h1, h2⟩; refine ⟨l, h1, ?_⟩; rw [hlane l (lanesUsed_has _ _ _ h1)]; exact h2
  · have e : d.done.upsets = b.upsets := by rw [done_upsets, hd, hc]
    rw [e, ← hd2, deliver_upsets, ha]
    simp only [List.length_map, List.length_range]
  · intro q hq
    have e : d.done.queue q = b.queue q := by
      unfold State.queue; rw [done_blk, hd, hc]
    rw [e, ← hd2, deliver_queue _ _ _ _ _ hq, haq, haqo, hg]
    congr 1
    split
    · rw [List.map_map]
      apply List.map_congr_left
      intro i _
      apply svec_ext
      intro l
      simp only [Function.comp, blend_lane, resWord, gen_lane, zero_lane]
      by_cases hl : Written s o.u l
      · rw [if_pos ((hm l).2 hl), hlane l hl, if_pos]
        cases hl with | inl k => simp [k] | inr k => simp [k]
      · rw [if_neg (fun k => hl ((hm l).1 k)), if_neg]
        intro k; apply hl; simpa [Written] using k
    · rfl

end Sys2Proof.Machine
end

