-- ==== Sys2Proof/Tests/Slice0.lean ====
section
/-! SUPPORT. The model's own tests: what the checks of a word refuse, words of the spec's encodings with what they decode to,
one step of small states with results worked out by hand from the rules, and for every statement a state and operands that meet
its hypotheses. -/

set_option maxRecDepth 100000

namespace Sys2Proof.Tests

open Sys2Proof Sys2Proof.Machine Sys2Proof.Say

/-! ### Refusals of ill-formed terms, a term for each check (R40) -/

theorem test_wf_refusals : ∀ i ∈ ([
  .iadd { u := false, d := ⟨false, 1⟩, a := ⟨true, 1, 1⟩, b := ⟨false, 2, false⟩ },
  .sel { u := false, d := 1, a := ⟨true, 1, 3⟩, b := ⟨false, 2, false⟩ },
  .mov { u := false, d := ⟨false, 1⟩, a := ⟨true, 1, 3⟩ },
  .ballot { u := false, d := ⟨false, 3⟩, a := ⟨false, 1, 0⟩ },
  .slide { u := false, d := ⟨true, 3⟩, a := ⟨false, 1, 0⟩, up := true, fill := .old, k := 1 },
  .shli { u := false, d := 1, a := 2, imm := 32 },
  .cvt { u := false, d := ⟨false, 6⟩, a := ⟨false, 4, 0⟩, t := 12 },
  .rcp { u := false, d := ⟨false, 5⟩, a := ⟨true, 4, 1⟩, la := 2 },
  .mrelu { u := false, d := 5, a := ⟨4, 0⟩, la := 0 },
  .madd { u := false, d := 4, a := ⟨4, 0⟩, b := ⟨7, false⟩ },
  .mscl { u := false, d := 4, a := ⟨5, 0⟩, b := ⟨false, 7, false⟩ },
  .mcollStd { u := false, d := 4, a := ⟨5, 0⟩ },
  .mcollUcb { u := false, d := 4, a := ⟨5, 0⟩, k := 1 }] : List Instr), i.wf = false := by decide

theorem test_wf_refusals_memory : ∀ i ∈ ([
  .ld { u := false, data := ⟨false, 4⟩, addr := 3, la := 0, size := .b32, ord := .plain, str := false, nc := false },
  .ld { u := false, data := ⟨false, 4⟩, addr := 2, la := 0, size := .keepexp, ord := .plain, str := false, nc := false },
  .ld { u := false, data := ⟨false, 4⟩, addr := 2, la := 0, size := .reserved7, ord := .plain, str := false, nc := false },
  .ld { u := false, data := ⟨false, 4⟩, addr := 2, la := 0, size := .b32, ord := .acq, str := false, nc := false },
  .ld { u := false, data := ⟨false, 4⟩, addr := 2, la := 0, size := .b32, ord := .rel, str := true, nc := false },
  .ld { u := false, data := ⟨false, 6⟩, addr := 2, la := 0, size := .b128, ord := .plain, str := false, nc := false },
  .ld { u := false, data := ⟨true, 6⟩, addr := 2, la := 0, size := .b64, ord := .plain, str := false, nc := false },
  .st { u := false, data := ⟨true, 6⟩, addr := 2, la := 0, size := .b32, ord := .plain, str := false, nc := false },
  .st { u := false, data := ⟨false, 6⟩, addr := 2, la := 0, size := .raw, ord := .plain, str := false, nc := false },
  .lds { u := false, data := ⟨false, 6⟩, addr := 2, la := 0, size := .raw, ord := .plain, str := false },
  .sts { u := false, data := ⟨false, 6⟩, addr := 2, la := 0, size := .b32, ord := .rel, str := false },
  .atom { u := false, data := 4, addr := 2, la := 0, aop := .reserved11, w := false, ord := .plain },
  .atom { u := false, data := 4, addr := 2, la := 0, aop := .fadd, w := true, ord := .plain },
  .matom { u := false, data := 6, addr := 2, la := 0, aop := .cas, w := true, ord := .plain },
  .mred { u := false, data := 4, addr := 2, aop := .xchg, w := false, ord := .plain },
  .mred { u := false, data := 4, addr := 2, aop := .add, w := false, ord := .acq },
  .ldx { u := false, d := 4, base := 3, idx := 1, la := 0, remap := .none },
  .scat { u := false, data := 4, base := 2, idx := 1, red := .cas, remap := .none },
  .waita { u := false, addr := 3, la := 0 },
  .pref { u := false, addr := 3, la := 0, nc := false },
  .fence { u := false, f := 7, kind := 1 }, .fence { u := false, f := 3, kind := 0 }] : List Instr), i.wf = false := by decide

theorem test_wf_refusals_control : ∀ i ∈ ([
  .cacheWb { u := false, a := 3 }, .brx { u := false, a := 3 }, .clrqHeld { u := false, d := 1, a := 3 },
  .clrqOwner { u := false, d := 1, a := 2 }, .clrwait { u := false, d := 1, a := 3, la := 0 },
  .mode { f := 0, val := 12 }, .mode { f := 1, val := 4 }, .mode { f := 2, val := 0x48 }, .mode { f := 3, val := 4 },
  .mode { f := 4, val := 256 }, .mode { f := 7, val := 7 }, .mode { f := 8, val := 4 }, .mode { f := 9, val := 64 },
  .mode { f := 10, val := 2 }, .mode { f := 11, val := 4096 }, .mode { f := 12, val := 0 },
  .sread { u := false, d := 1, n := 27 }, .swrite { u := false, a := ⟨false, 2, 0⟩, n := 4 },
  .swrite { u := false, a := ⟨false, 2, 0⟩, n := 26 }, .mmt { u := false, la := 0, x := 62, q := 0 },
  .mmt { u := false, la := 0, x := 3, q := 0 }, .panz { u := false, la := 0, x := 4, q := 33 },
  .tlread { u := false, la := 0, x := 4, q := 32 }, .barinit { u := false, la := 0, x := 4, q := 31 },
  .tpost { u := false, la := 0, x := 4, q := 31, nb := false }, .panrd { u := false, la := 0, x := 5 },
  .tlwait { u := false, x := 4, q := 32 }, .bar { u := false, x := 4, q := 34 }, .travw { u := false, x := 5 },
  .illegalWord 0xD6000005] : List Instr), i.wf = false := by decide

theorem test_decode_refusals :
    decode 0x0C800000 = .error .operandClass ∧ decode 0xE0000000 = .error .modeNotUniform
    ∧ decode 0xB4000100 = .error .unusedField ∧ decodeBytes [0x05, 0, 0] = .error .truncated := by decide

/-! ### Words written out from the encodings of the spec (R19 to R38, R274) -/

theorem test_decode_integer_1 : ∀ p ∈ ([
  (0x000ABCDE, .ill 0xABCDE),
  (0x021D342F, .iadd { u := false, d := ⟨false, 14⟩, a := ⟨true, 13, 0⟩, b := ⟨false, 23, true⟩ }),
  (0x05AA4B45, .isub { u := true, d := ⟨true, 21⟩, a := ⟨false, 18, 3⟩, b := ⟨false, 34, true⟩ }),
  (0x06395E5A, .imul { u := false, d := ⟨false, 28⟩, a := ⟨true, 23, 2⟩, b := ⟨false, 45, false⟩ }),
  (0x094770F0, .imulh { u := true, d := ⟨false, 35⟩, a := ⟨true, 28, 0⟩, b := ⟨true, 56, false⟩ }),
  (0x0AD48607, .nmulh { u := false, d := ⟨true, 42⟩, a := ⟨false, 33, 2⟩, b := ⟨false, 3, true⟩ }),
  (0x0D639A1D, .imad { u := true, d := 49, a := ⟨true, 38, 2⟩, b := ⟨false, 14, true⟩ }),
  (0x0E71AC32, .imin { u := false, d := ⟨false, 56⟩, a := ⟨true, 43, 0⟩, b := ⟨false, 25, false⟩ }),
  (0x11FEC148, .imax { u := true, d := ⟨true, 63⟩, a := ⟨false, 48, 1⟩, b := ⟨false, 36, false⟩ }),
  (0x120DD6DF, .nmin { u := false, d := ⟨false, 6⟩, a := ⟨true, 53, 2⟩, b := ⟨true, 47, true⟩ }),
  (0x151BE875, .nmax { u := true, d := ⟨false, 13⟩, a := ⟨true, 58, 0⟩, b := ⟨false, 58, true⟩ }),
  (0x16A8FC0A, .and { u := false, d := ⟨true, 20⟩, a := ⟨false, 63, 0⟩, b := ⟨false, 5, false⟩ })] : List (Word × Instr)), decode p.1 = .ok p.2 := by decide

theorem test_decode_integer_2 : ∀ p ∈ ([
  (0x19371220, .or { u := true, d := ⟨false, 27⟩, a := ⟨true, 4, 2⟩, b := ⟨false, 16, false⟩ }),
  (0x1A452437, .xor { u := false, d := ⟨false, 34⟩, a := ⟨true, 9, 0⟩, b := ⟨false, 27, true⟩ }),
  (0x1DD23BCD, .andn { u := true, d := ⟨true, 41⟩, a := ⟨false, 14, 3⟩, b := ⟨true, 38, true⟩ }),
  (0x1E614E62, .shl { u := false, d := ⟨false, 48⟩, a := ⟨true, 19, 2⟩, b := ⟨false, 49, false⟩ }),
  (0x216F6078, .shr { u := true, d := ⟨false, 55⟩, a := ⟨true, 24, 0⟩, b := ⟨false, 60, false⟩ }),
  (0x22FC760F, .sar { u := false, d := ⟨true, 62⟩, a := ⟨false, 29, 2⟩, b := ⟨false, 7, true⟩ }),
  (0x250B8A25, .rotl { u := true, d := ⟨false, 5⟩, a := ⟨true, 34, 2⟩, b := ⟨false, 18, true⟩ }),
  (0x26199CBA, .sel { u := false, d := 12, a := ⟨true, 39, 0⟩, b := ⟨true, 29, false⟩ }),
  (0x29A6B150, .iseq { u := true, d := ⟨true, 19⟩, a := ⟨false, 44, 1⟩, b := ⟨false, 40, false⟩ }),
  (0x2A35C667, .isne { u := false, d := ⟨false, 26⟩, a := ⟨true, 49, 2⟩, b := ⟨false, 51, true⟩ }),
  (0x2D43D87D, .islt { u := true, d := ⟨false, 33⟩, a := ⟨true, 54, 0⟩, b := ⟨false, 62, true⟩ }),
  (0x2ED0EC12, .isle { u := false, d := ⟨true, 40⟩, a := ⟨false, 59, 0⟩, b := ⟨false, 9, false⟩ })] : List (Word × Instr)), decode p.1 = .ok p.2 := by decide

theorem test_decode_integer_3 : ∀ p ∈ ([
  (0x315F02A8, .nslt { u := true, d := ⟨false, 47⟩, a := ⟨true, 0, 2⟩, b := ⟨true, 20, false⟩ }),
  (0x326D143F, .nsle { u := false, d := ⟨false, 54⟩, a := ⟨true, 5, 0⟩, b := ⟨false, 31, true⟩ }),
  (0x35FA2B55, .bfx { u := true, d := ⟨true, 61⟩, a := ⟨false, 10, 3⟩, b := ⟨false, 42, true⟩ }),
  (0x36093E6A, .bfi { u := false, d := 4, a := ⟨true, 15, 2⟩, b := ⟨false, 53, false⟩ }),
  (0x39175000, .perm { u := true, d := ⟨false, 11⟩, a := ⟨true, 20, 0⟩, b := ⟨false, 0, false⟩ }),
  (0x40A46600, .mov { u := false, d := ⟨true, 18⟩, a := ⟨false, 25, 2⟩ }),
  (0x41337A01, .not { u := true, d := ⟨false, 25⟩, a := ⟨true, 30, 2⟩ }),
  (0x40418C02, .ineg { u := false, d := ⟨false, 32⟩, a := ⟨true, 35, 0⟩ }),
  (0x41CEA103, .iabs { u := true, d := ⟨true, 39⟩, a := ⟨false, 40, 1⟩ }),
  (0x405DB604, .popc { u := false, d := ⟨false, 46⟩, a := ⟨true, 45, 2⟩ }),
  (0x416BC805, .clz { u := true, d := ⟨false, 53⟩, a := ⟨true, 50, 0⟩ }),
  (0x40F8DC06, .brev { u := false, d := ⟨true, 60⟩, a := ⟨false, 55, 0⟩ })] : List (Word × Instr)), decode p.1 = .ok p.2 := by decide

theorem test_decode_integer_4 : ∀ p ∈ ([
  (0x4107F207, .voteany { u := true, d := ⟨false, 3⟩, a := ⟨true, 60, 2⟩ }),
  (0x40150408, .voteall { u := false, d := ⟨false, 10⟩, a := ⟨true, 1, 0⟩ }),
  (0x41A21B09, .ballot { u := true, d := ⟨true, 17⟩, a := ⟨false, 6, 3⟩ }),
  (0x40312E0A, .nnz { u := false, d := ⟨false, 24⟩, a := ⟨true, 11, 2⟩ }),
  (0x433F40F3, .slide { u := true, d := ⟨false, 31⟩, a := ⟨true, 16, 0⟩, up := true, fill := .wrap, k := 19 }),
  (0x449BABCD, .li { u := false, d := 38, h := true, imm := 0x1ABCD }),
  (0x47B5A82B, .iaddi { u := true, d := 45, a := 26, imm := 0x82B }),
  (0x48D1F82C, .andi { u := false, d := 52, a := 31, imm := 0x82C }),
  (0x4BEE482D, .ori { u := true, d := 59, a := 36, imm := 0x82D }),
  (0x4C0A982E, .xori { u := false, d := 2, a := 41, imm := 0x82E }),
  (0x4F26E82F, .shli { u := true, d := 9, a := 46, imm := 0x82F }),
  (0x50433830, .shri { u := false, d := 16, a := 51, imm := 0x830 })] : List (Word × Instr)), decode p.1 = .ok p.2 := by decide

theorem test_decode_integer_5 : ∀ p ∈ ([
  (0x535F8831, .sari { u := true, d := 23, a := 56, imm := 0x831 }),
  (0x547BD832, .islti { u := false, d := 30, a := 61, imm := 0x832 })] : List (Word × Instr)), decode p.1 = .ok p.2 := by decide

theorem test_decode_typed_1 : ∀ p ∈ ([
  (0x61CA0B65, .add { u := true, d := ⟨true, 37⟩, a := ⟨false, 2, 3⟩, b := ⟨false, 50, true⟩ }),
  (0x62591E7A, .sub { u := false, d := ⟨false, 44⟩, a := ⟨true, 7, 2⟩, b := ⟨false, 61, false⟩ }),
  (0x65673010, .mul { u := true, d := ⟨false, 51⟩, a := ⟨true, 12, 0⟩, b := ⟨false, 8, false⟩ }),
  (0x66744627, .fma { u := false, d := 58, a := ⟨false, 17, 2⟩, b := ⟨false, 19, true⟩ }),
  (0x69035ABD, .fms { u := true, d := 1, a := ⟨true, 22, 2⟩, b := ⟨true, 30, true⟩ }),
  (0x6A116C52, .fnma { u := false, d := 8, a := ⟨true, 27, 0⟩, b := ⟨false, 41, false⟩ }),
  (0x6D9E8168, .min { u := true, d := ⟨true, 15⟩, a := ⟨false, 32, 1⟩, b := ⟨false, 52, false⟩ }),
  (0x6E2D967F, .max { u := false, d := ⟨false, 22⟩, a := ⟨true, 37, 2⟩, b := ⟨false, 63, true⟩ }),
  (0x713BA815, .ceq { u := true, d := ⟨false, 29⟩, a := ⟨true, 42, 0⟩, b := ⟨false, 10, true⟩ }),
  (0x72C8BCAA, .cne { u := false, d := ⟨true, 36⟩, a := ⟨false, 47, 0⟩, b := ⟨true, 21, false⟩ }),
  (0x7557D240, .clt { u := true, d := ⟨false, 43⟩, a := ⟨true, 52, 2⟩, b := ⟨false, 32, false⟩ }),
  (0x7665E457, .cle { u := false, d := ⟨false, 50⟩, a := ⟨true, 57, 0⟩, b := ⟨false, 43, true⟩ })] : List (Word × Instr)), decode p.1 = .ok p.2 := by decide

theorem test_decode_typed_2 : ∀ p ∈ ([
  (0x79F2FB6D, .cun { u := true, d := ⟨true, 57⟩, a := ⟨false, 62, 3⟩, b := ⟨false, 54, true⟩ }),
  (0x7A010E02, .dot2 { u := false, d := 0, a := ⟨true, 3, 2⟩, b := ⟨false, 1, false⟩ }),
  (0x7D0F2098, .dot4 { u := true, d := 7, a := ⟨true, 8, 0⟩, b := ⟨true, 12, false⟩ }),
  (0x7E9C362F, .rshr { u := false, d := ⟨true, 14⟩, a := ⟨false, 13, 2⟩, b := ⟨false, 23, true⟩ }),
  (0x812B4A00, .abs { u := true, d := ⟨false, 21⟩, a := ⟨true, 18, 2⟩ }),
  (0x80395C01, .neg { u := false, d := ⟨false, 28⟩, a := ⟨true, 23, 0⟩ }),
  (0x81C67102, .fract { u := true, d := ⟨true, 35⟩, a := ⟨false, 28, 1⟩ }),
  (0x80558603, .rndi { u := false, d := ⟨false, 42⟩, a := ⟨true, 33, 2⟩ }),
  (0x81639804, .satp { u := true, d := ⟨false, 49⟩, a := ⟨true, 38, 0⟩ }),
  (0x80F0AC95, .cvt { u := false, d := ⟨true, 56⟩, a := ⟨false, 43, 0⟩, t := 9 })] : List (Word × Instr)), decode p.1 = .ok p.2 := by decide

theorem test_decode_xcend_and_moments_1 : ∀ p ∈ ([
  (0x917FC290, .rcp { u := true, d := ⟨false, 63⟩, a := ⟨true, 48, 2⟩, la := 9 }),
  (0x900DD4A1, .rsq { u := false, d := ⟨false, 6⟩, a := ⟨true, 53, 0⟩, la := 10 }),
  (0x919AEBB2, .sqrt { u := true, d := ⟨true, 13⟩, a := ⟨false, 58, 3⟩, la := 11 }),
  (0x9029FEC3, .exp2 { u := false, d := ⟨false, 20⟩, a := ⟨true, 63, 2⟩, la := 12 }),
  (0x913710D4, .log2 { u := true, d := ⟨false, 27⟩, a := ⟨true, 4, 0⟩, la := 13 }),
  (0x90C426E5, .sin { u := false, d := ⟨true, 34⟩, a := ⟨false, 9, 2⟩, la := 14 }),
  (0x91533AF6, .cos { u := true, d := ⟨false, 41⟩, a := ⟨true, 14, 2⟩, la := 15 }),
  (0x90614C07, .tanh { u := false, d := ⟨false, 48⟩, a := ⟨true, 19, 0⟩, la := 0 }),
  (0x91EE6118, .ncdf { u := true, d := ⟨true, 55⟩, a := ⟨false, 24, 1⟩, la := 1 }),
  (0x907D7629, .npdf { u := false, d := ⟨false, 62⟩, a := ⟨true, 29, 2⟩, la := 2 }),
  (0x93088B30, .mrelu { u := true, d := 4, a := ⟨34, 3⟩, la := 3 }),
  (0x92189841, .msig { u := false, d := 12, a := ⟨38, 0⟩, la := 4 })] : List (Word × Instr)), decode p.1 = .ok p.2 := by decide

theorem test_decode_xcend_and_moments_2 : ∀ p ∈ ([
  (0x9324B152, .mexp { u := true, d := 18, a := ⟨44, 1⟩, la := 5 }),
  (0x9234C263, .mgelu { u := false, d := 26, a := ⟨48, 2⟩, la := 6 }),
  (0x9340DB74, .msqr { u := true, d := 32, a := ⟨54, 3⟩, la := 7 }),
  (0x9450E821, .madd { u := false, d := 40, a := ⟨58, 0⟩, b := ⟨16, true⟩ }),
  (0x975C0125, .msub { u := true, d := 46, a := ⟨0, 1⟩, b := ⟨18, true⟩ }),
  (0x986C1229, .mmul { u := false, d := 54, a := ⟨4, 2⟩, b := ⟨20, true⟩ }),
  (0x9B782B55, .mscl { u := true, d := 60, a := ⟨10, 3⟩, b := ⟨false, 42, true⟩ }),
  (0x9C083800, .mcollMean { u := false, d := 4, a := ⟨14, 0⟩ }),
  (0x9D165140, .mcollStd { u := true, d := 11, a := ⟨20, 1⟩ }),
  (0x9C246280, .mcollVar { u := false, d := 18, a := ⟨24, 2⟩ }),
  (0x9D327BE1, .mcollUcb { u := true, d := 25, a := ⟨30, 3⟩, k := 33 })] : List (Word × Instr)), decode p.1 = .ok p.2 := by decide

theorem test_decode_memory_1 : ∀ p ∈ ([
  (0xA0C11052, .ld { u := false, data := ⟨true, 32⟩, addr := 34, la := 0, size := .raw, ord := .plain, str := true, nc := false }),
  (0xA34F40E6, .st { u := true, data := ⟨false, 39⟩, addr := 40, la := 1, size := .keepexp, ord := .acq, str := true, nc := false }),
  (0xA45D613A, .lds { u := false, data := ⟨false, 46⟩, addr := 44, la := 2, size := .b64, ord := .rel, str := true }),
  (0xA7EB91CE, .sts { u := true, data := ⟨true, 53⟩, addr := 50, la := 3, size := .b128, ord := .ar, str := true }),
  (0xA879B20C, .atom { u := false, data := 60, addr := 54, la := 4, aop := .smin, w := true, ord := .plain }),
  (0xAB07E295, .matom { u := true, data := 3, addr := 60, la := 5, aop := .smax, w := true, ord := .acq }),
  (0xAC140036, .mred { u := false, data := 10, addr := 0, aop := .or, w := true, ord := .rel }),
  (0xAF44645E, .ldx { u := true, d := 17, base := 6, idx := 17, la := 7, remap := .hash }),
  (0xB060A44D, .scat { u := false, data := 24, base := 10, idx := 17, red := .nmin, remap := .mod }),
  (0xB3008480, .waita { u := true, addr := 16, la := 9 }),
  (0xB4500003, .fence { u := false, f := 5, kind := 3 }),
  (0xB7006800, .cacheWb { u := true, a := 26 })] : List (Word × Instr)), decode p.1 = .ok p.2 := by decide

theorem test_decode_memory_2 : ∀ p ∈ ([
  (0xB6007801, .cacheInv { u := false, a := 30 }),
  (0xB7009002, .cacheWbinv { u := true, a := 36 }),
  (0xB8014701, .pref { u := false, addr := 40, la := 14, nc := true }),
  (0xBB92B800, .chmap { u := true, c := 9, i := 46 }),
  (0xBA21CC01, .chstat { u := false, c := 51, i := 16 })] : List (Word × Instr)), decode p.1 = .ok p.2 := by decide

theorem test_decode_colours_and_control_1 : ∀ p ∈ ([
  (0xC1000000, .clrsync true),
  (0xC23CF000, .clrqHeld { u := false, d := 30, a := 60 }),
  (0xC34A0801, .clrqOwner { u := true, d := 37, a := 2 }),
  (0xC2581802, .clrqDepth { u := false, d := 44, a := 6 }),
  (0xC5663050, .clrwait { u := true, d := 51, a := 12, la := 5 }),
  (0xC6004000, .clrnoteOne { u := false, a := 16 }),
  (0xC7005801, .clrnoteAll { u := true, a := 22 }),
  (0xC8006800, .clrclean { u := false, a := 26 }),
  (0xD1FEDC41, .bra { u := true, off := 0xFEDC41 }),
  (0xD25B5432, .brp { u := false, p := 22, pol := true, off := 0x15432 }),
  (0xD5FEDC3F, .call { u := true, off := 0xFEDC3F }),
  (0xD600B800, .brx { u := false, a := 46 })] : List (Word × Instr)), decode p.1 = .ok p.2 := by decide

theorem test_decode_colours_and_control_2 : ∀ p ∈ ([
  (0xD700D001, .callx { u := true, a := 52 }),
  (0xD6000002, .ret false),
  (0xD7000003, .exit true),
  (0xD6000004, .yield false),
  (0xD7000005, .nop true),
  (0xD80ABC82, .trap { u := false, val := 0xABC82 }),
  (0xD9100001, .tret true true),
  (0xD82ABC84, .bkpt { u := false, val := 0xABC84 }),
  (0xD93ABC85, .trmark { u := true, val := 0xABC85 }),
  (0xD8400001, .halt false true),
  (0xE1B00F0F, .mode { f := 11, val := 0xF0F }),
  (0xE2700015, .sread { u := false, d := 56, n := 21 })] : List (Word × Instr)), decode p.1 = .ok p.2 := by decide

theorem test_decode_colours_and_control_3 : ∀ p ∈ ([
  (0xE501C018, .swrite { u := true, a := ⟨true, 48, 0⟩, n := 24 })] : List (Word × Instr)), decode p.1 = .ok p.2 := by decide

theorem test_decode_cluster_1 : ∀ p ∈ ([
  (0xF0AE1E00, .mmt { u := false, la := 10, x := 56, q := 30 }),
  (0xF1BF1F01, .mmts { u := true, la := 11, x := 60, q := 31 }),
  (0xF0C0A002, .mmm { u := false, la := 12, x := 2, q := 32 }),
  (0xF1D1A103, .panz { u := true, la := 13, x := 6, q := 33 }),
  (0xF0E2A204, .panld { u := false, la := 14, x := 10, q := 34 }),
  (0xF1F3A305, .panst { u := true, la := 15, x := 14, q := 35 }),
  (0xF0048006, .panrd { u := false, la := 0, x := 18 }),
  (0xF1158007, .panwr { u := true, la := 1, x := 22 }),
  (0xF0268008, .panstat { u := false, la := 2, x := 26 }),
  (0xF3378320, .tpost { u := true, la := 3, x := 30, q := 3, nb := true }),
  (0xF2488421, .launch { u := false, la := 4, x := 34, q := 4, nb := true }),
  (0xF3598002, .tqstat { u := true, la := 5, x := 38 })] : List (Word × Instr)), decode p.1 = .ok p.2 := by decide

theorem test_decode_cluster_2 : ∀ p ∈ ([
  (0xF46A8600, .cpy { u := false, la := 6, x := 42, q := 6 }),
  (0xF57B8701, .cpyred { u := true, la := 7, x := 46, q := 7 }),
  (0xF48C8002, .cpystat { u := false, la := 8, x := 50 }),
  (0xF70D8900, .tlwait { u := true, x := 54, q := 9 }),
  (0xF6AE8A01, .tlread { u := false, la := 10, x := 58, q := 10 }),
  (0xF7B00B02, .tladv { u := true, la := 11, x := 0, q := 11 }),
  (0xF6010C03, .bar { u := false, x := 4, q := 12 }),
  (0xF7D20D04, .bara { u := true, la := 13, x := 8, q := 13 }),
  (0xF6E30E05, .barinit { u := false, la := 14, x := 12, q := 14 }),
  (0xF7F40F06, .barinv { u := true, la := 15, x := 16, q := 15 }),
  (0xF8051000, .trav { u := false, la := 0, x := 20, q := 16 }),
  (0xF9060001, .travw { u := true, x := 24 })] : List (Word × Instr)), decode p.1 = .ok p.2 := by decide

theorem test_decode_cluster_3 : ∀ p ∈ ([
  (0xFA271200, .coll { u := false, la := 2, x := 28, q := 18 }),
  (0xFB380001, .collstat { u := true, la := 3, x := 32 }),
  (0xFC491400, .saln { u := false, la := 4, x := 36, q := 20 }),
  (0xFD5A1501, .smeta { u := true, la := 5, x := 40, q := 21 })] : List (Word × Instr)), decode p.1 = .ok p.2 := by decide

/-- Unallocated opcodes and unlisted sub-ops are ILLEGAL_WORD (R40). -/
theorem test_decode_illegal_words :
    decode 0x3A000000 = .ok (.illegalWord 0x3A000000)
    ∧ decode 0x4000000B = .ok (.illegalWord 0x4000000B)
    ∧ decode 0x80000006 = .ok (.illegalWord 0x80000006)
    ∧ decode 0x900000AA = .ok (.illegalWord 0x900000AA)
    ∧ decode 0xD6000006 = .ok (.illegalWord 0xD6000006)
    ∧ decode 0xD8500000 = .ok (.illegalWord 0xD8500000)
    ∧ decode 0xF0000009 = .ok (.illegalWord 0xF0000009)
    ∧ decode 0xFE000000 = .ok (.illegalWord 0xFE000000) := by decide

/-- Words with their assembly forms that the spec prints. -/
theorem test_decode_spec_examples : ∀ p ∈ ([
  (0xF4050200, .cpy { u := false, la := 0, x := 20, q := 2 }), (0xF8050600, .trav { u := false, la := 0, x := 20, q := 6 }),
  (0xF8050001, .travw { u := false, x := 20 }), (0xFC050500, .saln { u := false, la := 0, x := 20, q := 5 }),
  (0xAE20C18A, .ldx { u := false, d := 8, base := 12, idx := 6, la := 2, remap := .hash }),
  (0xB010C180, .scat { u := false, data := 4, base := 12, idx := 6, red := .add, remap := .none }),
  (0xC20C3001, .clrqOwner { u := false, d := 6, a := 12 }), (0xC40C2800, .clrwait { u := false, d := 6, a := 10, la := 0 }),
  (0xC6003000, .clrnoteOne { u := false, a := 12 }), (0xC8003000, .clrclean { u := false, a := 12 }),
  (0xC0000000, .clrsync false), (0xBA8A2400, .chmap { u := false, c := 5, i := 9 }),
  (0xBA0D1401, .chstat { u := false, c := 5, i := 6 }), (0xF0050400, .mmt { u := false, la := 0, x := 20, q := 4 }),
  (0xF0052003, .panz { u := false, la := 0, x := 20, q := 32 }), (0xF0020006, .panrd { u := false, la := 0, x := 8 }),
  (0xF2060000, .tpost { u := false, la := 0, x := 24, q := 0, nb := false }),
  (0xF2060020, .tpost { u := false, la := 0, x := 24, q := 0, nb := true }),
  (0xF2062301, .launch { u := false, la := 0, x := 24, q := 35, nb := false }),
  (0xF6068300, .tlwait { u := false, x := 26, q := 3 }), (0xF607A002, .tladv { u := false, la := 0, x := 30, q := 32 }),
  (0xF6052003, .bar { u := false, x := 20, q := 32 }), (0xF6052105, .barinit { u := false, la := 0, x := 20, q := 33 }),
  (0xFA050700, .coll { u := false, la := 0, x := 20, q := 7 }), (0xFA052000, .coll { u := false, la := 0, x := 20, q := 32 }),
  (0xFA050001, .collstat { u := false, la := 0, x := 20 }), (0xE1200000, .mode { f := 2, val := 0 })]
  : List (Word × Instr)), decode p.1 = .ok p.2 := by decide


/-! ### Small states -/

/-- One street in focus at the start of its text, as a placement leaves it; no turn is scheduled. -/
def demo : State := { State.reset.placeOne with agenda := [] }

/-- The street of `demo`: generation 1, slot 15 of core 0 (R8, R153). -/
def placedSid : StreetId := mkSid 1 0 15

/-- A register given lane by lane. -/
def withReg (s : State) (r : Nat) (f : Nat → Word) : State :=
  { s with st := { s.st with regs := s.st.regs.setIfInBounds r (SVec.gen fun l => f l.val) } }

/-- A register with one value in every lane. -/
def reg (s : State) (r : Nat) (x : Word) : State := withReg s r fun _ => x

/-- An address in a register pair, the same for every lane. -/
def pairAt (s : State) (r : Nat) (x : Nat) : State := reg (reg s r (BitVec.ofNat 32 x)) (r + 1) (BitVec.ofNat 32 (x / 2 ^ 32))

/-- MD under a value of its low word. -/
def withMd (s : State) (md : Addr) : State := { s with st := { s.st with md := md } }

/-- Only lane 0 on the path. -/
def oneLane (s : State) : State :=
  { s with st := { s.st with paths := s.st.paths.set s.st.sel { s.st.path with mask := 1 } } }

/-- Lane l of register r after a step, where there is a next state. -/
def after (x : Res) (r : RegNo) (l : Lane) : Option Word :=
  match x with
  | .next t => some ((t.st.regs.get r.toFin).lane l)
  | _ => none

/-- SR after a step. -/
def srAfter (x : Res) : Option Word := match x with | .next t => some t.st.sr | _ => none

/-- Whether a step answers a next state with a property. -/
def nextHas (x : Res) (p : State → Bool) : Bool := match x with | .next t => p t | _ => false

/-- Format A from registers. -/
def ra (d a b : RegNo) : FA := { u := false, d := ⟨false, d⟩, a := ⟨false, a, 0⟩, b := ⟨false, b, false⟩ }
@[inherit_doc ra] def ra3 (d a b : RegNo) : FA3 := { u := false, d := d, a := ⟨false, a, 0⟩, b := ⟨false, b, false⟩ }
@[inherit_doc ra] def rb (d a : RegNo) : FB := { u := false, d := ⟨false, d⟩, a := ⟨false, a, 0⟩ }

/-- v2 = 0x80000005, v3 = 7, v4 = 0x12345678, v5 = the field at 5 of 3 bits. -/
def pairDemo : State := oneLane (reg (reg (reg (reg demo 2 0x80000005) 3 7) 4 0x12345678) 5 0x65)

/-! ### Integer instructions: results worked out by hand (R90 to R106) -/

theorem test_integer_pairs : ∀ p ∈ ([
    (.iadd (ra 9 2 3), 0x8000000C), (.isub (ra 9 2 3), 0x7FFFFFFE), (.imul (ra 9 2 3), 0x80000023),
    (.imulh (ra 9 2 3), 0xFFFFFFFC), (.nmulh (ra 9 2 3), 3), (.imin (ra 9 2 3), 0x80000005), (.imax (ra 9 2 3), 7),
    (.nmin (ra 9 2 3), 7), (.nmax (ra 9 2 3), 0x80000005), (.and (ra 9 2 3), 5), (.or (ra 9 2 3), 0x80000007),
    (.xor (ra 9 2 3), 0x80000002), (.andn (ra 9 2 3), 0x80000000)] : List (Instr × Word)),
    after (exec p.1 pairDemo) 9 0 = some p.2 := by decide

theorem test_shifts_and_compares : ∀ p ∈ ([
    (.shl (ra 9 2 3), 0x280), (.shr (ra 9 2 3), 0x01000000), (.sar (ra 9 2 3), 0xFF000000), (.rotl (ra 9 2 3), 0x2C0),
    (.iseq (ra 9 2 2), 0xFFFFFFFF), (.isne (ra 9 2 2), 0), (.islt (ra 9 2 3), 0xFFFFFFFF), (.isle (ra 9 3 2), 0),
    (.nslt (ra 9 2 3), 0), (.nsle (ra 9 3 2), 0xFFFFFFFF), (.bfx (ra 9 4 5), 3), (.shl (ra 9 2 4), 0),
    (.sar (ra 9 2 4), 0xFFFFFFFF)] : List (Instr × Word)), after (exec p.1 pairDemo) 9 0 = some p.2 := by decide

theorem test_triples_and_singles : ∀ p ∈ ([
    (.imad (ra3 4 3 3), 0x123456A9), (.sel (ra3 4 2 3), 7), (.bfi (ra3 4 3 5), 0x123456F8)] : List (Instr × Word)),
    after (exec p.1 pairDemo) 4 0 = some p.2 := by decide

theorem test_singles : ∀ p ∈ ([
    (.mov (rb 9 2), 0x80000005), (.not (rb 9 2), 0x7FFFFFFA), (.ineg (rb 9 2), 0x7FFFFFFB), (.iabs (rb 9 2), 0x7FFFFFFB),
    (.popc (rb 9 2), 3), (.clz (rb 9 3), 29), (.brev (rb 9 2), 0xA0000001), (.voteany (rb 9 3), 0xFFFFFFFF),
    (.voteall (rb 9 4), 0)] : List (Instr × Word)),
    after (exec p.1 pairDemo) 9 0 = some p.2 := by decide

theorem test_immediates : ∀ p ∈ ([
    (.iaddi { u := false, d := 9, a := 3, imm := 0xFFF }, 6), (.andi { u := false, d := 9, a := 4, imm := 0x0FF }, 0x78),
    (.ori { u := false, d := 9, a := 3, imm := 0x800 }, 0xFFFFF807), (.xori { u := false, d := 9, a := 3, imm := 0xFFF }, 0xFFFFFFF8),
    (.shli { u := false, d := 9, a := 3, imm := 31 }, 0x80000000), (.shri { u := false, d := 9, a := 2, imm := 31 }, 1),
    (.sari { u := false, d := 9, a := 2, imm := 31 }, 0xFFFFFFFF), (.islti { u := false, d := 9, a := 2, imm := 0x800 }, 0xFFFFFFFF),
    (.li { u := false, d := 9, h := false, imm := 0x1FFFF }, 0xFFFFFFFF)] : List (Instr × Word)), after (exec p.1 pairDemo) 9 0 = some p.2 := by decide

/-- Saturation clamps and sets SAT (R91). -/
theorem test_saturation : (let s := withMd pairDemo 0x0000050000004000
    after (exec (.isub (ra 9 2 3)) s) 9 0 = some 0x80000000 ∧ srAfter (exec (.isub (ra 9 2 3)) s) = some flSAT) := by decide

/-- PERM takes any lane; SLIDE takes the element below, and an inactive lane keeps its value (R98, R104). -/
theorem test_lanes : (let s := withReg (reg demo 3 41) 2 fun l => BitVec.ofNat 32 (100 + l)
    after (exec (.perm (ra 9 2 3)) s) 9 7 = some 141
    ∧ after (exec (.slide { u := false, d := ⟨false, 9⟩, a := ⟨false, 2, 0⟩, up := true, fill := .edge, k := 3 }) s) 9 7 = some 104
    ∧ after (exec (.slide { u := false, d := ⟨false, 9⟩, a := ⟨false, 2, 0⟩, up := true, fill := .edge, k := 3 }) s) 9 1 = some 100
    ∧ after (exec (.mov (rb 3 2)) (oneLane s)) 3 1 = some 41) := by decide

/-- BALLOT fills a pair; LI with `h` keeps the low 15 bits of d (R101, R105). -/
theorem test_ballot_and_li : after (exec (.ballot (rb 10 3)) pairDemo) 10 0 = some 1
    ∧ after (exec (.ballot (rb 10 3)) pairDemo) 11 0 = some 0
    ∧ after (exec (.li { u := false, d := 4, h := true, imm := 0x1FFFF }) pairDemo) 4 0 = some 0xFFFFD678 := by decide

theorem test_nnz : after (exec (.nnz (rb 9 4)) (withMd pairDemo 0x0000050000000008)) 9 0 = some 4 := by decide

/-! ### Typed arithmetic: results worked out by hand (R108 to R138) -/

/-- v2 = 1.0, v3 = 2.0, v4 = 4.0, v5 = NaN, v6 = -2.5 under MD.TYPE f32. -/
def floats : State :=
  withMd (reg (reg (reg (reg (reg (oneLane demo) 2 0x3F800000) 3 0x40000000) 4 0x40800000) 5 0x7FC00000) 6 0xC0200000) 0x0000050000000002

theorem test_float_pairs : ∀ p ∈ ([
    (.add (ra 9 2 3), 0x40400000), (.sub (ra 9 2 3), 0xBF800000), (.mul (ra 9 3 4), 0x41000000), (.min (ra 9 2 5), 0x3F800000),
    (.max (ra 9 2 3), 0x40000000), (.ceq (ra 9 2 2), 0xFFFFFFFF), (.cne (ra 9 2 5), 0xFFFFFFFF), (.clt (ra 9 3 2), 0),
    (.cle (ra 9 2 2), 0xFFFFFFFF), (.cun (ra 9 2 5), 0xFFFFFFFF)] : List (Instr × Word)),
    after (exec p.1 floats) 9 0 = some p.2 := by decide

theorem test_float_fused : ∀ p ∈ ([
    (.fma (ra3 4 2 3), 0x40C00000), (.fms (ra3 4 2 3), 0xC0000000), (.fnma (ra3 4 2 3), 0x40000000)] : List (Instr × Word)),
    after (exec p.1 floats) 4 0 = some p.2 := by decide

theorem test_float_singles : ∀ p ∈ ([
    (.abs (rb 9 6), 0x40200000), (.neg (rb 9 6), 0x40200000), (.rndi (rb 9 6), 0xC0000000), (.fract (rb 9 6), 0x3F000000),
    (.satp (rb 9 6), 0), (.satp (rb 9 3), 0x3F800000), (.cvt ⟨false, ⟨false, 9⟩, ⟨false, 6, 0⟩, 0⟩, 0xFFFFFFFE),
    (.sqrt ⟨false, ⟨false, 9⟩, ⟨false, 4, 0⟩, 0⟩, 0x40000000)] : List (Instr × Word)),
    after (exec p.1 floats) 9 0 = some p.2 := by decide

/-- Four unsigned bytes: a sum wraps in each byte, or clamps under SAT; DOT4 adds into d; RSHR rounds half up and packs (R111 to R116). -/
theorem test_bytes : (let s := withMd (reg (reg (reg (oneLane demo) 2 0xFF010203) 3 0x02020202) 4 100) 0x0000050000000008
    after (exec (.add (ra 9 2 3)) s) 9 0 = some 0x01030405
    ∧ after (exec (.add (ra 9 2 3)) (withMd s 0x0000050000004008)) 9 0 = some 0xFF030405
    ∧ after (exec (.dot4 (ra3 4 2 3)) s) 4 0 = some 622
    ∧ after (exec (.rshr (ra 9 4 3)) (reg (reg (reg (reg s 3 1) 5 7) 6 0xFFFFFFFE) 7 1000)) 9 0 = some 0xFF000432) := by decide

/-- DOT2 of two pairs of signed halves (R115). -/
theorem test_dot2 : after (exec (.dot2 (ra3 4 2 3)) (withMd (reg (reg (reg (oneLane demo) 2 0xFFFF0003) 3 0x00050007) 4 10)
    0x0000050000000005)) 4 0 = some 26 := by decide

/-- Moments with variance 0 (R133 to R138): sums, products, scaling and collapses are those of the means. -/
theorem test_moments : (let s := reg (reg (reg (reg floats 2 0x40000000) 3 0) 4 0x40400000) 5 0
    after (exec (.madd ⟨false, 8, ⟨2, 0⟩, ⟨4, false⟩⟩) s) 8 0 = some 0x40A00000
    ∧ after (exec (.msub ⟨false, 8, ⟨2, 0⟩, ⟨4, false⟩⟩) s) 8 0 = some 0xBF800000
    ∧ after (exec (.mmul ⟨false, 8, ⟨2, 0⟩, ⟨4, false⟩⟩) s) 8 0 = some 0x40C00000
    ∧ after (exec (.mscl ⟨false, 8, ⟨2, 0⟩, ⟨false, 4, false⟩⟩) s) 8 0 = some 0x40C00000
    ∧ after (exec (.mcollMean ⟨false, 8, ⟨4, 0⟩⟩) s) 8 0 = some 0x40400000
    ∧ after (exec (.mcollVar ⟨false, 8, ⟨4, 0⟩⟩) s) 8 0 = some 0
    ∧ after (exec (.mcollStd ⟨false, 8, ⟨4, 0⟩⟩) s) 8 0 = some 0
    ∧ after (exec (.mcollUcb ⟨false, 8, ⟨4, 0⟩, 2⟩) s) 8 0 = some 0x40400000
    ∧ after (exec (.mrelu ⟨false, 8, ⟨2, 0⟩, 0⟩) s) 8 0 = some 0x40000000) := by decide

/-! ### Witnesses: states and operands that meet the hypotheses of the statements on vector instructions -/

/-- What readiness asks, as one question that can be decided. -/
def ready (s : State) (o : VecOp) : Bool :=
  s.vecOk o && !s.vecChanBad o && decide (s.active ≠ 0) && s.present (s.gather o.srcs)
    && s.roomFor (s.gather o.srcs) o.dst o.dwords && !o.mvar (lanesUsed o.u s.active) (s.gather o.srcs).vals
    && o.srcs.all fun x => (s.srcBroken (lanesUsed o.u s.active) x).isNone

theorem ready_sound {s : State} {o : VecOp} (h : ready s o = true) : VecReady s o := by
  simp only [ready, Bool.and_eq_true, Bool.not_eq_true', decide_eq_true_eq, List.all_eq_true, Option.isNone_iff_eq_none] at h
  obtain ⟨⟨⟨⟨⟨⟨a, b⟩, c⟩, d⟩, e⟩, f⟩, g⟩ := h
  exact ⟨a, b, c, d, e, f, g⟩

theorem all_ready {α : Type} {l : List α} {s : State} {o : α → VecOp} (h : (l.all fun p => ready s (o p)) = true) :
    ∀ p ∈ l, VecReady s (o p) := fun p hp => ready_sound (List.all_eq_true.1 h p hp)

/-- The state of a street with two entries in the queue of its channel 5. -/
def chanDemo : State :=
  { pairDemo with
    st := { pairDemo.st with chans := pairDemo.st.chans.setIfInBounds 5 (some 0) }
    blk := { pairDemo.blk with queues := pairDemo.blk.queues.setIfInBounds 0 { entries := [SVec.splat 3, SVec.splat 4] } } }

/-- Format A with two pops of channel 5, pushing to it. -/
def raChan : FA := { u := false, d := ⟨true, 5⟩, a := ⟨true, 5, 2⟩, b := ⟨true, 5, true⟩ }

theorem witness_integerPairs : (∀ p ∈ integerPairs, VecReady pairDemo (vecA (ra 9 2 3) (p.2 (mdSat pairDemo.st.md))))
    ∧ ∀ p ∈ integerPairs, VecReady chanDemo (vecA raChan (p.2 (mdSat chanDemo.st.md))) :=
  ⟨all_ready (by decide), all_ready (by decide)⟩

theorem witness_compares : ∀ p ∈ integerCompares ++ integerShifts, VecReady pairDemo (vecA (ra 9 2 3) p.2) :=
  all_ready (by decide)

theorem witness_triples : ∀ p ∈ integerTriples, VecReady pairDemo (vecA3 (ra3 4 2 3) (p.2 (mdSat pairDemo.st.md))) :=
  all_ready (by decide)

theorem witness_singles : ∀ p ∈ integerSingles, VecReady pairDemo (vecB (rb 9 3) (p.2 (mdSat pairDemo.st.md))) :=
  all_ready (by decide)

theorem witness_immediates : (∀ p ∈ immediates,
      VecReady pairDemo (vecK ⟨false, 9, 3, 0⟩ fun a => p.2 (mdSat pairDemo.st.md) a ((0 : BitVec 12).signExtend 32)))
    ∧ VecReady pairDemo (liOp ⟨false, 4, true, 1⟩) ∧ VecReady pairDemo (liOp ⟨false, 63, false, 1⟩) :=
  ⟨all_ready (by decide), ready_sound (by decide), ready_sound (by decide)⟩

theorem witness_lanes : VecReady demo (permOp (ra 9 2 3)) ∧ VecReady demo (voteOp (rb 9 2) false)
    ∧ VecReady demo (voteOp (rb 9 2) true) ∧ VecReady demo (ballotOp (rb 10 2))
    ∧ VecReady demo (nnzOp (rb 9 2) (mdType demo.st.md)) :=
  ⟨ready_sound (by decide), ready_sound (by decide), ready_sound (by decide), ready_sound (by decide), ready_sound (by decide)⟩

theorem witness_slide : VecReady demo (slideOp ⟨false, ⟨false, 9⟩, ⟨false, 2, 0⟩, true, .old, 31⟩ (mdType demo.st.md)) :=
  ready_sound (by decide)

/-- MD with TYPE f32 (code 2) and with TYPE n8 (code 8). -/
def mdF32 : Addr := 0x0000050000000002
@[inherit_doc mdF32] def mdN8 : Addr := 0x0000050000000008

theorem witness_typed_pairs : (∀ p ∈ typedPairs, VecReady (withMd pairDemo mdF32) (pairOp (ra 9 2 3) mdF32 p.2.1 p.2.2))
    ∧ ∀ p ∈ typedTriples, VecReady (withMd pairDemo mdN8) (fusedOp (ra3 4 2 3) mdN8 p.2.1 p.2.2) :=
  ⟨all_ready (by decide), all_ready (by decide)⟩

theorem witness_typed_compares : (∀ g, VecReady (withMd pairDemo mdF32) (extremeOp (ra 9 2 3) mdF32 g))
    ∧ (∀ p ∈ typedCompares, VecReady (withMd pairDemo mdF32)
        (typedA (ra 9 2 3) 2 (decide (2 ≤ 11)) (compareElem mdF32 p.2.1 p.2.2.1 p.2.2.2)))
    ∧ VecReady (withMd pairDemo mdF32) (typedA (ra 9 2 3) 2 (tyFmt 2).isSome (compareElem mdF32 true false fun _ => false)) :=
  ⟨fun g => ready_sound (by revert g; decide), all_ready (by decide), ready_sound (by decide)⟩

theorem witness_dots : VecReady (withMd pairDemo 0x0000050000000003) (dotProduct (ra3 4 2 3) 0x0000050000000003 [3, 4, 5, 6])
    ∧ VecReady (withMd pairDemo mdN8) (dotProduct (ra3 4 2 3) mdN8 [7, 8])
    ∧ VecReady (withMd pairDemo mdN8) (rshrOp (ra 9 4 3) 8) := ⟨ready_sound (by decide), ready_sound (by decide), ready_sound (by decide)⟩

theorem witness_typed_singles : (∀ p ∈ typedSingles, VecReady (withMd pairDemo mdF32)
      (typedB (rb 9 2) 2 (decide (2 ≤ 11)) fun x =>
        match tyFmt 2 with | some f => p.2.2 f x | none => p.2.1 2 false (elemInt 2 x)))
    ∧ (∀ p ∈ floatSingles, VecReady (withMd pairDemo mdF32) (typedB (rb 9 2) 2 true (p.2 f32 0 false)))
    ∧ VecReady (withMd pairDemo mdF32) (cvtOp ⟨false, ⟨false, 10⟩, ⟨false, 2, 0⟩, 9⟩ mdF32) :=
  ⟨all_ready (by decide), all_ready (by decide), ready_sound (by decide)⟩

theorem witness_rounding : f32.num 0x3F800001 = .fin false 8388609 (-23) ∧ (0x3F800001 : Nat) < 2 ^ f32.width := by decide

theorem witness_xcend : ∀ p ∈ xcendList, VecReady (withMd pairDemo mdF32) (curveOp ⟨false, ⟨false, 9⟩, ⟨false, 2, 0⟩, 5⟩ mdF32 p.2) :=
  all_ready (by decide)

theorem witness_moments :
    (∀ p ∈ momnlList, VecReady demo (unitOp ⟨false, 8, ⟨2, 0⟩, 1⟩ demo.st.md p.2))
    ∧ (∀ p ∈ momentPairs, VecReady demo (jointOp ⟨false, 8, ⟨2, 0⟩, ⟨4, false⟩⟩ demo.st.md p.2))
    ∧ VecReady demo (msclOp ⟨false, 8, ⟨2, 0⟩, ⟨false, 5, false⟩⟩ demo.st.md)
    ∧ (∀ p ∈ collapses, VecReady demo (collapseOp false 8 ⟨2, 0⟩ none demo.st.md p.2))
    ∧ VecReady demo (collapseOp false 8 ⟨2, 0⟩ (some 5) demo.st.md upperBound) :=
  ⟨all_ready (by decide), all_ready (by decide), ready_sound (by decide), all_ready (by decide),
    ready_sound (by decide)⟩

/-! ### Witnesses: the step, control flow, modes and special registers -/

/-- A NOP placed where the next step fetches it. -/
def placed : State := State.reset.withFetchWord 32 0xD6000005

/-- The state in which the selected entry of `placed` issues. -/
def placedChosen : State := { placed with agenda := [], st := placed.st.choose 0 false }

theorem witness_turns : Turns placed [] 0 false := by
  refine ⟨?_, ?_, ?_, ?_, ?_, ?_, ?_, ?_, ?_⟩ <;> decide

theorem witness_fetch :
    translate placedChosen placedChosen.st.core placedChosen.blk.ctx placedChosen.st.path.pc.toNat .fetch
        = .ok 0x40000 (0xF8 * 2 ^ 56 + 256) 0x8408 0x40000 0x40000
    ∧ pteFMT (0xF8 * 2 ^ 56 + 256) = 0
    ∧ placedChosen.badSector 0x40000 4 false = none
    ∧ decodeBytes (placedChosen.mem.readN 0x40000 4) = .ok (.nop false, [])
    ∧ (Instr.nop false).wf = true := by decide

/-- Code on a page of half-precision elements. -/
def coded : State := { placed with mem := placed.mem.putNat 0x8408 8 (0xF8 * 2 ^ 56 + 8 * 2 ^ 52 + 256) }

theorem witness_formatted_code : Turns coded [] 0 false
    ∧ translate coded coded.st.core coded.blk.ctx 0x40000 .fetch = .ok 0x40000 (0xF8 * 2 ^ 56 + 8 * 2 ^ 52 + 256) 0x8408 0x40000 0x40000 := by
  refine ⟨⟨?_, ?_, ?_, ?_, ?_, ?_, ?_, ?_, ?_⟩, ?_⟩ <;> decide

theorem test_step_runs_placed_word : nextHas (step placed) (fun t => decide ((t.st.paths.get 0).pc = 0x40004)) = true := by decide

theorem witness_step_memory : placed.mem.wf = true ∧ nextHas (step placed) (fun t => t.mem.wf) = true := by decide

theorem witness_encode : (Instr.bkpt ⟨true, 0xFFFFF⟩).wf = true ∧ encode (.bkpt ⟨true, 0xFFFFF⟩) = some 0xD92FFFFF := by decide

/-- An entry with what selection looks at. -/
def entry (pc : Addr) (depth age grant : Nat) : PathEntry :=
  { pc := pc, mask := 1, depth := depth, reason := .branch, age := age, grant := grant, wait := .none }

/-- Each clause of the selection rule has its case (R58): a grant; an AGE of 256; the deeper entry, then the lower PC. -/
theorem test_selection : demo.st.passOver = none
    ∧ demo.st.selectFrom [(0, entry 0 9 300 0), (1, entry 4 0 0 1)] = some (1, false)
    ∧ demo.st.selectFrom [(0, entry 0 9 255 0), (1, entry 4 0 256 0), (2, entry 0 1 256 0)] = some (2, true)
    ∧ demo.st.selectFrom [(0, entry 8 1 255 0), (1, entry 4 2 0 0), (2, entry 0 2 0 0)] = some (2, false) := by decide

theorem witness_operands : chanDemo.st.windows = [] ∧ chanDemo.queueOf 5 = some 0
    ∧ chanDemo.queue 0 = SVec.splat 3 :: [SVec.splat 4] := by decide

/-- A street whose lane 0 alone is on the path, at DEPTH 1 with a frame of lane 0 at FSTK, a handler and a save area. -/
def ctl : State :=
  let s := oneLane (pairAt demo 2 0x40100)
  { s with
    st := { s.st with
      fstk := 0x50000, thand := 0x48000, tsave := 0x60000
      paths := s.st.paths.set 0 { s.st.path with depth := 1 } }
    mem := s.mem.putNat 0x50000 8 0x40044 }

/-- Every lane on the path, with the targets of its lanes in v2 and v3: the text's next word, and one further on. -/
def forked : State := withReg demo 2 fun l => BitVec.ofNat 32 (0x40004 + 4 * (l % 2))

/-- A table with no free entry. -/
def crowded : State :=
  { forked with st := { forked.st with paths := Vector.ofFn fun i => if i.val = 0 then forked.st.path else entry 0x40000 0 0 0 } }

theorem witness_branches : (8 : RegNo).toNat < forked.blk.hdr.regs ∧ forked.upsets = [] ∧ forked.st.path.mask ≠ 0
    ∧ forked.st.path.reason = .branch ∧ crowded.st.path.mask ≠ 0 ∧ crowded.st.path.reason = .branch := by decide

theorem witness_room_brp : Room forked (brpTarget ⟨false, 2, true, 4⟩ forked) ∧ Room forked (pairTarget ⟨false, 2⟩ forked) := by
  unfold Room wayCount; decide

theorem witness_no_room : ¬ Room crowded (pairTarget ⟨false, 2⟩ crowded)
    ∧ ¬ Room crowded (brpTarget ⟨false, 2, true, 4⟩ { crowded with st := (withReg crowded 2 fun l => BitVec.ofNat 32 l).st }) := by
  unfold Room wayCount; decide

theorem witness_branch_targets : (∀ l, forked.st.path.mask.has l = true → (pairTarget ⟨false, 2⟩ forked l).toNat % 4 = 0)
    ∧ (pairTarget ⟨false, 2⟩ (withReg demo 2 fun l => BitVec.ofNat 32 (0x40006 + 4 * (l % 2)))
        0).toNat % 4 ≠ 0 := by decide

/-- BRX splits at its targets: the lowest keeps the entry, the other takes the first free index (R61, R144). -/
theorem test_brx_splits : nextHas (exec (.brx ⟨false, 2⟩) forked) (fun t =>
    (t.st.paths.get 0).pc == 0x40004 && (t.st.paths.get 0).mask == 0x5555555555555555
      && (t.st.paths.get 1).pc == 0x40008 && (t.st.paths.get 1).mask == 0xAAAAAAAAAAAAAAAA) = true := by decide

/-- A branch offset counts words from the next instruction, and is signed (R142, R143). -/
theorem test_bra : nextHas (exec (.bra ⟨false, 0xFFFFFE⟩) demo) (fun t => (t.st.paths.get 0).pc == 0x3FFFC) = true
    ∧ nextHas (exec (.brp ⟨true, 3, false, 2⟩) demo) (fun t => (t.st.paths.get 0).pc == 0x4000C) = true := by decide

/-- What a quiet machine asks, as one question that can be decided. -/
def quiet (s : State) : Bool :=
  s.st.pair.isNone && s.upsets.isEmpty && s.poison.isEmpty && (s.blk.ctx.watch.all fun w => !bit w.1 63)
    && decide (s.blk.ctx.crtcount = 0) && (s.core s.st.core).lookaside.isEmpty && (s.cores.all fun c => c.monitors.isEmpty)
    && (s.dies.all fun d => d.unitMons.isEmpty) && s.bars.isEmpty && s.mreds.isEmpty && s.remote.isEmpty

theorem quiet_sound {s : State} (h : quiet s = true) : Quiet s := by
  simp only [quiet, Bool.and_eq_true, Bool.not_eq_true', decide_eq_true_eq, List.all_eq_true, Option.isNone_iff_eq_none,
    List.isEmpty_iff] at h
  obtain ⟨⟨⟨⟨⟨⟨⟨⟨⟨⟨a, b⟩, c⟩, d⟩, e⟩, f⟩, g⟩, i⟩, j⟩, k⟩, l⟩ := h
  exact ⟨a, b, c, d, ⟨e, f⟩, ⟨g, i⟩, j, ⟨k, l⟩⟩

/-- Whether an address may be accessed on a page without format, at a physical address. -/
def isMapped (s : State) (acc : Acc) (va pa : Nat) : Bool :=
  match translate s s.st.core s.blk.ctx va acc with
  | .ok p pte _ _ _ => decide (p = pa) && decide (pteFMT pte = 0) && !pteRH pte && !s.foreign va p
  | _ => false

theorem mapped_sound {s : State} {acc : Acc} {va pa : Nat} (h : isMapped s acc va pa = true) : Mapped s acc va pa := by
  unfold isMapped at h
  split at h
  · rename_i p pte ea base size e
    simp only [Bool.and_eq_true, decide_eq_true_eq, Bool.not_eq_true'] at h
    obtain ⟨⟨⟨rfl, f⟩, g⟩, k⟩ := h
    exact ⟨pte, ea, base, size, e, f, g, k⟩
  · cases h

theorem no_counter {c : CtxDesc} (h : c.ptpoollen = 0) (a : Nat) : ¬ CounterByte c a := by
  rintro ⟨ea, ca, h1, -⟩
  unfold counterAddr at h1
  rw [h, if_neg (by simp)] at h1
  cases h1

/-- A path of lane 0 alone. -/
theorem lane0 {s : State} (h : s.st.path.mask = 1) {l : Lane} (k : s.st.path.mask.has l = true) : l = 0 := by
  rw [h] at k; revert k; revert l; decide

theorem witness_frame (acc : Acc) (h : isMapped ctl acc 0x50000 0x50000 = true) :
    FrameAt ctl acc 0 (fun _ => 0x50000) := by
  have m : ctl.st.path.mask = 1 := by decide
  refine ⟨fun l k => ?_, fun l k a b c => ?_, fun l i _ _ => no_counter (by decide) _⟩
  · rw [lane0 m k]; exact mapped_sound h
  · exact absurd ((lane0 m a).trans (lane0 m b).symm) c

theorem past_fresh {s : State} (h : (s.core s.st.core).past = []) : PastFresh s := by
  intro l x k
  simp [State.pastCopies, h] at k

/-- A core with no copies and no earlier states kept. -/
theorem l1_fresh {s : State} (h : (s.core s.st.core).past = []) (k : (s.core s.st.core).l1 = []) : L1Fresh s :=
  ⟨past_fresh h, by simp [k]⟩

theorem witness_return : Quiet ctl ∧ L1Fresh ctl ∧ ctl.st.holds = [] ∧ ctl.st.path.mask ≠ 0 ∧ ctl.st.path.reason = .branch
    ∧ 0 < ctl.st.path.depth ∧ ctl.st.tlevel = false ∧ FrameAt ctl .read (ctl.st.path.depth - 1) (fun _ => 0x50000)
    ∧ (BitVec.ofNat 64 (ctl.mem.nat 0x50000 8)).toNat % 4 = 0 := by
  refine ⟨quiet_sound (by decide), l1_fresh (by decide) (by decide), by decide, by decide, by decide, by decide, by decide,
    witness_frame .read (by decide), by decide⟩

theorem witness_return_room : Room ctl (fun _ => BitVec.ofNat 64 (ctl.mem.nat 0x50000 8)) := by unfold Room wayCount; decide

theorem witness_call : Quiet ctl ∧ ctl.st.path.depth < 65535 ∧ FrameAt { ctl with st := { ctl.st with fstk := 0x4FE00 } } .write 1
      (fun _ => 0x50000) ∧ Room ctl (pairTarget ⟨false, 2⟩ ctl)
    ∧ ∀ l, ctl.st.path.mask.has l = true → (pairTarget ⟨false, 2⟩ ctl l).toNat % 4 = 0 := by
  have m : ctl.st.path.mask = 1 := by decide
  refine ⟨quiet_sound (by decide), by decide, ⟨fun l k => ?_, fun l k a b c => ?_, fun l i _ _ => no_counter (by decide) _⟩,
    by unfold Room wayCount; decide, by decide⟩
  · rw [lane0 m k]; exact mapped_sound (by decide)
  · exact absurd ((lane0 m a).trans (lane0 m b).symm) c

/-- CALL stores PC + 4 at FSTK + 512 × DEPTH + 8 × lane, and RET takes it back (R145 to R147). -/
theorem test_call_and_ret :
    nextHas (exec (.call ⟨false, 7⟩) ctl) (fun t =>
      decide (t.mem.nat 0x50200 8 = 0x40004) && decide ((t.st.paths.get 0).pc = 0x40020) && decide ((t.st.paths.get 0).depth = 2))
      = true
    ∧ nextHas (exec (.ret false) ctl) (fun t =>
      decide ((t.st.paths.get 0).pc = 0x40044) && decide ((t.st.paths.get 0).depth = 0)) = true
    ∧ nextHas (exec (.callx ⟨false, 2⟩) ctl) (fun t =>
      decide (t.mem.nat 0x50200 8 = 0x40004) && decide ((t.st.paths.get 0).pc = 0x40100)) = true := by decide

/-- Another street of the block that goes on. -/
def neighbour : Street := { placedStreet 1 (mkSid 1 0 1) with slot := 1, sindex := 1 }

theorem witness_exit : demo.st.pair = none ∧ demo.st.holds = [] ∧ demo.colours = [] ∧ demo.st.clrw = [] ∧ demo.st.tlevel = false
    ∧ demo.st.life = .running ∧ demo.st.path.depth = 0 ∧ (∀ k, k ≠ demo.st.sel → (demo.st.paths.get k).reason = .free)
    ∧ (∃ x ∈ [neighbour], x.there = true ∧ x.block = demo.st.block ∧ x.over = false)
    ∧ ∃ k, k ≠ crowded.st.sel ∧ (crowded.st.paths.get k).reason ≠ .free := by decide

theorem witness_mode : modeFields[2]? = some (6, 8) ∧ mdAllowed (mdWith demo.st.md 6 8 0xC8) 64
    ∧ ¬ mdAllowed (mdWith demo.st.md 0 4 12) 64 ∧ ¬ mdAllowed (mdWith demo.st.md 6 8 0x48) 64 := by
  refine ⟨rfl, ?_, ?_, ?_⟩ <;> unfold mdAllowed <;> decide

/-- MODE writes with no lane active, too; an unlisted TYPE is ILLEGAL, which without a handler ends the street, and its block with it. -/
theorem test_mode : nextHas (exec (.mode ⟨2, 0xC8⟩) demo) (fun t => decide (t.st.md = 0x0000050000003200)) = true
    ∧ nextHas (exec (.mode ⟨0, 12⟩) demo) (fun t => t.st.life == .absent) = true := by decide

theorem witness_special : demo.st.windows = [] ∧ demo.active ≠ 0 ∧ (26 : BitVec 8).toNat ≤ 26 ∧ (63 : RegNo).toNat < demo.blk.hdr.regs
    ∧ (24 : BitVec 8).toNat ∈ writable ∧ demo.blk.ctx.user = true
    ∧ mdAllowed (specialPut demo.st 0x40000 (SVec.splat 0x40000) 24).md 64 := by
  refine ⟨by decide, by decide, by decide, by decide, by decide, by decide, ?_⟩; unfold mdAllowed; decide

theorem witness_special_refused : ¬ mdAllowed (specialPut demo.st 12 (SVec.splat 12) 2).md 64 := by unfold mdAllowed; decide

/-- SREAD of LANE and MASK; SWRITE of SR keeps its seven flags; a privileged register is PRIV to a user (R153). -/
theorem test_special_registers :
    after (exec (.sread ⟨false, 9, 0⟩) demo) 9 63 = some 63 ∧ after (exec (.sread ⟨false, 9, 4⟩) demo) 9 5 = some 0xFFFFFFFF
    ∧ srAfter (exec (.swrite ⟨false, ⟨false, 2, 0⟩, 1⟩) (reg demo 2 0xFFFFFFFF)) = some 0x7F
    ∧ nextHas (exec (.swrite ⟨false, ⟨false, 2, 0⟩, 16⟩) demo) (fun t => t.st.life == .absent) = true
    ∧ nextHas (exec (.swrite ⟨false, ⟨false, 2, 0⟩, 16⟩) { demo with blk := { demo.blk with ctx := { demo.blk.ctx with user := false } } })
        (fun t => decide (t.st.life = .running)) = true := by decide

theorem witness_channels : (5 : RegNo).toNat < chanDemo.blk.hdr.chans ∧ (9 : RegNo).toNat < chanDemo.blk.hdr.regs
    ∧ chanDemo.st.windows = [] ∧ chanDemo.upsets = [] ∧ chanDemo.active ≠ 0
    ∧ ({ chanDemo.blk with hdr := { chanDemo.blk.hdr with chans := 5 } }).hdr.chans ≤ (5 : RegNo).toNat := by decide

/-- CHSTAT of a bound channel with two entries; CHMAP with bit 31 unbinds (R207, R208). -/
theorem test_channels : after (exec (.chstat ⟨false, 5, 9⟩) chanDemo) 9 0 = some 0x80000200
    ∧ nextHas (exec (.chmap ⟨false, 5, 9⟩) (reg chanDemo 9 0x80000000)) (fun t => t.st.chans.get 5 == none) = true
    ∧ nextHas (exec (.chmap ⟨false, 6, 9⟩) (reg chanDemo 9 0x13)) (fun t => t.st.chans.get 6 == some 3) = true := by decide

/-- IADD of two pops takes the head and the entry behind it, and pushes (R25). -/
theorem test_channel_pops : nextHas (exec (.iadd raChan) chanDemo) (fun t =>
    match t.queue 0 with | [v] => v.lane 0 == 7 && v.lane 1 == 0 | _ => false) = true := by decide


/-- A street in focus whose turn has come with no entry to run. -/
theorem witness_nothing_runs : let s : State := { demo with agenda := [.issue demo.st.sid], st := demo.st.onPath demo.st.sel fun e => { e with reason := .wait } }
    s.agenda = [.issue s.st.sid] ∧ s.st.there = true ∧ s.mayRun s.blk s.st = [] ∧ s.st.haltDue = false := by decide
/-! ### Witnesses: traps, stops, colours and global memory -/

theorem witness_traps : Quiet ctl ∧ ctl.st.tlevel = false ∧ ctl.st.thand ≠ 0 ∧ Mapped ctl .write ctl.st.tsave.toNat 0x60000
    ∧ ctl.st.ctxflags.getLsbD 1 = false ∧ ctl.blk.ctx.user = true :=
  ⟨quiet_sound (by decide), by decide, by decide, mapped_sound (by decide), by decide, by decide⟩

/-- TRAP saves PC, MASK, CAUSE and CODE and goes to the handler one DEPTH deeper (R64, R158). -/
theorem test_trap : nextHas (exec (.trap ⟨false, 0x12345⟩) ctl) (fun t =>
    decide (t.mem.nat 0x60000 8 = 0x40000) && decide (t.mem.nat 0x60008 8 = 1) && decide (t.mem.nat 0x60010 4 = 16)
      && decide (t.mem.nat 0x60014 4 = 0x12345) && decide (t.mem.nat 0x60050 2 = 1) && t.st.tlevel
      && t.st.path.pc == 0x48000 && t.st.path.depth == 2) = true := by decide

/-- The street at trap level 1 with a save area that resumes lane 0, and a debugger attached in `dbg`. -/
def handler : State :=
  { ctl with
    st := { ctl.st with
      tlevel := true, trap := some { pidx := 0, depth := 3, mask := 1, cause := 16, faddr := 0, held := [] } }
    mem := (ctl.mem.putNat 0x60000 8 0x40080).putNat 0x60008 8 1 }
@[inherit_doc handler] def dbg : State := { ctl with st := { ctl.st with ctxflags := 2 } }

theorem witness_tret : Quiet handler ∧ handler.st.tlevel = true
    ∧ handler.st.trap = some { pidx := 0, depth := 3, mask := 1, cause := 16, faddr := 0, held := [] }
    ∧ Mapped handler .read handler.st.tsave.toNat 0x60000 ∧ (∀ i, i < 16 → ¬ CounterByte handler.blk.ctx (0x60000 + i))
    ∧ handler.st.holds = [] ∧ handler.colours = [] ∧ handler.st.clrw = [] ∧ handler.mem.nat 0x60008 8 ≠ 0
    ∧ (∀ x ∈ handler.st :: handler.streets, ∀ i, (x.paths.get i).reason ≠ .wait)
    ∧ (∀ e ∈ handler.blk.plq, e.sid = handler.st.sid → e.rec_.isSome = true)
    ∧ (BitVec.ofNat 64 (handler.mem.nat 0x60008 8) : Mask) &&& ~~~1 = 0 :=
  ⟨quiet_sound (by decide), by decide, by decide, mapped_sound (by decide), fun _ _ => no_counter (by decide) _, by decide, by decide,
    by decide, by decide, by decide, by decide, by decide⟩

/-- TRET without `.retry` resumes after the instruction that trapped, with it at that instruction (R159). -/
theorem test_tret : nextHas (exec (.tret false false) handler) (fun t =>
      t.st.path.pc == 0x40084 && t.st.path.depth == 3 && !t.st.tlevel) = true
    ∧ nextHas (exec (.tret false true) handler) (fun t => t.st.path.pc == 0x40080) = true := by decide

theorem witness_stops : StopRoom dbg ∧ (∀ k, k ≠ dbg.st.sel → (dbg.st.paths.get k).reason = .free)
    ∧ dbg.st.path.reason = .branch ∧ (∀ k, dbg.st.isHeld k = false) ∧ dbg.st.passOver = none ∧ dbg.st.ctxflags.getLsbD 1 = true
    ∧ StopRoom handler ∧ (∀ k, handler.st.isHeld k = false) :=
  ⟨by unfold StopRoom NoMonitors; decide, by decide, by decide, by decide, by decide, by decide,
    by unfold StopRoom NoMonitors; decide, by decide⟩

/-- The same machine in a context that may run HALT. -/
def priv (s : State) : State := { s with blk := { s.blk with ctx := { s.blk.ctx with user := false } } }

theorem test_halt : nextHas (exec (.halt false false) (priv ctl)) (fun t => t.st.life == .halted && t.st.path.pc == 0x40004) = true
    ∧ nextHas (exec (.halt false false) (priv handler)) (fun t => t.st.haltReq && t.st.life == .running) = true
    ∧ nextHas (exec (.bkpt ⟨false, 9⟩) dbg) (fun t => t.st.life == .debugStop && decide (t.mem.nat 32 4 = 9)) = true := by decide

/-- A trap with no handler beside another street of the block. -/
def lone : State := { demo with streets := [neighbour] }

theorem witness_contained : Quiet lone ∧ StopRoom lone ∧ lone.st.thand = 0 ∧ lone.st.life = .running
    ∧ (∀ x ∈ lone.streets, x.there = true → x.sid ≠ lone.st.sid)
    ∧ (∃ x ∈ lone.streets, x.there = true ∧ x.block = lone.st.block ∧ x.over = false) :=
  ⟨quiet_sound (by decide), by unfold StopRoom NoMonitors; decide, by decide, by decide, by decide, by decide⟩

/-- The trace of core 0 is on, with marks. -/
def traced : State := { demo with cores := [{ Core.zero 0 with tr := { Trace.zero with en := true, marks := true } }] }

theorem witness_trace : (let tr := (traced.core traced.st.core).tr
    tr.en = true ∧ tr.marks = true ∧ tr.lost = 0 ∧ tr.time = traced.clock ∧ tr.since < 255 ∧ tr.wrptr < 16384 ∧ tr.rdptr < 16384
      ∧ 4 ≤ (tr.rdptr + 32767 - tr.wrptr) % 16384 ∧ traced.st.slot < 16)
    ∧ (demo.core demo.st.core).tr.en = false := by decide

/-- One region of colour 7 from 0x50000, 256 bytes long, in a table at 0x58000 (R210). -/
def tinted : State :=
  let s := pairAt (oneLane demo) 2 0x50080
  let m := (s.mem.putNat 0x58000 8 0x50000).putNat 0x58008 8 (256 + 7 * 2 ^ 48)
  let m := (m.putNat 0x5A038 8 0x58000).putNat 0x5A040 4 1
  { s with
    mem := m
    blk := { s.blk with ctx := { s.blk.ctx with crtbase := 0x58000, crtcount := 1, desc := 0x5A000 } } }

theorem tinted_table : TableAt tinted tinted.blk.ctx fun _ => 0x58000 := by
  intro i h
  have h : i < 1 := h
  have e : i = 0 := by omega
  subst e
  exact ⟨0xF8 * 2 ^ 56 + 256, 0x8408, 0x40000, 0x40000, by decide⟩

theorem tinted_valid : TableValid tinted.mem (fun _ => 0x58000) tinted.blk.ctx.crtcount := by
  refine ⟨fun i h => ?_, fun i h => ?_⟩
  · have h : i < 1 := h
    have e : i = 0 := by omega
    subst e; decide
  · have h : i + 1 < 1 := h
    omega

theorem witness_table : (tinted.core tinted.st.core).lookaside = [] ∧ tinted.blk.ctx.crtcount ≤ 65536
    ∧ TableAt tinted tinted.blk.ctx (fun _ => 0x58000) ∧ TableValid tinted.mem (fun _ => 0x58000) tinted.blk.ctx.crtcount
    ∧ (tableEntry tinted.mem (fun _ => 0x58000) 0) = ⟨0x50000, 256, 7⟩ :=
  ⟨by decide, by decide, tinted_table, tinted_valid, by decide⟩

theorem witness_sync : tinted.st.pair = none ∧ tinted.mreds = [] ∧ hbmHas (tinted.blk.ctx.desc + 0x38) = true
    ∧ tableNow tinted = tinted.blk.ctx
    ∧ ¬ TableValid (tinted.mem.putNat 0x58008 8 (256 + 7 * 2 ^ 48 + 1)) (fun _ => 0x58000) 1 :=
  ⟨by decide, by decide, by decide, by decide, fun h => absurd (h.1 0 (by decide)).2.2.1 (by decide)⟩

/-- The first and the last byte of a region have its colour, the next has none (R212). -/
theorem test_lookup : lookColour tinted 0 tinted.blk.ctx 0x50000 = .colour (some ⟨1, 0x50000, 256, 7⟩)
    ∧ lookColour tinted 0 tinted.blk.ctx 0x500FF = .colour (some ⟨1, 0x50000, 256, 7⟩)
    ∧ lookColour tinted 0 tinted.blk.ctx 0x50100 = .colour none := by decide

/-- Colour 7 held by lane 0 at DEPTH 0, and colour 7 held by another street with lane 0 waiting and one more asleep. -/
def holding : State :=
  { tinted with
    st := { tinted.st with holds := [⟨7, 0, 0⟩] }
    colours := [⟨1, 7, some (tinted.st.sid, 0, 0), false, [], []⟩] }
@[inherit_doc holding] def contended : State :=
  { tinted with
    streets := [neighbour]
    colours := [⟨1, 7, some (mkSid 1 0 1, 5, 2), false, [⟨0, tinted.st.sid, 0, 4, false⟩], [⟨1, mkSid 1 0 1, 6, 1, true⟩]⟩] }

theorem witness_handover : (7 : Nat) ≠ 0 ∧ tinted.st.holdsColour 0 7 = false ∧ (tinted.colour 1 7).owner = none
    ∧ (contended.colour 1 7).owner = some (mkSid 1 0 1, 5, 2)
    ∧ (∃ w ∈ (contended.colour 1 7).fifo, w.sid = contended.st.sid ∧ w.lane = 0)
    ∧ ((contended.street? (mkSid 1 0 1)).bind (·.pair)) = none ∧ (contended.colour 1 7).fifo ≠ [] := by decide

theorem colour_ready {s : State} {a : RegNo} (h : s.st.pair = none ∧ (a.toNat % 2 = 0 ∧ a.toNat + 2 ≤ s.blk.hdr.regs)
    ∧ s.active ≠ 0 ∧ s.upsets = []) (m : NoMonitors s) : ColourReady s a := ⟨h.1, h.2.1, h.2.2.1, h.2.2.2, m⟩

theorem witness_colour_ready : ColourReady tinted 2 ∧ ColourReady holding 2 :=
  ⟨colour_ready (by decide) (by unfold NoMonitors; decide), colour_ready (by decide) (by unfold NoMonitors; decide)⟩

theorem witness_looked : (∃ v, Looked? tinted false 2 [(0, 0x50080, 7)] v) ∧ ∃ v, Looked? holding false 2 [(0, 0x50080, 7)] v :=
  ⟨⟨_, rfl⟩, ⟨_, rfl⟩⟩

theorem witness_clrwait : holding.st.path.reason = .branch ∧ holding.active = 1 <<< 0 ∧ holding.st.path.mask = 1 <<< 0
    ∧ holding.mreds = [] ∧ holding.remote = [] ∧ holding.st.ops = []
    ∧ (∀ k ∈ holding.colours, ∀ x ∈ k.fifo ++ k.sleep, x.kind = false) ∧ holding.st.clrw = []
    ∧ holdOf holding 0 7 = some ⟨7, 0, 0⟩ ∧ (holding.colour holding.blk.ctx.ctxid 7).fifo = [] ∧ holding.st.there = true
    ∧ (∀ x ∈ holding.streets, x.sid ≠ holding.st.sid) ∧ holdOf tinted 0 7 = none := by decide

/-- CLRQ.HELD and CLRQ.OWNER (R224); CLRWAIT of a colour the lane does not hold gives 1, of one it holds waits (R225). -/
theorem test_colour_queries : after (exec (.clrqHeld ⟨false, 8, 2⟩) holding) 8 0 = some 0xFFFFFFFF
    ∧ after (exec (.clrqOwner ⟨false, 8, 2⟩) holding) 9 0 = some 0x80000007
    ∧ after (exec (.clrqDepth ⟨false, 8, 2⟩) tinted) 8 0 = some 0xFFFFFFFF
    ∧ after (exec (.clrwait ⟨false, 8, 2, 0⟩) tinted) 8 0 = some 1
    ∧ nextHas (exec (.clrwait ⟨false, 8, 2, 0⟩) holding) (fun t => t.st.path.reason == .wait && t.st.holds == []) = true := by decide

/-- CLRNOTE.ONE moves the sleeper behind the waiter (R226); CLRCLEAN in a user context that may not is PRIV (R227). -/
theorem test_colour_notes : nextHas (exec (.clrnoteOne ⟨false, 2⟩) contended) (fun t =>
      (t.colour 1 7).sleep == [] && (t.colour 1 7).fifo.map (·.lane) == [0, 6]) = true
    ∧ nextHas (exec (.clrclean ⟨false, 2⟩) contended) (fun t => t.st.life == .contained) = true
    ∧ nextHas (exec (.clrsync false) tinted) (fun t => t.st.path.pc == 0x40004) = true := by decide

/-- A lane with an address in v2 and v3, and data in v4 to v7. -/
def memo : State :=
  let s := pairAt ctl 2 0x50010
  let s := reg (reg (reg (reg s 4 0x11223344) 5 0x55667788) 6 0x99AABBCC) 7 0xDDEEFF00
  { s with mem := s.mem.putNat 0x50010 8 0x8877665544332211 }

theorem used_memo : usedLanes memo false = [0] := by decide

theorem access_memo (acc : Acc) (n va pa : Nat) (hv : laneAddr memo false 2 0 = va) (ha : va % n = 0)
    (hm : isMapped memo acc va pa = true) : AccessReady memo false n acc (laneAddr memo false 2) fun _ => pa := by
  have e : ∀ l ∈ usedLanes memo false, l = 0 := by rw [used_memo]; simp
  refine ⟨quiet_sound (by decide), by decide, fun l h => ?_, fun l h => ?_, fun l h i _ => no_counter (by decide) _⟩
  · rw [e l h, hv]; exact ha
  · rw [e l h, hv]; exact mapped_sound hm

theorem witness_access : PairOk memo 2 ∧ RegsFor memo 4 4 ∧ L1Fresh memo
    ∧ AccessReady memo false 16 .read (laneAddr memo false 2) (fun _ => 0x50010)
    ∧ AccessReady memo false 16 .write (laneAddr memo false 2) (fun _ => 0x50010)
    ∧ AccessReady memo false 8 .atomic (laneAddr memo false 2) (fun _ => 0x50010) :=
  ⟨by unfold PairOk; decide, by unfold RegsFor; decide, l1_fresh (by decide) (by decide),
    access_memo _ _ 0x50010 _ (by decide) (by decide) (by decide), access_memo _ _ 0x50010 _ (by decide) (by decide) (by decide),
    access_memo _ _ 0x50010 _ (by decide) (by decide) (by decide)⟩

theorem witness_load_to_channel : DstRoom { memo with st := chanDemo.st, blk := chanDemo.blk } ⟨true, 5⟩ 1 ∧ DstRoom memo ⟨false, 4⟩ 4 := by
  refine ⟨?_, ?_⟩
  · rw [DstRoom, if_pos (by decide)]; exact ⟨rfl, by decide, 0, by decide, by decide, by decide⟩
  · rw [DstRoom, if_neg (by decide)]; unfold RegsFor; decide

theorem witness_misaligned : Offending (pairAt memo 2 0x50012) false 2 4 0 ∧ Offending (pairAt memo 2 0x50012) false 2 16 0
    ∧ NoRun (pairAt memo 2 0x50012) 2 .read 0 ∧ NoRun (pairAt memo 2 0x50012) 2 .write 0
    ∧ NoRun (pairAt memo 2 0x7000002) 2 .read 0 ∧ quiet (pairAt memo 2 0x50012) = true ∧ (pairAt memo 2 0x50012).active ≠ 0 := by
  have e : (pairAt memo 2 0x50012).active.lowest = some 0 := by decide
  have n (acc : Acc) (m : isMapped (pairAt memo 2 0x50012) acc 0x50012 0x50012 = true) : NoRun (pairAt memo 2 0x50012) 2 acc 0 := by
    intro k h
    obtain rfl : 0 = k := Option.some.inj (e.symm.trans h)
    obtain ⟨pte, ea, b, z, h, f, -, -⟩ := mapped_sound m
    exact Or.inl ⟨_, pte, ea, b, z, h, f⟩
  refine ⟨by unfold Offending; decide, by unfold Offending; decide, n _ (by decide), n _ (by decide), ?_, by decide, by decide⟩
  intro k h
  obtain rfl : 0 = k := Option.some.inj ((by decide : (pairAt memo 2 0x7000002).active.lowest = some 0).symm.trans h)
  refine Or.inr ⟨rfl, fun pa pte ea b z h => ?_⟩
  have q : (match translate (pairAt memo 2 0x7000002) (pairAt memo 2 0x7000002).st.core (pairAt memo 2 0x7000002).blk.ctx
      (laneAddr (pairAt memo 2 0x7000002) false 2 0) .read with | .ok .. => true | _ => false) = false := by decide
  rw [h] at q; cases q

/-- LD in every lane size, little-endian; ST of a quad; ALIGN (R2, R190, R191). -/
def ldW (size : MSize) : FM := ⟨false, ⟨false, 8⟩, 2, 0, size, .plain, false, false⟩
theorem test_loads : after (exec (.ld (ldW .b8)) memo) 8 0 = some 0x11 ∧ after (exec (.ld (ldW .b16)) memo) 8 0 = some 0x2211
    ∧ after (exec (.ld (ldW .b64)) memo) 9 0 = some 0x88776655
    ∧ nextHas (exec (.ld (ldW .b128)) (pairAt memo 2 0x50014)) (fun t => decide (t.mem.nat 0x60010 4 = 3)
        && decide (t.mem.nat 0x60018 8 = 0x50014)) = true := by decide
theorem test_stores : nextHas (exec (.st ⟨false, ⟨false, 4⟩, 2, 0, .b128, .plain, false, false⟩) memo) (fun t =>
      decide (t.mem.nat 0x50010 16 = 0xDDEEFF0099AABBCC5566778811223344) && t.mem.wf) = true
    ∧ nextHas (exec (.st ⟨false, ⟨false, 4⟩, 2, 0, .b8, .plain, false, false⟩) memo) (fun t =>
      decide (t.mem.nat 0x50010 8 = 0x8877665544332244)) = true := by decide

/-- ATOM returns the old value and writes the new one (R199); MRED writes nothing until it is performed (R326, R327). -/
theorem test_atomics :
    nextHas (exec (.atom ⟨false, 4, 2, 0, .add, false, .plain⟩) memo) (fun t =>
      decide (t.mem.nat 0x50010 4 = 0x55555555) && ((t.st.regs.get 4).lane 0) == 0x44332211) = true
    ∧ nextHas (exec (.matom ⟨false, 4, 2, 0, .cas, false, .plain⟩) (reg memo 4 0x44332211)) (fun t =>
      decide (t.mem.nat 0x50010 4 = 0x55667788)) = true
    ∧ nextHas (exec (.mred ⟨false, 4, 2, .or, false, .plain⟩) memo) (fun t =>
      decide (t.mem.nat 0x50010 4 = 0x44332211) && t.mreds.length == 1
        && nextHas (exec (.mredPerform t.nextId.pred) t) fun u => decide (u.mem.nat 0x50010 4 = 0x55333355)) = true := by decide

/-- A reduction in flight. -/
def redS : State :=
  { memo with mreds := [⟨5, 0x50010, .nmax, false, 0x90000000, memo.st.sid, 0, memo.blk.ctx, 0x50010, false⟩], nextId := 6 }

theorem witness_reduction : (∀ q ∈ redS.mreds, q.id = 5) ∧ Quiet { redS with mreds := [] } ∧ Aop.nmax ∈ redOps
    ∧ hbmHas 0x50010 = true ∧ (∀ q ∈ redS.mreds, ∀ r ∈ redS.mreds, q.id = r.id → q = r)
    ∧ AccessReady memo false 4 .write (laneAddr memo false 2) (fun _ => 0x50010) :=
  ⟨by decide, quiet_sound (by decide), by decide, by decide, by decide,
    access_memo _ _ 0x50010 _ (by decide) (by decide) (by decide)⟩

/-! ### Witnesses: scratchpad space, indexed accesses, waits, fences, caches and formats -/

theorem calm {s : State} (h : s.st.pair = none ∧ s.upsets = [] ∧ (∀ w ∈ s.blk.ctx.watch, bit w.1 63 = false) ∧ s.bars = []
    ∧ (∀ c ∈ s.cores, c.ranges = [] ∧ c.stale = [] ∧ ∀ r ∈ c.ret, r.1 = false)
    ∧ (s.blk.life = .placed ∧ ∀ b ∈ s.blocks, b.life ≠ .saved)) (m : NoMonitors s) : SpadCalm s :=
  ⟨h.1, h.2.1, h.2.2.1, h.2.2.2.1, h.2.2.2.2.1, h.2.2.2.2.2, m⟩

/-- The scratchpad holds a word at 0x40; v2 and v3 hold a local address. -/
def local_ (a : Nat) : State :=
  let s := pairAt memo 2 a
  { s with blk := { s.blk with spad := s.blk.spad.putNat 0x40 8 0x8877665544332211 } }

theorem witness_spad : SpadCalm (local_ 0x40) ∧ PastFresh (local_ 0x40) ∧ PairOk (local_ 0x40) 2 ∧ RegsFor (local_ 0x40) 4 2 ∧ DstRoom (local_ 0x40) ⟨false, 8⟩ 2
    ∧ (local_ 0x40).active ≠ 0 ∧ (∀ l ∈ usedLanes (local_ 0x40) false, laneAddr (local_ 0x40) false 2 l % 8 = 0)
    ∧ laneAddr (local_ 0x40) false 2 0 + 8 ≤ 256 * (local_ 0x40).blk.hdr.spad
    ∧ ((local_ 0x40).block? 1).isSome = true
    ∧ 256 * (local_ 0x40).blk.hdr.spad < laneAddr (local_ 0x3FFF8) false 2 0 + 16 := by
  refine ⟨calm (by decide) (by unfold NoMonitors; decide), past_fresh (by decide), by unfold PairOk; decide, by unfold RegsFor; decide, ?_,
    by decide, by decide, by decide,
    by decide, by decide⟩
  rw [DstRoom, if_neg (by decide)]; unfold RegsFor; decide

/-- LDS of a local address; one out of range reads 0 (R182, R183). STS of a pair. -/
theorem test_spad : after (exec (.lds ⟨false, ⟨false, 8⟩, 2, 0, .b64, .plain, false⟩) (local_ 0x40)) 9 0 = some 0x88776655
    ∧ after (exec (.lds ⟨false, ⟨false, 8⟩, 2, 0, .b32, .plain, false⟩) (reg (local_ 0x40000) 8 5)) 8 0 = some 0
    ∧ nextHas (exec (.sts ⟨false, ⟨false, 4⟩, 2, 0, .b64, .plain, false⟩) (local_ 0x40)) (fun t =>
      decide (t.blk.spad.nat 0x40 8 = 0x5566778811223344)) = true := by decide

/-- Base 0x50000 in v2 and v3, index 4 in v6, MD.TYPE f32; v7 names the divisor of `.mod`. -/
def indexed : State := reg (reg (withMd (pairAt memo 2 0x50000) 0x1C00050000000002) 6 4) 7 3

theorem witness_indexed : IndexOk indexed false .none 2 6 ∧ mdType indexed.st.md ≤ 9 ∧ RegsFor indexed 8 1 ∧ L1Fresh indexed
    ∧ AccessReady indexed false 4 .read (indexedAddr indexed false .none 2 6) (fun _ => 0x50010)
    ∧ AccessReady indexed false 4 .write (indexedAddr indexed false .none 2 6) (fun _ => 0x50010) := by
  have e : ∀ l ∈ usedLanes indexed false, l = 0 := by decide
  have r (acc : Acc) (h : isMapped indexed acc 0x50010 0x50010 = true) :
      AccessReady indexed false 4 acc (indexedAddr indexed false .none 2 6) (fun _ => 0x50010) := by
    have v : indexedAddr indexed false .none 2 6 0 = 0x50010 := by decide
    refine ⟨quiet_sound (by decide), by decide, fun l h => ?_, fun l h => ?_, fun l h i _ => no_counter (by decide) _⟩
    · rw [e l h, v]
    · rw [e l h, v]; exact mapped_sound ‹_›
  exact ⟨⟨by unfold PairOk; decide, by decide, by decide, fun h => by cases h⟩, by decide, by unfold RegsFor; decide,
    l1_fresh (by decide) (by decide), r .read (by decide), r .write (by decide)⟩

theorem witness_table_index : IndexOk (local_ 0x40) false .tab 2 6 := by
  refine ⟨by unfold PairOk; decide, by decide, by decide, fun _ => ⟨calm (by decide) (by unfold NoMonitors; decide), past_fresh (by decide), by decide⟩⟩

/-- LDX without a remap, and with `.mod`: index 4 modulo 3 is 1 (R328). SCAT sends one reduction. -/
theorem test_indexed : after (exec (.ldx ⟨false, 8, 2, 6, 0, .none⟩) indexed) 8 0 = some 0x44332211
    ∧ after (exec (.ldx ⟨false, 8, 2, 6, 0, .mod⟩) { indexed with mem := indexed.mem.putNat 0x50004 4 77 }) 8 0 = some 77
    ∧ nextHas (exec (.scat ⟨false, 4, 2, 6, .add, .none⟩) indexed) (fun t =>
      t.mreds.map (fun r => (r.pa, r.x)) == [(0x50010, 0x11223344)]) = true := by decide

/-- Two lanes at one address: one reduction, of the sum (R330). -/
theorem test_scatter_combines :
    nextHas (exec (.scat ⟨false, 4, 2, 6, .add, .none⟩) { indexed with st := { indexed.st with
      paths := indexed.st.paths.set 0 { indexed.st.path with mask := 3 } } }) (fun t =>
      t.mreds.map (fun r => (r.pa, r.lane, r.x)) == [(0x50010, 0, 0x22446688)]) = true := by decide

/-- A street that has seen the line of 0x50010 by a strong load. -/
def saw : State := { memo with st := { memo.st with seen := [{ lane := 0, line := 0x50010 / 128, ver := 0 }] } }

theorem witness_waita : PairOk saw 2 ∧ saw.active = 1 <<< 0 ∧ saw.st.path.mask = 1 <<< 0 ∧ saw.st.path.reason = .branch
    ∧ SawLine saw 0 0x50010 ∧ (∀ l ∈ usedLanes memo false, ¬ SawLine memo l 0x50010)
    ∧ AccessReady memo false 1 .read (laneAddr memo false 2) (fun _ => 0x50010) := by
  refine ⟨by unfold PairOk; decide, by decide, by decide, by decide, ?_, ?_, access_memo _ _ 0x50010 _ (by decide) (by decide) (by decide)⟩
  · exact ⟨_, List.mem_singleton.2 rfl, by decide, by decide, by decide⟩
  · rintro l - ⟨x, h, -⟩; exact absurd h (by simp [show memo.st.seen = [] by decide])

theorem test_waita : nextHas (exec (.waita ⟨false, 2, 0⟩) saw) (fun t => t.st.path.reason == .wait) = true
    ∧ nextHas (exec (.waita ⟨false, 2, 0⟩) memo) (fun t => t.st.path.pc == 0x40004) = true := by decide

theorem witness_fence : memo.st.pair = none ∧ memo.mreds = [] ∧ memo.remote = [] := by decide

theorem test_fence : nextHas (exec (.fence ⟨false, 5, 1⟩) { memo with cores := [{ Core.zero 0 with l1 := [{ pa := 7, data := [] }] }] })
    (fun t => (t.core 0).l1 == []) = true := by decide

theorem witness_cache : Quiet memo ∧ (2 : RegNo).toNat + 3 ≤ memo.blk.hdr.regs ∧ memo.tlbs = [] ∧ memo.blk.ctx.ptpoollen = 0
    ∧ regionLines 0x50010 0x80 = 2 ∧ isMapped memo .read 0x50080 0x50080 = true ∧ pteMS (0xF8 * 2 ^ 56 + 256) = false
    ∧ ∀ x ∈ walkLines memo.mem (0x40000 % 2 ^ 57) ptLevels memo.blk.ctx.ptroot, x ≠ 0x50010 / 128 ∧ x ≠ 0x50080 / 128 :=
  ⟨quiet_sound (by decide), by decide, by decide, by decide, by decide, by decide, by decide, by decide⟩

theorem test_cache : nextHas (exec (.cacheWbinv ⟨false, 2⟩) (reg { memo with
      l2 := [{ line := 0xA00, dirty := [0x2800], ctx := 1 }, { line := 0xA02, dirty := [], ctx := 1 }] } 4 0x20))
      (fun t => (t.l2.any fun x => x.line == 0xA02) && t.l2.all fun x => x.line != 0xA00) = true
    ∧ nextHas (exec (.pref ⟨false, 2, 0, false⟩) (pairAt memo 2 0x7000000)) (fun t => t.st.path.pc == 0x40004) = true := by decide

/-- The page table's second leaf: format f16 (code 8) at 0x80000. -/
def halfPage : State :=
  let s := pairAt memo 2 0x80000
  { s with mem := (s.mem.putNat 0x8410 8 (0xF8 * 2 ^ 56 + 8 * 2 ^ 52 + 2 * 256)).putNat 0x80000 2 0x3C00 }

theorem witness_formatted : halfPage.active.lowest = some 0 ∧ laneAddr halfPage false 2 0 % (64 * 2) = 0
    ∧ translate halfPage 0 halfPage.blk.ctx 0x80000 .read = .ok 0x80000 (0xF8 * 2 ^ 56 + 8 * 2 ^ 52 + 512) 0x8410 0x80000 0x40000
    ∧ translate halfPage 0 halfPage.blk.ctx 0x80000 .write = .ok 0x80000 (0xF8 * 2 ^ 56 + 8 * 2 ^ 52 + 512) 0x8410 0x80000 0x40000
    ∧ pteFMT (0xF8 * 2 ^ 56 + 8 * 2 ^ 52 + 512) = 8 ∧ (∀ l ∈ usedLanes halfPage false, l = 0) := by decide

/-- 1.0 as f16 widens to f32; 1.5 as f32 narrows to f16 (R78). -/
theorem test_formatted : after (exec (.ld (ldW .b32)) halfPage) 8 0 = some 0x3F800000
    ∧ nextHas (exec (.st ⟨false, ⟨false, 4⟩, 2, 0, .b32, .plain, false, false⟩) (reg halfPage 4 0x3FC00000)) (fun t =>
      decide (t.mem.nat 0x80000 2 = 0x3E00)) = true := by decide

/-! ### Witnesses: the engines, tasks, copies, timelines and barriers -/

theorem engine_ready {s : State} {x : RegNo} (q : quiet s = true)
    (h : (x.toNat % 2 = 0 ∧ x.toNat ≤ 60 ∧ x.toNat + 4 ≤ s.blk.hdr.regs) ∧ s.active ≠ 0) : EngineReady s x :=
  ⟨quiet_sound q, h.1, h.2⟩

/-- A group of arguments in v20 to v23: an address and two numbers. -/
def args (s : State) (addr a b : Nat) : State :=
  reg (reg (pairAt s 20 addr) 22 (BitVec.ofNat 32 a)) 23 (BitVec.ofNat 32 b)

/-- A tile operand record at 0x52000 with STEPS 3 and every row and column (R278). -/
def tiled : State :=
  let s := args memo 0x52000 5 0
  { s with mem := (s.mem.putNat 0x52000 8 0x60000).putNat 0x52038 8 (3 + 127 * 2 ^ 16 + 127 * 2 ^ 24) }

theorem record_at {s : State} {va pa n al : Nat} {x : RegNo} (h : argAddr s false x = va) (a : va % al = 0) (m : isMapped s .read va pa = true)
    (c : (s.core s.st.core).past = []) (p : va % 2 ^ 18 + n ≤ 2 ^ 18) : RecordAt s false x n al fun i => pa + 64 * i := by
  refine ⟨by rw [h]; exact a, past_fresh c, by rw [h]; exact mapped_sound m, fun i _ => ?_⟩
  rw [h, if_pos p]; simp

theorem witness_tiles : EngineReady tiled 20 ∧ tiled.blk.mxq.length < 16 ∧ RecordAt tiled false 20 64 64 (fun i => 0x52000 + 64 * i)
    ∧ TileAllowed .mmt (field tiled fun i => 0x52000 + 64 * i) ∧ argOf tiled false 20 2 < tiled.blk.hdr.pans :=
  ⟨engine_ready (by decide) (by decide), by decide, record_at (va := 0x52000) (by decide) (by decide) (by decide) (by decide) (by decide),
    by unfold TileAllowed; decide, by decide⟩

/-- The records of MMTS and MMM, which also name metadata and variances (R278). -/
def tiledWith (x y z : Nat) : State :=
  { tiled with mem := ((tiled.mem.putNat 0x52020 8 x).putNat 0x52028 8 y).putNat 0x52030 8 z }

theorem witness_tile_kinds : TileAllowed .mmts (field (tiledWith 0x70000 0 64) fun i => 0x52000 + 64 * i)
    ∧ TileAllowed .mmm (field (tiledWith 0x70000 0x71000 0) fun i => 0x52000 + 64 * i) := by
  unfold TileAllowed; decide

theorem test_mmt : nextHas (exec (.mmt ⟨false, 0, 20, 4⟩) tiled) (fun t =>
    match t.blk.mxq with
    | [o] => o.pan == 5 && o.tile.steps == 3 && o.tl == some (4, 1) && decide ((t.blk.tl 4).issued = 1)
    | _ => false) = true := by decide

theorem witness_pans : EngineReady (args memo 0x52000 (9 * 256 + 5) 512) 20
    ∧ argOf (args memo 0x52000 (9 * 256 + 5) 512) false 20 2 = 9 * 256 + 5 ∧ ¬ Named (args memo 0x52000 (9 * 256 + 5) 512) 5
    ∧ EngineReady (args memo 0x52000 5 512) 20 ∧ argOf (args memo 0x52000 5 512) false 20 2 < memo.blk.hdr.pans
    ∧ memo.blk.hdr.pans ≤ argOf (args memo 0x52000 256 512) false 20 2 ∧ EngineReady (args memo 0x52000 256 512) 20 := by
  refine ⟨engine_ready (by decide) (by decide), by decide, ?_, engine_ready (by decide) (by decide), by decide, by decide,
    engine_ready (by decide) (by decide)⟩
  rintro ⟨o, h, -⟩; exact absurd h (by simp [show (args memo 0x52000 (9 * 256 + 5) 512).blk.mxq = [] by decide])

/-- PANWR puts lane 0's word in column 0 of the row; PANRD reads column 64 as its second word; PANST queues; PANSTAT reads and clears. -/
theorem test_pans :
    nextHas (exec (.panwr ⟨false, 0, 20⟩) (args memo 0x52000 (9 * 256 + 5) 512)) (fun t =>
      decide (t.blk.pans.nat (5 * 65536 + 9 * 512) 4 = 0x52000) && t.blk.pans.wf) = true
    ∧ after (exec (.panrd ⟨false, 0, 20⟩) { args memo 0x52000 (9 * 256 + 5) 512 with blk := { memo.blk with
        pans := memo.blk.pans.putNat (5 * 65536 + 9 * 512 + 256) 4 77 } }) 21 0 = some 77
    ∧ nextHas (exec (.panst ⟨false, 0, 20, 32⟩) (args memo 0x52000 5 512)) (fun t =>
      t.blk.mxq.map (fun o => (o.pan, o.tile.abase, o.tile.astride)) == [(5, 0x52000, 512)]) = true
    ∧ after (exec (.panstat ⟨false, 0, 20⟩) { args memo 0 5 0 with blk := { memo.blk with panSum := [(5, 9)] } }) 20 0 = some 9 := by
  decide

/-- A LAUNCH record at 0x52000 with one wait (R286). -/
def posting : State :=
  let s := args memo 0x52000 0 0
  { s with mem := (s.mem.putNat 0x52000 4 (6 + 1 * 2 ^ 16)).putNat 0x52010 4 0x10000 }

theorem witness_posts : EngineReady posting 20 ∧ posting.blk.plq.length < 4 ∧ RecordAt posting false 20 128 128 (fun i => 0x52000 + 64 * i)
    ∧ TaskAllowed (field posting fun i => 0x52000 + 64 * i) ∧ field posting (fun i => 0x52000 + 64 * i) 0 1 = 6 :=
  ⟨engine_ready (by decide) (by decide), by decide, record_at (va := 0x52000) (by decide) (by decide) (by decide) (by decide) (by decide),
    ⟨by decide, by decide, by decide, by decide, by decide, by decide, by decide, by decide, by decide, by decide, by decide⟩, by decide⟩

/-- The same street with its pending-launch queue full. -/
def fullQueue : State :=
  { posting with blk := { posting.blk with plq := List.replicate 4 ⟨placedSid, (posting.st.path.pc + 4, 0), some (postedTask posting 0x52000 0 (field posting fun i => 0x52000 + 64 * i))⟩ } }

theorem witness_full : EngineReady fullQueue 20 ∧ 4 ≤ fullQueue.blk.plq.length :=
  ⟨engine_ready (by decide) (by decide), by decide⟩

theorem test_posts : nextHas (exec (.launch ⟨false, 0, 20, 35, false⟩) posting) (fun t =>
      t.blk.plq.map (fun e => e.rec_.map fun r => (r.kind, r.adv, r.waits)) == [some (6, some (0x1000F, 3), [(0x10000, 0, 0)])]
        && ((t.st.regs.get 20).lane 0) == 0) = true
    ∧ after (exec (.tpost ⟨false, 0, 20, 0, true⟩) fullQueue) 20 0 = some 1
    ∧ nextHas (exec (.tpost ⟨false, 0, 20, 0, false⟩) fullQueue) (fun t => t.st.stall == some .panq) = true
    ∧ after (exec (.tqstat ⟨false, 0, 20⟩) fullQueue) 20 0 = some 4 := by decide

theorem witness_reads : EngineReady memo 20 := engine_ready (by decide) (by decide)

/-- A copy descriptor at 0x52000: 16 raw bytes from 0x50000 to scratchpad address 0x80 (R292, R293). -/
def copying : State :=
  let s := args memo 0x52000 0 0
  let m := s.mem
  let m := (m.putNat 0x52000 8 0x50000).putNat 0x5203C 4 (1 + 12 * 16)
  let m := (m.putNat 0x52028 8 (64 + 2 ^ 16 + 2 ^ 32 + 2 ^ 48)).putNat 0x52030 8 (1 + 16 * 2 ^ 16 + 2 ^ 32 + 2 ^ 48)
  let m := (m.putNat 0x52038 4 (1 + 2 ^ 16)).putNat 0x52040 8 0x80
  let m := (m.putNat 0x52068 8 (64 + 2 ^ 16 + 2 ^ 32 + 2 ^ 48)).putNat 0x52070 2 1
  { s with mem := m.putNat 0x5207C 4 (1 + 12 * 16 + 256) }

theorem witness_copies : EngineReady copying 20 ∧ (copying.st.ops.filter fun o => o.kind == .copy || o.kind == .sal).length < 16
    ∧ RecordAt copying false 20 192 64 (fun i => 0x52000 + 64 * i) ∧ (∀ c, (copying.core c).ranges.length < 16) := by
  refine ⟨engine_ready (by decide) (by decide), by decide,
    record_at (va := 0x52000) (by decide) (by decide) (by decide) (by decide) (by decide), fun c => ?_⟩
  have e : ∀ k ∈ copying.cores, k.ranges.length < 16 := by decide
  unfold State.core
  cases h : copying.cores.find? fun k => k.idx == c with
  | none => exact (by decide : (0 : Nat) < 16)
  | some k => exact e k (List.mem_of_find?_eq_some h)

theorem witness_copy_allowed : CopyAllowed false (field copying fun i => 0x52000 + 64 * i)
    ∧ CopyAllowed true (field copying fun i => 0x52000 + 64 * i) := by
  refine ⟨⟨?_, ?_, by decide, by decide, by decide, by decide⟩, ⟨?_, ?_, by decide, by decide, by decide, by decide⟩⟩ <;>
    unfold LayoutAllowed <;> refine ⟨by decide, by decide, by decide, by decide, by decide⟩

/-- The descriptors of SALN and SMETA (R299). -/
def pruning (m : Bool) : State :=
  let s := args memo 0x52000 0 0
  let x := ((s.mem.putNat 0x52000 8 0x50000).putNat 0x52008 8 64).putNat 0x52020 8 0x54000
  let x := (x.putNat 0x52028 8 64).putNat 0x52038 8 (1 + 1 * 2 ^ 16)
  { s with mem := if m then x.putNat 0x52030 8 0x55000 else (x.putNat 0x52010 8 0x56000).putNat 0x52018 8 64 }

theorem witness_saliency : SalAllowed false (field (pruning false) fun i => 0x52000 + 64 * i)
    ∧ SalAllowed true (field (pruning true) fun i => 0x52000 + 64 * i) := by unfold SalAllowed; decide

theorem test_copies_accepted : nextHas (exec (.cpy ⟨false, 0, 20, 2⟩) copying) (fun t =>
      t.copies.length == 1 && decide ((t.blk.tl 2).issued = 1) && t.mem == copying.mem) = true
    ∧ nextHas (exec (.cpyred ⟨false, 0, 20, 32⟩) copying) (fun t => t.copies.map (·.tl) == [none]) = true
    ∧ nextHas (exec (.saln ⟨false, 0, 20, 5⟩) (pruning false)) (fun t => t.copies.length == 1) = true
    ∧ nextHas (exec (.smeta ⟨false, 0, 20, 5⟩) (pruning true)) (fun t => t.copies.length == 1) = true
    ∧ after (exec (.cpystat ⟨false, 0, 20⟩) { memo with st := { memo.st with copyErr := 6 } }) 21 0 = some 6 := by decide

theorem still {s : State} (h : (s.st.life = .running ∧ s.blk.life = .placed ∧ s.st.block = s.blk.id ∧ s.st.core = s.blk.core)
    ∧ (∀ b ∈ s.blocks, b.id ≠ s.blk.id ∧ b.life ≠ .saved) ∧ s.st.isHeld s.st.sel = false
    ∧ (∀ t ∈ s.st :: s.streets, (∀ i, (t.paths.get i).wait = .none ∧ (t.paths.get i).reason ≠ .wait) ∧ ∀ o ∈ t.ops, o.id ≠ 0)
    ∧ (∀ d ∈ s.dies, d.pool = []) ∧ s.st.pair = none ∧ s.upsets = [] ∧ (s.mreds = [] ∧ s.remote = [] ∧ s.late = [])
    ∧ ∀ w ∈ s.blk.ctx.watch, bit w.1 63 = false)
    (m : NoMonitors s) : Still s :=
  ⟨h.1, h.2.1, m, h.2.2.1, h.2.2.2.1, h.2.2.2.2.1, h.2.2.2.2.2.1, h.2.2.2.2.2.2.1, h.2.2.2.2.2.2.2.1, h.2.2.2.2.2.2.2.2⟩

/-- Timeline 3 stands at VALUE 5, its ordered numbers made in `made` of `issued`; the arguments hold a wait value. -/
def timed (n made issued : Nat) : State :=
  let s := args memo n 0 0
  { s with blk := { s.blk with tls := s.blk.tls.setIfInBounds 3 { Timeline.zero with value := 5, issued := issued, made := made } } }

theorem witness_timelines : Still (timed 0 2 2) ∧ GroupOk (timed 0 2 2) 20 ∧ argAddr (timed 0 2 2) false 20 = 0
    ∧ Still (timed 6 2 2) ∧ ((timed 6 2 2).blk.tl 3).value < argAddr (timed 6 2 2) false 20
    ∧ Still (timed 5 2 2) ∧ 0 < argAddr (timed 5 2 2) false 20 ∧ argAddr (timed 5 2 2) false 20 ≤ ((timed 5 2 2).blk.tl 3).value
    ∧ ((timed 5 2 2).blk.tl 3).made = ((timed 5 2 2).blk.tl 3).issued
    ∧ Still (timed 5 2 4) ∧ ((timed 5 2 4).blk.tl 3).made ≠ ((timed 5 2 4).blk.tl 3).issued
    ∧ argAddr (timed (0x1000F + 3 * 2 ^ 32) 2 2) false 20 / 2 ^ 37 = 0
    ∧ BitVec.ofNat 32 (argAddr (timed (0x1000F + 3 * 2 ^ 32) 2 2) false 20) ∈ (timed (0x1000F + 3 * 2 ^ 32) 2 2).blk.sids :=
  ⟨still (by decide) (by unfold NoMonitors; decide), by unfold GroupOk; decide, by decide, still (by decide) (by unfold NoMonitors; decide), by decide, still (by decide) (by unfold NoMonitors; decide), by decide, by decide,
    by decide, still (by decide) (by unfold NoMonitors; decide), by decide, by decide, by decide⟩

theorem test_timelines : nextHas (exec (.tlwait ⟨false, 20, 3⟩) (timed 6 2 2)) (fun t => t.st.path.reason == .wait) = true
    ∧ nextHas (exec (.tlwait ⟨false, 20, 3⟩) (timed 5 2 2)) (fun t => t.st.path.pc == 0x40004 && ((t.st.regs.get 20).lane 0) == 5) = true
    ∧ nextHas (exec (.tladv ⟨false, 0, 20, 3⟩) (timed 5 2 2)) (fun t => decide ((t.blk.tl 3).value = 6)) = true
    ∧ nextHas (exec (.tladv ⟨false, 0, 20, 32⟩) (timed (0x1000F + 3 * 2 ^ 32) 2 2)) (fun t => decide ((t.blk.tl 3).value = 6)) = true
    ∧ after (exec (.tlread ⟨false, 0, 20, 3⟩) (timed 5 2 2)) 20 0 = some 5 := by decide

/-- A barrier of two arrivals at 0x53000, with so many there. -/
def barred (arrived : Nat) (aband : Bool) : State :=
  let s := args memo 0x53000 2 1
  { s with bars := [⟨.global 0x53000, true, aband, 1, 0, 9, 2, arrived, [1], false, false⟩] }

theorem object_global {s : State} (h : argAddr s false 20 = 0x53000) (m : isMapped s .atomic 0x53000 0x53000 = true) :
    ObjectAt s false 20 32 (.global 0x53000) := by
  refine ⟨by rw [h], ?_⟩
  rw [if_neg (by decide), h]
  exact ⟨0x53000, mapped_sound m, rfl⟩

theorem witness_barriers : Still (barred 0 false) ∧ GroupOk (barred 0 false) 20 ∧ ObjectAt (barred 0 false) false 20 32 (.global 0x53000)
    ∧ (barred 0 false).bar? (.global 0x53000) = some ⟨.global 0x53000, true, false, 1, 0, 9, 2, 0, [1], false, false⟩
    ∧ (barred 1 false).bar? (.global 0x53000) = some ⟨.global 0x53000, true, false, 1, 0, 9, 2, 1, [1], false, false⟩
    ∧ (barred 0 true).bar? (.global 0x53000) = some ⟨.global 0x53000, true, true, 1, 0, 9, 2, 0, [1], false, false⟩
    ∧ (∀ b ∈ (barred 0 false).bars, b.far = false) ∧ memo.bar? (.global 0x53000) = none ∧ argOf (barred 0 false) false 20 2 ≠ 0 ∧ argOf (barred 0 false) false 20 3 = 1
    ∧ ObjectAt (args memo 0x40 2 1) false 20 33 (.spad 1 0x40) := by
  refine ⟨still (by decide) (by unfold NoMonitors; decide), by unfold GroupOk; decide, object_global (by decide) (by decide), by decide, by decide, by decide, by decide, by decide,
    by decide, by decide, by decide, ?_⟩
  rw [if_pos rfl]; exact ⟨1, 0x40, by decide, rfl⟩

theorem test_barriers : nextHas (exec (.bar ⟨false, 20, 32⟩) (barred 0 false)) (fun t => t.st.path.reason == .wait) = true
    ∧ nextHas (exec (.bar ⟨false, 20, 32⟩) (barred 1 false)) (fun t =>
      t.st.path.pc == 0x40004 && ((t.st.regs.get 21).lane 0) == 10 && decide (t.mem.nat 0x53008 4 = 10)) = true
    ∧ after (exec (.bara ⟨false, 0, 20, 32⟩) (barred 0 true)) 20 0 = some 1
    ∧ after (exec (.bara ⟨false, 0, 20, 32⟩) (args memo 0x53000 2 1)) 20 0 = some 2
    ∧ nextHas (exec (.barinit ⟨false, 0, 20, 32⟩) (args memo 0x53000 2 1)) (fun t => decide (t.mem.nat 0x53004 4 = 2)
      && decide (t.mem.nat 0x5300C 4 = 0x90000000)) = true
    ∧ nextHas (exec (.barinv ⟨false, 0, 20, 32⟩) (barred 0 false)) (fun t => t.bars.all fun b => !b.valid) = true := by decide

/-! ### Witnesses: walks, collectives and the events -/

/-- A walk program of one rule at scratchpad offset 0x400: equal keys follow the pointer in the record's second word, others end;
the argument word of x+3 names the program and destination 0x800 (R331, R332). -/
def walking : State :=
  let s := args memo 0x50000 7 (0x20 + 0x10 * 4096)
  { s with blk := { s.blk with spad := (s.blk.spad.putNat 0x400 8 100).putNat 0x410 8 (2 ^ 10 + 2 ^ 12 * 2) } }

theorem witness_trav : EngineReady walking 20 ∧ usedLanes walking false = [0]
    ∧ (walking.walks.filter fun k => k.sid == walking.st.sid && k.ended.isNone && k.op != 0).length + 1 ≤ 256 :=
  ⟨engine_ready (by decide) (by decide), by decide, by decide⟩

theorem witness_walk_allowed : WalkAllowed walking 20 0 := by
  refine ⟨by decide, by decide, by decide, by decide, by decide, by decide, by decide, fun i h => ?_⟩
  have h : i < 1 := h
  have e : i = 0 := by omega
  subst e; decide

/-- A walk of the street in lane 0's slot, running, ended, or ended with a mark of TRAP. -/
def aWalk (ended : Option Word) (trapped : Bool) : Walk :=
  { id := 9, op := 4, sid := memo.st.sid, lane := 0, block := 1, ctx := memo.blk.ctx, eng := 0, due := none, header := 100
    rules := [2 ^ 10 + 2 ^ 12 * 2], key := 7, p := 0x1234500000678, rule := 0, last := 0, steps := 3, record := none, skipped := false
    dest := .spad 1 0x800, fault := none, ended := ended, trapped := trapped }
@[inherit_doc aWalk] def walked (ended : Option Word) (trapped : Bool) : State :=
  { memo with
    st := { memo.st with walkSlots := memo.st.walkSlots.setIfInBounds 0 (some 9) }, walks := [aWalk ended trapped] }

theorem witness_travw : EngineReady (walked none false) 20 ∧ (0 : Lane) ∈ usedLanes (walked none false) false
    ∧ walkOf (walked none false) 0 = some (aWalk none false)
    ∧ walkOf (walked (some 5) false) 0 = some (aWalk (some 5) false)
    ∧ walkOf (walked (some 5) true) 0 = some (aWalk (some 5) true) :=
  ⟨engine_ready (by decide) (by decide), by decide, by decide, by decide, by decide⟩

theorem test_walks : nextHas (exec (.trav ⟨false, 0, 20, 6⟩) walking) (fun t =>
      t.walks.map (fun k => (k.p, k.key, k.lane)) == [(0x50000, 7, 0)] && decide ((t.blk.tl 6).issued = 1)) = true
    ∧ nextHas (exec (.travw ⟨false, 20⟩) (walked none false)) (fun t => t.st.path.reason == .wait) = true
    ∧ after (exec (.travw ⟨false, 20⟩) (walked (some 5) false)) 22 0 = some 0x678
    ∧ nextHas (exec (.travw ⟨false, 20⟩) (walked (some 5) true)) (fun t => decide (t.mem.nat 0x60010 4 = 14)
        && decide (t.mem.nat 0x60018 8 = 0x1234500000678)) = true := by decide

/-- A job's table at physical 0x70000 with two members, this device (0x7FF) and device 5, and a collective descriptor (R380, R384). -/
def jobbed : State :=
  let s := args memo 0x52000 0 0
  let m := (s.mem.putNat 0x70000 8 77).putNat 0x70030 4 2
  let m := (m.putNat 0x70050 2 0x7FF).putNat 0x70070 2 5
  let m := (m.putNat 0x52000 8 0x50000).putNat 0x52008 8 0x54000
  let m := (m.putNat 0x52010 4 8).putNat 0x52018 8 (3 + 2 * 256 + 65536)
  { s with
    mem := m.putNat 0x5A080 8 77
    pkg := { s.pkg with jtab := (2 ^ 63 + 0x70000) :: s.pkg.jtab.drop 1 }
    blk := { s.blk with ctx := { s.blk.ctx with desc := 0x5A000 } } }

theorem witness_coll : EngineReady jobbed 20 ∧ jobbed.blk.ctx.ptpoollen = 0
    ∧ RecordAt jobbed false 20 64 64 (fun i => 0x52000 + 64 * i) ∧ CollAllowed (field jobbed fun i => 0x52000 + 64 * i)
    ∧ (jobbed.st.ops.filter fun o => o.kind == .coll).length < 4 ∧ jobbed.jobOf jobbed.blk.ctx = some (0, 0x70000)
    ∧ field jobbed (fun i => 0x52000 + 64 * i) 0x28 8 ∉ (jobbed.job 0).joined :=
  ⟨engine_ready (by decide) (by decide), by decide, record_at (va := 0x52000) (by decide) (by decide) (by decide) (by decide) (by decide),
    by unfold CollAllowed; decide, by decide, by decide, by decide⟩

theorem witness_coll_buffers : let r := recordBytes jobbed (fun i => 0x52000 + 64 * i) 64
    jobbed.badBuffers jobbed.blk.ctx r (jobbed.members 0x70000).length = false := by decide

theorem test_coll : nextHas (exec (.coll ⟨false, 0, 20, 7⟩) jobbed) (fun t =>
      t.colls.map (fun c => (c.rank, c.members)) == [(0, [0x7FF, 5])] && decide ((t.blk.tl 7).issued = 1)) = true
    ∧ after (exec (.collstat ⟨false, 0, 20⟩) jobbed) 21 0 = some 2 := by decide

/-- The windows with an owner. -/
def owned (o : Nat) : State := { demo with pkg := { demo.pkg with owner := o } }

theorem witness_owner : demo.pkg.owner = 0 ∧ (owned 3).pkg.owner = ownerNo .residentOs ∧ (owned 3).pkg.owner ≠ ownerNo .pcieHost
    ∧ (demo.die 0).tlbi.busy = false ∧ demo.pkg.wbusy = false ∧ (demo.die 3).faults.waiting = [] ∧ (demo.die 3).stops.waiting = []
    ∧ (2 : Nat) ∈ [1, 2, 3] := by decide

theorem test_windows : nextHas (exec (.claim ⟨.mgmtNetwork, []⟩ 1) demo) (fun t => decide (t.pkg.owner = 2)) = true
    ∧ nextHas (exec (.claim ⟨.residentOs, [.pcieHost]⟩ 1) demo) (fun t => decide (t.pkg.owner = 1)) = true
    ∧ nextHas (exec (.handto .residentOs 1) (owned 3)) (fun t => decide (t.pkg.owner = 1)) = true
    ∧ nextHas (exec (.plimWrite .residentOs 1000) (owned 3)) (fun t => decide (t.pkg.plim = 1000)) = true
    ∧ nextHas (exec (.plimWrite .residentOs 999) (owned 3)) (fun t => decide (t.pkg.plim = 2800)) = true
    ∧ nextHas (exec (.plimWrite .pcieHost 1000) (owned 3)) (fun t => decide (t.pkg.denied = 1)) = true
    ∧ nextHas (exec (.registerWrite .pcieHost (dieReg 3 0x910) 6) (owned 3)) (fun t => decide ((t.die 3).faults.head = 6)) = true
    ∧ nextHas (exec (.bankRetire .residentOs 2 1 5) (owned 3)) (fun t => (t.core 2).ret == [(false, 0), (true, 5), (false, 0), (false, 0)]) = true := by decide

/-- An invalidation in progress, and weigh requests of a context with an area. -/
def invalidating : State :=
  { demo with
    dies := [{ Die.zero 0 with tlbi := { busy := true, pcflush := false, kind := 1, ctx := 1, va := 0 } }]
    tlbs := [⟨0, 1, 0x40000, 0x40000, 0xF800000000000100, 0x8408, none, 3, 2, 0⟩, ⟨0, 2, 0x40000, 0x40000, 0xF800000000000100, 0x8408, none, 3, 2, 0⟩] }
@[inherit_doc invalidating] def weighing (ctx req : Nat) : State :=
  { demo with
    ctxs := [⟨9, List.replicate 32 6, 5, 0, 0, 0x59000⟩]
    pkg := { demo.pkg with wbusy := true, wctx := ctx, wreq := req, wrec := 0x70000 } }

theorem witness_requests : (invalidating.die 0).tlbi.busy = true ∧ (weighing 8 1).pkg.wbusy = true
    ∧ (∀ d ∈ (weighing 8 1).wdeltas, d.ctx ≠ 8) ∧ (∀ a ∈ (weighing 8 1).ctxs, a.ctx ≠ 8)
    ∧ ((weighing 9 1).ctxs.find? fun x => x.ctx == 9) = some ⟨9, List.replicate 32 6, 5, 0, 0, 0x59000⟩
    ∧ ({ weighing 9 2 with blk := { demo.blk with ctx := { demo.blk.ctx with ctxid := 9 } } } : State).inUse 9 = true
    ∧ (weighing 9 2).inUse 9 = false ∧ (weighing 9 2).pkg.nextIndex < 2 ^ 40 ∧ (∀ k ∈ (weighing 9 2).colours, k.ctx ≠ 9)
    ∧ (weighing 9 2).pkg.wrec % 2 ^ 52 / 64 * 64 = 0x70000 ∧ hbmHas 0x70000 = true ∧ hbmHas (0x70000 + 384 + 3604 - 1) = true := by decide

theorem test_requests : nextHas (exec (.tlbiComplete 0) invalidating) (fun t => t.tlbs.map (·.ctx) == [2] && !(t.die 0).tlbi.busy) = true
    ∧ nextHas (exec .wctlRequestComplete (weighing 9 1)) (fun t => t.pkg.snapCnt == List.replicate 32 6 && decide (t.pkg.wstatus = 0)) = true
    ∧ nextHas (exec .wctlRequestComplete (weighing 8 2)) (fun t => decide (t.pkg.wstatus = 1)) = true := by decide

/-- A range monitor of source 3 from 100 on, in bins of 16. -/
def monitored : State :=
  { demo with dies := [{ Die.zero 0 with mons := [{ RangeMon.zero with en := true, shift := 4, source := 3, base := 100 }] }] }

theorem test_range_monitor : nextHas (exec (.rangeMonitorSample 0 3 132) monitored) (fun t => match (t.die 0).mons with
    | [r] => decide (r.min = 132) && decide (r.max = 132) && r.bins == [0, 0, 1, 0, 0, 0, 0, 0, 0, 0, 0, 0, 0, 0, 0, 0]
    | _ => false) = true := by decide

/-- Boot states: waiting for a second, and fetching the first image from port 0 or 1. -/
def booting (phase port : Nat) : State := { State.reset with pkg := { Package.zero with phase := phase, port := port } }

theorem witness_boot : (booting 15 0).pkg.phase = 15 ∧ (booting 1 0).pkg.phase ≠ 15 ∧ (booting 1 0).pkg.image ≤ 3 ∧ (booting 1 0).pkg.port = 0
    ∧ (booting 1 1).pkg.port = 1 ∧ 1 ≤ ({ Package.zero with hotMs := 1 } : Package).hotMs := by decide

theorem test_boot : nextHas (exec (.imageFetchComplete 0 .failed) (booting 1 0)) (fun t => decide (t.pkg.port = 1)) = true
    ∧ nextHas (exec (.imageFetchComplete 1 .failed) (booting 1 1)) (fun t => decide (t.pkg.phase = 15)) = true
    ∧ nextHas (exec .bootRetry (booting 15 1)) (fun t => decide (t.pkg.phase = 1) && decide (t.pkg.port = 0)) = true
    ∧ nextHas (exec (.clockStep 2801 [20]) demo) (fun t => decide (t.pkg.mhz = 3875)) = true
    ∧ nextHas (exec (.clockStep 2760 [20]) demo) (fun t => decide (t.pkg.mhz = 4000)) = true
    ∧ nextHas (exec .powerLoss demo) (fun t => !t.pkg.powered && !t.st.there) = true
    ∧ nextHas (exec .reset demo) (fun t => t.pkg.powered && decide (t.pkg.bootno = 1)) = true := by decide

theorem test_links : nextHas (exec (.linkUp 3 9 2 0xF) demo) (fun t => match t.pkg.ports[3]? with
      | some p => decide (p.peer = 9) && decide (p.state = 2) | none => false) = true
    ∧ nextHas (exec (.laneLoss 3 0) demo) (fun t => match t.pkg.ports[3]? with | some p => decide (p.state = 0) | none => false) = true
    ∧ nextHas (exec (.flitReplay 3) demo) (fun t => match t.pkg.ports[3]? with | some p => decide (p.retries = 1) | none => false) = true := by
  decide

theorem witness_members : jobbed.jobTable 0 = some 0x70000 ∧ jobbed.entryOfDev 0x70000 5 = some 1 ∧ (5 : Nat) ≠ jobbed.pkg.fabid ∧ (jobbed.job 0).nextBeat ≤ jobbed.timeNs
    ∧ jobbed.tabState 0x70000 1 = 0 ∧ (jobbed.job 0).lastBeat 5 + 1000 * jobbed.mem.nat (0x70000 + 0x34) 4 ≤ jobbed.timeNs
    ∧ jobbed.anyHeld 0x70000 = false ∧ ({ jobbed with mem := jobbed.mem.putNat (stateByte 0x70000 1) 1 2 } : State).tabState 0x70000 1 = 2 := by
  decide

/-- The broadcast of `jobbed` in flight, from device 5. -/
def collOf : Coll :=
  { id := 3, sid := memo.st.sid, block := 1, ctx := jobbed.blk.ctx, slot := 0, desc := jobbed.mem.readN 0x52000 64, addr := 0x52000
    seq := 0, rank := 0, n := 2, members := [0x7FF, 5], shrunk := false, joinedAt := 0, status := .running, tl := none }
@[inherit_doc collOf] def joined : State :=
  ({ jobbed with colls := [collOf] } : State).onJob 0 fun j => { j with joins := [(0, 0x7FF, 0)] }

theorem witness_progress : (∃ x ∈ (joined.job 0).joins, (∀ y ∈ (joined.job 0).joins, y.1 = x.1 → y.2.1 ≠ 5)
    ∧ max x.2.2 (joined.job 0).progress + 1000 * joined.mem.nat (0x70000 + 0x38) 4 ≤ joined.timeNs)
    ∧ joined.bars = [] ∧ joined.remote = [] ∧ joined.ctxs = [] ∧ NoMonitors joined :=
  ⟨by decide, by decide, by decide, by decide, by unfold NoMonitors; decide⟩

theorem witness_plain_coll : PlainColl joined collOf := by
  refine ⟨by decide, by decide, by decide, by decide, by decide, joined.blk, by decide, by decide⟩

theorem witness_broadcast : recNat collOf.desc 0x18 8 % 8 = 3 ∧ collOf.rank ≠ 1 ∧ recNat collOf.desc 0x18 8 / 65536 % 2048 = 1
    ∧ collOf.shrunk = false ∧ joined.memberState 0x70000 (nth collOf.members 1) ≠ 1 ∧ recNat collOf.desc 0x10 4 * 4 = 32
    ∧ recNat collOf.desc 8 8 % 32 + 32 ≤ 32 ∧ Quiet joined ∧ collOf.ctx.ptpoollen = 0
    ∧ translate joined (agentColl 0) collOf.ctx 0x54000 .write = .ok 0x54000 (0xF8 * 2 ^ 56 + 256) 0x8408 0x40000 0x40000 :=
  ⟨by decide, by decide, by decide, by decide, by decide, by decide, by decide, quiet_sound (by decide), by decide, by decide⟩

theorem test_collectives : nextHas (exec (.collectiveComplete 3 .mismatch) joined) (fun t => t.colls.map (·.status) == [.mismatch] && t.mem == joined.mem)
      = true
    ∧ nextHas (exec (.abort 0 0) joined) (fun t => t.colls.map (·.status) == [.mismatch]) = true
    ∧ nextHas (exec (.progressTimeout 0 5) joined) (fun t => decide (t.tabState 0x70000 1 = 1)) = true
    ∧ nextHas (exec (.heartbeatTimeout 0 5) jobbed) (fun t => decide (t.tabState 0x70000 1 = 1)) = true
    ∧ nextHas (exec (.hold 0 5) jobbed) (fun t => decide (t.tabState 0x70000 1 = 2)) = true
    ∧ nextHas (exec (.release 0 5) { jobbed with mem := jobbed.mem.putNat (stateByte 0x70000 1) 1 2 }) (fun t =>
        decide (t.tabState 0x70000 1 = 0)) = true
    ∧ nextHas (exec (.heartbeatReceive 0 ⟨5, []⟩) { jobbed with timeNs := 88 }) (fun t => decide ((t.job 0).lastBeat 5 = 88)) = true
    ∧ nextHas (exec (.heartbeatSend 0) { jobbed with timeNs := 88 }) (fun t => decide ((t.job 0).nextBeat = 10088)) = true
    ∧ nextHas (exec (.heartbeatSend 0) (({ jobbed with timeNs := 88 } : State).onJob 0 fun j => { j with nextBeat := 99 }))
        (fun t => decide ((t.job 0).nextBeat = 99)) = true := by decide

/-! ### Witnesses: events of cores, schedulers, engines and links -/

/-- A street with an open window, a serviced fault and a passed yield time. -/
def held : State :=
  { demo with
    st := { demo.st with
      windows := [⟨3, [⟨9, Mask.all, SVec.zero⟩], 1, none, none⟩], svc := some ⟨0x60000, 1, 0, 0, 0, 3, 0⟩, stall := some .mem, lastSel := some 0 }
    blk := demo.blk }

theorem witness_held : OnlyStreet held ∧ 0 < held.st.windows.length ∧ held.st.svc ≠ none ∧ held.st.life = .running
    ∧ held.st.tlevel = false ∧ OnlyStreet handler ∧ handler.st.life = .running ∧ handler.st.tlevel = true
    ∧ held.st.yieldUntil ≤ held.clock ∧ held.st.lastSel = some 0 ∧ held.st.block = held.blk.id ∧ held.blk.life = .placed
    ∧ (∀ x ∈ held.st :: held.streets, ∀ i, (x.paths.get i).reason ≠ .wait) :=
  ⟨⟨by decide, by decide⟩, by decide, by decide, by decide, by decide, ⟨by decide, by decide⟩, by decide, by decide, by decide, by decide,
    by decide, by decide, by decide⟩

/-- The same street stopped. -/
def stopped (l : Life) : State := { held with st := { held.st with life := l } }

theorem witness_stopped : OnlyStreet (stopped .halted) ∧ OnlyStreet (stopped .saved) ∧ (stopped .debugStop).st.life = .debugStop :=
  ⟨⟨by decide, by decide⟩, ⟨by decide, by decide⟩, by decide⟩

theorem test_streets : nextHas (exec (.faultPoint held.st.sid 0) held) (fun t => t.st.windows == []) = true
    ∧ nextHas (exec (.servicedFaultReplay (.street held.st.sid) [(0x8410, 0xF8)]) held) (fun t =>
      t.st.svc == none && decide (t.mem.read 0x8410 = 0xF8)) = true
    ∧ nextHas (exec (.haltRequest (.street held.st.sid) false) held) (fun t => t.st.haltReq) = true
    ∧ nextHas (exec (.haltRequest (.street handler.st.sid) true) handler) (fun t => t.st.life == .halted) = true
    ∧ nextHas (exec (.continueRun 1 (some held.st.sid) (some 0x40100)) (stopped .halted)) (fun t =>
      t.st.life == .running && t.st.path.pc == 0x40100) = true
    ∧ nextHas (exec (.blockHalt 1) held) (fun t => t.st.haltReq) = true
    ∧ nextHas (exec (.yieldExpiry held.st.sid) { held with clock := 12, st := { held.st with yieldUntil := 9 } }) (fun t =>
      decide (t.st.yieldUntil = 0)) = true := by decide

/-- A path that waits on a line whose monitor is armed (R186). -/
def asleep : State :=
  { demo with
    st := { demo.st with
      paths := demo.st.paths.set 0 { demo.st.path with reason := .wait, wait := .waita [0xA00] false } }
    cores := [{ Core.zero 0 with monitors := [{ line := 0xA00, slots := [0] }] }] }

theorem witness_monitor : asleep.st.life = .running ∧ asleep.blk.life = .placed ∧ asleep.st.block = asleep.blk.id
    ∧ (asleep.st.paths.get 0).reason = .wait ∧ (asleep.st.paths.get 0).wait = .waita [0xA00] false ∧ asleep.st.isHeld 0 = false
    ∧ (∀ j, j ≠ 0 → (asleep.st.paths.get j).wait = .none) ∧ (∃ c ∈ asleep.cores, ∃ m ∈ c.monitors, m.line = 0xA00)
    ∧ asleep.l2 = [] ∧ asleep.streets = [] := by decide

theorem test_monitor : nextHas (exec (.monitorFire 0xA00) asleep) (fun t => t.st.path.pc == 0x40004 && t.st.path.reason == .branch) = true := by
  decide

/-- A place with 1,024 corrected errors. -/
def worn : State := { demo with corrected := [(0, 5, 1030)] }

theorem witness_words : demo.holdsWord (.hbm 9) = true ∧ demo.holdsWord (.l2 9) = false := by decide

/-- The stored form of the compressed unit at 0 is uncorrectable (R323). -/
def squeezed : State := { demo with upsets := [(.unit 0, 2)] }

theorem test_unit : squeezed.badSector 0x40 4 false = some (2, true) ∧ squeezed.badSector 0x240 4 false = none
    ∧ (squeezed.hbmRead 0 1).poison.length = 16 ∧ (squeezed.hbmRead 0 1).upsets = [] := by decide

theorem witness_worn : worn.corrected = [(0, 5, 1030)] ∧ (worn.die 0).mchecks.full = false := by decide

theorem test_errors : nextHas (exec (.softError (.spad 3 7) 1) demo) (fun t => decide ((t.core 3).cecnt = 1)) = true
    ∧ nextHas (exec (.softError (.hbm 9) 2) demo) (fun t => t.upsets == [(.hbm 9, 2)]) = true
    ∧ nextHas (exec (.correctedErrorThreshold 0 5) worn) (fun t => t.corrected == [(0, 5, 6)] && decide (t.mem.nat 0 4 = 4)) = true
    ∧ nextHas (exec (.parityUpdate 0) { demo with clock := 9, cores := [{ Core.zero 0 with stale := [(0, 1, 9), (0, 2, 10)] }] }) (fun t =>
      (t.core 0).stale == [(0, 2, 10)]) = true
    ∧ nextHas (exec (.l1Eviction 0 2) { demo with cores := [{ Core.zero 0 with l1 := [⟨8, []⟩, ⟨12, []⟩] }] }) (fun t =>
      (t.core 0).l1.map (·.pa) == [12]) = true := by decide

/-- A block with a save request, ready or not: a running path that stands at no safe point is not ready (R171). -/
def saving (l : Life) (since : Nat) : State :=
  { demo with
    st := { demo.st with life := l }, clock := 70000
    blk := { demo.blk with save := some ⟨1, 0x70000, since⟩, safetab := if l = .exited then 0x54000 else 0, waitSince := some 10, candidate := true } }

theorem witness_save : BlockHere demo ∧ demo.blk.save = none ∧ BlockHere (saving .exited 0) ∧ (saving .exited 0).saveReady (saving .exited 0).blk = true
    ∧ (saving .running 0).saveReady (saving .running 0).blk = false ∧ 0 + 65536 ≤ (saving .running 0).clock
    ∧ 10 + 4096 < (saving .running 0).clock :=
  ⟨⟨by decide, by decide, by decide, by decide⟩, by decide, ⟨by decide, by decide, by decide, by decide⟩, by decide, by decide, by decide, by decide⟩

/-- A READY LAUNCH on core 0 of one street with 64 registers, entry 0x10 (R49, R288). -/
def launchRec : TaskRec :=
  { postedTask demo 0x52000 0 (fun _ _ => 0) with
    kind := 6, state := .ready, desc := List.replicate 64 0
    hdr := leBytes 8 0x10 ++ leBytes 8 (8 + 16 + 1024 * 512) ++ List.replicate 48 0 }

/-- A swap candidate whose core a LAUNCH needs. -/
def swapping : State :=
  { demo with
    blk := { demo.blk with candidate := true, hdr := { demo.blk.hdr with streets := 16 } }
    dies := [{ Die.zero 0 with pool := [{ launchRec with hdr := leBytes 8 0x10 ++ leBytes 8 (8 + 16 * 16) ++ List.replicate 48 0 }] }] }

theorem witness_swap : swapping.blk.candidate = true ∧ swapping.blk.save = none ∧ launchRefusal launchRec = 0
    ∧ (∃ d, d < 4 ∧ ∃ q ∈ (swapping.die d).pool, swapping.wantsCore swapping.blk q = true) := by
  refine ⟨by decide, by decide, by decide, 0, by decide, ?_⟩; decide

theorem test_saves : nextHas (exec (.preemptionRequest 1 0x70000) demo) (fun t => t.blk.save == some ⟨1, 0x70000, 0⟩) = true
    ∧ nextHas (exec (.swapCandidate 1) { saving .running 0 with blk := { (saving .running 0).blk with candidate := false } }) (fun t =>
      t.blk.candidate) = true
    ∧ nextHas (exec (.swapOut 1 0x70000) swapping) (fun t => t.blk.save == some ⟨2, 0x70000, 0⟩) = true := by decide

/-- A saved block of one street whose image is at 0x70000. -/
def saved : State :=
  { demo with
    st := { demo.st with life := .saved }
    blk := { demo.blk with life := .saved, image := 0x70000, imageKind := 1 } }

theorem witness_restore : saved.blk.life = .saved ∧ saved.blk.imageKind ≠ 2 ∧ saved.blocks = [] ∧ saved.streets = []
    ∧ (∀ i, (saved.st.paths.get i).wait = .none ∧ (saved.st.paths.get i).reason ≠ .wait)
    ∧ saved.copies.length + (saved.core saved.blk.core).ranges.length ≤ 16
    ∧ saved.coreFit saved.blk.core saved.blk.hdr = some ([0], 0) := by decide

/-- Twins that wait at compare points of these causes, with these CRCs. -/
def twin (me : Bool) (cause : Nat) (crc : Addr) : Pair :=
  { primary := me, twin := if me then mkSid 1 0 1 else placedSid, crc := crc, count := 0, stores := [], waiting := some (cause, 3), go := false
    folded := false, retried := false, granted := []
    check := some ⟨demo.st.regs, 7, 0, demo.st.paths, demo.st.hscr, false, none⟩ }
@[inherit_doc twin] def twins (a b : Nat) (crc : Addr) (clock : Nat) : State :=
  { demo with
    clock := clock, st := { demo.st with pair := some (twin true a 5) }
    streets := [{ neighbour with pair := some (twin false b crc) }] }

theorem witness_twins :
    TwinsWait (twins 6 6 5 9) { neighbour with pair := some (twin false 6 5) } (twin true 6 5) (twin false 6 5) 6
    ∧ TwinsWait (twins 6 6 4 9) { neighbour with pair := some (twin false 6 4) } (twin true 6 5) (twin false 6 4) 6
    ∧ (twin true 6 5).stores = [] ∧ (twin true 6 5).retried = false ∧ (twin true 6 5).check ≠ none
    ∧ (twin false 6 5).waiting.map (·.1) = some 6 ∧ (twin true 6 5).waiting = some (6, 3) ∧ 3 + 2 ^ 20 < (twins 6 6 5 (2 ^ 21)).clock := by
  unfold TwinsWait; decide

theorem test_twins : nextHas (exec (.comparePoint placedSid) (twins 6 6 5 9)) (fun t => match t.st.pair with
      | some p => p.go && decide (p.crc = 0) && p.waiting == none | none => false) = true
    ∧ nextHas (exec (.comparePoint placedSid) (twins 6 6 4 9)) (fun t => match t.st.pair with
      | some p => p.retried && decide (t.st.md = 7) | none => false) = true
    ∧ nextHas (exec (.compareTimeout placedSid) (twins 6 1 5 (2 ^ 21))) (fun t => match t.st.pair with
      | some p => p.retried | none => false) = true := by decide

/-- A record in the pending-launch queue whose LAUNCH descriptor at 0x52100 names the kernel at 0x52200. -/
def pendingRec : TaskRec := { launchRec with opnd := 0x52100, state := .pending }
@[inherit_doc pendingRec]
def pending : State :=
  { demo with
    mem := demo.mem.putNat 0x52100 8 0x52200
    blk := { demo.blk with plq := [⟨placedSid, (0x40004, 0), some pendingRec⟩] } }

theorem witness_ingestion : pending.blk.life = .placed ∧ pending.blk.plq = [⟨placedSid, (0x40004, 0), some pendingRec⟩]
    ∧ pending.blocks = [] ∧ (pending.die (coreDie pending.blk.core)).lastIngest = none
    ∧ (pending.die (coreDie pending.blk.core)).pool.length < 4096
    ∧ (pending.acceptTask pendingRec).toOption.isSome = true := by decide

theorem test_ingestion : nextHas (exec (.ingestion 0) pending) (fun t => t.blk.plq.isEmpty && (t.die 0).pool.map (·.state) == [.ready]
    && (t.die 0).lastIngest == some 0) = true := by decide

/-- A record for a direct post, and the context's weigh area (R254). -/
def postBytes : List Byte := leBytes 8 6 ++ List.replicate 48 0 ++ leBytes 8 0x52100 ++ List.replicate 64 0
@[inherit_doc postBytes] def hosted : State :=
  { pending with ctxs := [⟨(readCtx pending.mem 0x5A000).ctxid, [], 0, 0, 0, 0⟩] }

theorem witness_direct : postBytes.length = 128 ∧ recOk postBytes = true ∧ (hosted.die 0).pool.length < 4096 ∧ (hosted.die 0).directq = []
    ∧ (∃ a ∈ hosted.ctxs, a.ctx = (readCtx hosted.mem 0x5A000).ctxid)
    ∧ (State.acceptTask { hosted with nextId := hosted.nextId + 1 }
        (taskOf postBytes hosted.nextId 0 0 0 (readCtx hosted.mem 0x5A000) 0 none)).toOption.isSome = true := by decide

/-- A machine with nothing placed and a READY LAUNCH (R257). -/
def launchable : State :=
  { State.reset with dies := [{ Die.zero 0 with pool := [launchRec] }], ctxs := [⟨0, [], 0, 0, 0, 0⟩] }

theorem witness_launch : (launchable.die 0).pool = [launchRec] ∧ (∀ d, d < 4 → d ≠ 0 → (launchable.die d).pool = [])
    ∧ launchRec.kind = 6 ∧ launchRec.state = .ready ∧ launchRec.paired = false ∧ launchRec.inputs = [] ∧ launchRefusal launchRec = 0
    ∧ districtOf launchRec.desc = (0, 0, 1, 1) ∧ launchable.allBlocks = [] ∧ launchable.allStreets = []
    ∧ (∃ a ∈ launchable.ctxs, a.ctx = (readCtx launchable.mem launchRec.ctx.desc).ctxid) := by decide

theorem test_dispatch : nextHas (exec (.dispatch 0) launchable) (fun t => match t.streets with
    | [x] => (x.paths.get 0).pc == 0x10 && decide (x.md = 0x0000050000000000) && x.life == .running
    | _ => false) = true := by decide

/-- A completed operation whose turn is next (R250). -/
def turnOf : Completion :=
  { block := 1, ctx := demo.blk.ctx, tl := some 3, num := 3, stamp := none, barrier := none, op := 77, sid := placedSid, far := false, agent := 0
    task := none, stamped := false }
@[inherit_doc turnOf] def turning : State :=
  { demo with blk := { demo.blk with tls := demo.blk.tls.setIfInBounds 3 { Timeline.zero with
      value := 5, issued := 4, made := 2, pend := [turnOf] } } }

theorem witness_turn : Still turning ∧ (turning.blk.tl 3).pend = [turnOf] ∧ turnOf.num = (turning.blk.tl 3).made + 1 :=
  ⟨still (by decide) (by unfold NoMonitors; decide), by decide, by decide⟩

theorem test_turn : nextHas (exec (.timelineAdvance 1 3) turning) (fun t => decide ((t.blk.tl 3).value = 6) && decide ((t.blk.tl 3).made = 3))
    = true := by decide

/-- An operation at the head of the engine queue. -/
def mxOp (kind : MxKind) (st : OpState) (passed : Nat) : MxOp :=
  { id := 8, kind := kind, tile := ⟨0x7000000, 512, 0, 0, 0, 0, 0, 1, 0, 128, 128⟩, recAddr := 0, pan := 2, state := st, kprog := 0, phase := 1
    summary := 4, tl := none, sid := placedSid, passed := passed, aged := false, fault := none, task := none, cluster := 0
    c := ⟨0, 0, 0, false⟩, acc := [] }
@[inherit_doc mxOp] def engined (o : MxOp) (running : Bool) : State :=
  { demo with blk := { demo.blk with mxq := [o] }, engines := if running then [⟨0, some 8, 0, []⟩] else [] }

theorem witness_engine : (∀ k st n r, MxHere (engined (mxOp k st n) r) (mxOp k st n) []) := by
  intro k st n r
  refine ⟨by rfl, by rfl, by simp, ?_, ?_, by rfl, ?_, ?_⟩
  · show ∀ b ∈ demo.blocks, b.mxq = [] ∧ b.id ≠ demo.blk.id; decide
  · cases r <;> simp [engined]
  · show ∀ x ∈ demo.st :: demo.streets, ∀ y ∈ x.windows, y.pan = none; decide
  · show demo.blk.ctx.ctxid ∉ demo.stopped; decide

theorem witness_engine_states : (seqOf (engined (mxOp .panz .queued 16) false) (engined (mxOp .panz .queued 16) false)).run = none
    ∧ (seqOf (engined (mxOp .panz .running 0) true) (engined (mxOp .panz .running 0) true)).run = some 8
    ∧ (∃ f, (engined (mxOp .panld .running 0) true).mxAttempt (mxOp .panld .running 0) 0 = .error (.fault f)) := by
  refine ⟨by decide, by decide, ⟨_, rfl⟩⟩

theorem test_engine : nextHas (exec (.engineChoose 0) (engined (mxOp .panz .queued 0) false)) (fun t =>
      t.blk.mxq.map (·.state) == [.running] && (t.engine 0).run == some 8) = true
    ∧ nextHas (exec (.priorityAgeing 0) (engined (mxOp .panz .queued 16) false)) (fun t => t.blk.mxq.map (·.aged) == [true]) = true
    ∧ nextHas (exec (.engineFetchFault 0) (engined (mxOp .panld .running 0) true)) (fun t =>
      t.blk.mxq.map (·.state) == [.faulted] && (t.engine 0).run == none) = true
    ∧ nextHas (exec (.engineFaultServiced 8 []) (engined (mxOp .panz .faulted 0) false)) (fun t =>
      t.blk.mxq.map (·.state) == [.queued]) = true := by decide

/-- The copy of `copying` in flight. -/
def moving : State :=
  { copying with
    st := { copying.st with fstk := 0 }
    copies := [{
      id := 6, kind := .cpy, sid := placedSid, block := 1, ctx := copying.blk.ctx, core := 0, desc := copying.mem.readN 0x52000 192
      addr := 0x52000, coords := [4, 0, 0, 0, 0], tl := none, task := none, fault := none, agent := agentCopy 0 0 }]
    mem := copying.mem.putNat 0x50004 8 0x1122334455667788 }

theorem witness_copy : Quiet moving ∧ moving.tlbs = [] ∧ moving.blk.life = .placed ∧ moving.blocks = []
    ∧ (∀ i, i < 16 → moving.privateTo none moving.blk.ctx.ctxid (0x50000 + 4 + i) (0x50004 + i) = false)
    ∧ (∀ i, i < 16 → translate moving (agentCopy 0 0) moving.blk.ctx (0x50000 + 4 + i) .read
        = .ok (0x50004 + i) (0xF8 * 2 ^ 56 + 256) 0x8408 0x40000 0x40000)
    ∧ 0x80 + 16 ≤ 256 * moving.blk.hdr.spad :=
  ⟨quiet_sound (by decide), by decide, by decide, by decide, by decide, by decide, by decide⟩

theorem witness_byte_copy : ∀ c ∈ moving.copies, ByteCopy c 0x50000 0x80 4 16 := by
  intro c h
  have e : c = moving.copies.head (by decide) := by
    have k : moving.copies = [moving.copies.head (by decide)] := by decide
    rw [k] at h; exact List.mem_singleton.1 h
  subst e
  refine ⟨by decide, by decide, by decide, by decide, by decide, by decide, by decide, by decide, by decide, by decide, by decide, by decide,
    fun d a b => ?_, by decide, by decide⟩
  have k : d = 1 ∨ d = 2 ∨ d = 3 ∨ d = 4 := by omega
  rcases k with rfl | rfl | rfl | rfl <;> decide

theorem test_copy : nextHas (exec (.copyComplete 6) moving) (fun t =>
    decide (t.blk.spad.nat 0x80 8 = 0x1122334455667788) && t.copies.isEmpty) = true := by decide +kernel

/-- A walk that holds a record whose first word is its key. -/
def stepping (key : Nat) (rule : Nat) : State :=
  { memo with walks := [{ aWalk none false with key := key, rules := [rule], record := some (leBytes 8 7 ++ leBytes 8 0x98765 ++ List.replicate 48 0) }] }

theorem witness_steps : (stepping 7 (2 ^ 10 + 2 ^ 12 * 2)).walks.map (·.steps) = [3] ∧ (2 ^ 10 + 2 ^ 12 * 2) / 2 ^ 10 % 4 ∈ [1, 2]
    ∧ (2 ^ 21) / 2 ^ 20 % 4 ∈ [1, 2] := by decide

theorem test_walk_step : nextHas (exec (.walkStep 9) (stepping 7 (2 ^ 10 + 2 ^ 12 * 2))) (fun t =>
      t.walks.map (fun w => (w.p, w.steps)) == [(0x98765, 4)]) = true
    ∧ nextHas (exec (.walkStep 9) (stepping 8 (2 ^ 21))) (fun t => t.walks.map (fun w => (w.steps, w.record.isSome)) == [(4, true)]) = true := by
  decide

/-- A remote load and a remote store that have been sent. -/
def sent (op : RemoteOp) : State := { demo with remote := [⟨4, placedSid, 2, 2 ^ 40, 0x9000, demo.blk.ctx, op, false, none⟩] }

theorem witness_remote : Quiet memo ∧ memo.tlbs = [] ∧ 0x50010 < 2 ^ 39 ∧ hbmHas 0x50010 = true
    ∧ (sent (.load 4)).remote = [⟨4, placedSid, 2, 2 ^ 40, 0x9000, demo.blk.ctx, .load 4, false, none⟩]
    ∧ (sent (.load 4)).homeFailed (homeDevice (2 ^ 40)) = false ∧ (sent (.reduce .add false 1)).late = [] :=
  ⟨quiet_sound (by decide), by decide, by decide, by decide, by decide, by decide, by decide⟩

theorem test_remote : nextHas (exec (.remoteAccess 0x50010 (.store [1, 2])) memo) (fun t => decide (t.mem.nat 0x50010 4 = 0x44330201)) = true
    ∧ nextHas (exec (.remoteAccess 0x50010 (.atomic .nmin false 5 0)) memo) (fun t => decide (t.mem.nat 0x50010 4 = 5)) = true
    ∧ nextHas (exec (.remoteAccess 0x50010 (.load 4)) memo) (fun t => t.mem == memo.mem) = true
    ∧ nextHas (exec (.remoteAck 4 (.data [9, 8, 7, 6])) (sent (.load 4))) (fun t =>
      t.remote.map (·.reply) == [some (.data [9, 8, 7, 6])]) = true
    ∧ nextHas (exec (.remoteAck 4 (.data [9, 8, 7, 6])) (sent (.atomic .add false 1 0))) (fun t =>
      t.remote.map (·.reply) == [some (.data [9, 8, 7, 6])]) = true
    ∧ nextHas (exec (.remoteAck 4 .done) (sent (.reduce .add false 1))) (fun t => t.remote.isEmpty) = true := by decide

/-- A weigh delta, a translation with counts of a counted page, and an enabled trace. -/
def counted : State :=
  { demo with
    ctxs := [⟨1, List.replicate 32 6, 0, 0, 0, 0⟩], wdeltas := [⟨0, 1, 14, 9⟩]
    tlbs := [⟨0, 1, 0x40000, 0x40000, 0xF800000000000100, 0x8408, none, 3, 2, 1⟩]
    blk := { demo.blk with ctx := { demo.blk.ctx with ptpool := 0x8000, ptpoollen := 0x1000, ctrbase := 0x70000 } } }

/-- 256 packets stand in the trace buffer after the last SYNC. -/
def due : State := { demo with cores := [{ Core.zero 0 with tr := { Trace.zero with en := true, since := 256 } }] }

theorem witness_counts : counted.wdeltas = [⟨0, 1, 14, 9⟩] ∧ nth (List.replicate 32 6) 14 + 9 < 2 ^ 64
    ∧ (counted.tlb? 0 1 0x40000).isSome = true ∧ (counted.ctxDesc? 1).isSome = true
    ∧ counterAddr counted.blk.ctx 0x8408 = some 0x70810 ∧ hbmHas 0x70810 = true
    ∧ (due.core 0).tr.en = true ∧ 256 ≤ (due.core 0).tr.since ∧ (syncPacket due 0).length ≤ (due.core 0).tr.room := by decide

theorem test_counts : nextHas (exec (.weighDeltaFlush 0 1) counted) (fun t => t.ctxs.map (fun a => nth a.counters 14) == [15]) = true
    ∧ nextHas (exec (.pageCounterFlush 0 1 0x40000) counted) (fun t => decide (t.mem.nat 0x70810 4 = 3) && decide (t.mem.nat 0x70814 4 = 2)
      && decide (t.mem.nat 0x70818 4 = 1)) = true
    ∧ nextHas (exec (.traceSync 0) due) (fun t => decide ((t.core 0).tr.buf.read 0 = 0x10)) = true
    ∧ nextHas (exec .arithmeticCycle demo) (fun t => decide (t.clock = 1)) = true
    ∧ nextHas (exec (.contextEnd 1) demo) (fun t => t.allBlocks.isEmpty && t.allStreets.isEmpty) = true := by decide

theorem witness_cycle : 0 < demo.pkg.mhz ∧ (demo.clock + 1) % 4096 ≠ 0 ∧ demo.resident 9 = [] ∧ (demo.core 9).freeze = false ∧ (demo.core 9).left = []
    ∧ ∀ x ∈ demo.allStreets, x.core = 9 → x.life ≠ .running ∧ x.lastIssue ≠ some demo.clock := by decide

theorem test_pool : nextHas (exec (.directPost 0 0x5A000 0 0 postBytes) hosted) (fun t => (t.die 0).pool.map (·.kind) == [6]) = true
    ∧ nextHas (exec (.launchReservation 0) { launchable with dies := [{ Die.zero 0 with pool := [{ launchRec with passed := 64 }] }] }) (fun t =>
      (t.die 0).pool.map (·.reserved) == [true]) = true := by decide

/-! ### Witnesses: what the statements ask beside -/

/-- No monitor is armed in any of these states. -/
theorem witness_no_monitors : NoMonitors invalidating ∧ NoMonitors held ∧ NoMonitors worn ∧ NoMonitors counted
    ∧ NoMonitors (engined (mxOp .panld .running 0) true) ∧ NoMonitors (engined (mxOp .panz .faulted 0) false) ∧ NoMonitors demo := by
  unfold NoMonitors; decide

theorem witness_plain_halts : held.bars = [] ∧ (held.st.windows[0]?.map (·.pan)) = some none ∧ (held.die 0).stops.full = false
    ∧ (held.die 0).stops.waiting = [] ∧ (engined (mxOp .panz .faulted 0) false).bars = [] ∧ worn.bars = [] ∧ counted.bars = []
    ∧ (∀ x ∈ (saving .running 0).st :: (saving .running 0).streets, x.windows = [] ∧ ∀ r ∈ (saving .running 0).remote, r.sid ≠ x.sid)
    ∧ (weighing 9 2).qlock = [] ∧ (weighing 9 2).bars = [] := by decide

/-- A thread of a system core stops with a record that names no street (R370); a context's streets are asked to stop (R155). -/
theorem test_halt_targets : nextHas (exec (.haltRequest (.thread 0 3 4 0x1000) false) held) (fun t =>
      decide (t.mem.nat 8 4 = 0xFFFFFFFF) && decide (t.mem.nat 16 8 = 0x1000)) = true
    ∧ nextHas (exec (.haltRequest (.context 1) false) held) (fun t => t.st.haltReq && t.stopped == [1]) = true := by decide

/-- An operation names pan 5. -/
def panBusy : State :=
  let s := args memo 0x52000 (9 * 256 + 5) 512
  { s with blk := { s.blk with mxq := [{ mxOp .panld .queued 0 with pan := 5 }] } }

theorem witness_pan_named : EngineReady panBusy 20 ∧ argOf panBusy false 20 2 = 9 * 256 + 5 ∧ Named panBusy 5 ∧ panBusy.blk.there = true
    ∧ panBusy.blocks = [] ∧ (∀ x ∈ panBusy.st :: panBusy.streets, ∀ y ∈ x.windows, y.pan = none)
    ∧ (∀ x ∈ memo.st :: memo.streets, ∀ y ∈ x.windows, y.pan = none) := by
  refine ⟨engine_ready (by decide) (by decide), by decide, ⟨_, List.mem_singleton.2 rfl, Or.inl rfl⟩, by decide, by decide, by decide,
    by decide⟩

theorem test_pan_waits : nextHas (exec (.panrd ⟨false, 0, 20⟩) panBusy) (fun t => t.st.stall == some .mem) = true
    ∧ nextHas (exec (.panrd ⟨false, 2, 20⟩) panBusy) (fun t => t.st.path.pc == 0x40004 && t.st.windows.length == 1) = true := by decide

/-- A post finds room at the queue's end, or the entry that its street has reserved (R304). -/
def reservedEntry : State := { posting with blk := { posting.blk with plq := [ownEntry posting none] } }

theorem witness_entries : HasEntry posting [] [] ∧ HasEntry reservedEntry [] [] ∧ NoReserve fullQueue fullQueue.blk.plq := by
  refine ⟨⟨?_, Or.inl (by decide)⟩, ⟨?_, Or.inr (by decide)⟩, ?_⟩ <;> unfold NoReserve <;> decide

theorem witness_walks_start : walking.blk.life = .placed
    ∧ (let s := stepping 7 (2 ^ 10 + 2 ^ 12 * 2)
       (∀ w ∈ s.walks, s.walkSeated w = true ∧ w.due = none ∧ w.rules ≠ [] ∧ w.ended = none ∧ w.fault = none
         ∧ w.steps ≤ w.header % 4096)) := by decide

theorem witness_answers : (sent (.load 4)).homeFailed (homeDevice (2 ^ 40)) = false ∧ (sent (.store [1])).homeFailed (homeDevice (2 ^ 40)) = false
    ∧ (sent (.store [1])).late = [] ∧ (traced.core 0).tr.lost = 0 ∧ (demo.die (coreDie 9)).still = false
    ∧ (demo.die (coreDie 9)).lost ≤ demo.clock
    ∧ (∀ d, d < 4 → ∀ r ∈ (demo.die d).pool ++ (demo.die d).directq, r.ctx.ctxid = 1 ∨ r.state ≠ .waiting) := by decide

theorem witness_measurements : (∀ m ∈ demo.pkg.meas, m.length = 32) ∧ 3 < demo.pkg.meas.length := by decide

/-- The windows read as their registers stand: OWNER and CHANGES, PLIM, MHz, HEAD, and zero where nothing is listed (R344, R345). -/
theorem test_window_reads : (owned 3).windowRead (pkgReg 0) = 3 ∧ demo.windowRead (pkgReg 0x10) = 2800
    ∧ demo.windowRead (pkgReg 0x7F0) = 0 ∧ (invalidating.windowRead (dieReg 0 0x800)).getLsbD 63 = true := by decide

theorem witness_completions : (∀ x ∈ invalidating.allStreets, x.pair = none) ∧ invalidating.mreds = [] ∧ invalidating.remote = []
    ∧ (weighing 9 1).wdeltas = [] ∧ (weighing 9 1).pkg.wbusy = true ∧ (weighing 9 1).pkg.wreq = 1
    ∧ (weighing 8 2).ctxs.all (fun a => a.ctx != 8) = true ∧ (weighing 9 2).inUse 9 = false
    ∧ (monitored.die 0).mons[0]?.map (fun m => (m.en, m.source)) = some (true, 3) := by decide

/-- Objects of every kind that BAR meets (R297): in service, abandoned, none. -/
theorem witness_objects : inService (barred 0 false) (.global 0x53000) = some ⟨.global 0x53000, true, false, 1, 0, 9, 2, 0, [1], false, false⟩
    ∧ inService (barred 0 true) (.global 0x53000) = some ⟨.global 0x53000, true, true, 1, 0, 9, 2, 0, [1], false, false⟩
    ∧ inService memo (.global 0x53000) = none ∧ argOf (barred 0 false) false 20 3 / 4 % 64 = 0 ∧ argOf (barred 0 false) false 20 3 / 2 ^ 16 = 0
    ∧ Still (args memo 0x53000 2 1) ∧ GroupOk (args memo 0x53000 2 1) 20 :=
  ⟨by decide, by decide, by decide, by decide, by decide, still (by decide) (by unfold NoMonitors; decide), by unfold GroupOk; decide⟩

/-- The header of an image of KIND 1 at the highest version, loaded at 0x60000, with nothing behind it. -/
def imageBytes : List Byte :=
  [0x5A, 0x4B, 0x49, 0x4D] ++ leBytes 4 (2 ^ 32 - 1) ++ leBytes 4 1 ++ leBytes 4 0 ++ leBytes 8 0x60000 ++ leBytes 8 0 ++ leBytes 8 0x60010
    ++ List.replicate 24 0

/-- An image passes where the keys and the versions that the part holds let it: both are free here (R348). -/
theorem witness_image (sig : List Byte) (key : Config.imageKeyAccepts imageBytes sig = true) (v : Config.minVersion 1 ≤ 2 ^ 32 - 1) :
    ImagePasses 1 imageBytes sig := by
  refine ⟨by decide, by decide, ?_, by decide, by decide, key⟩
  rw [show recNat imageBytes 4 4 = 2 ^ 32 - 1 by decide]; exact v

theorem witness_image_refused : ¬ ImagePasses 1 [] [] ∧ (booting 1 0).pkg.fetched = none
    ∧ ({ Package.zero with fetched := some ([], []) } : Package).fetched = some ([], []) :=
  ⟨fun h => absurd h.1 (by decide), by decide, by decide⟩

theorem test_boot_phases : nextHas (exec (.imageFetchComplete 0 .begun) (booting 0 0)) (fun t => decide (t.pkg.phase = 1)) = true
    ∧ nextHas (exec (.imageFetchComplete 0 (.image [1] [])) (booting 1 0)) (fun t => decide (t.pkg.phase = 2)) = true
    ∧ nextHas (exec (.clockStep 2800 [0, 105]) demo) (fun t => (t.die 1).hot && !(t.die 0).hot) = true := by decide

/-! ### Witnesses: what engines and copies see of a page, whatever stands outside its tables -/

/-- The tables of a walk lie below 0x40000. -/
def lowTables (m : Memory) (va : Nat) : List (Nat × Nat × Nat) → Nat → Bool
  | [], _ => true
  | (_, lo, w) :: rest, pa =>
    let ea := pa + 8 * bits va lo w
    decide (ea + 8 ≤ 0x40000) && lowTables m va rest (bits (m.nat ea 8) 10 42 * 1024)

theorem nat_congr {m k : Memory} {a n : Nat} (h : ∀ i < n, k.read (a + i) = m.read (a + i)) : k.nat a n = m.nat a n := by
  unfold Memory.nat
  congr 1
  induction n generalizing a with
  | zero => rfl
  | succ n ih =>
    simp only [Memory.readN]
    rw [show k.read a = m.read a from h 0 (by omega), ih fun i hi => by
      have := h (i + 1) (by omega)
      rwa [show a + (i + 1) = a + 1 + i by omega] at this]

theorem walk_congr {m k : Memory} (h : ∀ a < 0x40000, k.read a = m.read a) (va : Nat) (ls : List (Nat × Nat × Nat)) (pa : Nat)
    (l : lowTables m va ls pa = true) : walkTable k va ls pa = walkTable m va ls pa := by
  induction ls generalizing pa with
  | nil => rfl
  | cons x rest ih =>
    obtain ⟨level, lo, w⟩ := x
    simp only [lowTables, Bool.and_eq_true, decide_eq_true_eq] at l
    have e : k.nat (pa + 8 * bits va lo w) 8 = m.nat (pa + 8 * bits va lo w) 8 := nat_congr fun i _ => h _ (by omega)
    simp only [walkTable, e, ih _ l.2]

theorem shift_page {x y : Nat} (h : x / 2 ^ 18 = y / 2 ^ 18) {lo : Nat} (l : 18 ≤ lo) : x / 2 ^ lo = y / 2 ^ lo := by
  rw [show (2 : Nat) ^ lo = 2 ^ 18 * 2 ^ (lo - 18) by rw [← Nat.pow_add]; congr 1; omega, ← Nat.div_div_eq_div_mul,
    ← Nat.div_div_eq_div_mul, h]

theorem walk_page {m : Memory} {x y : Nat} (h : x / 2 ^ 18 = y / 2 ^ 18) (ls : List (Nat × Nat × Nat)) (hl : ∀ l ∈ ls, 18 ≤ l.2.1)
    (pa : Nat) : walkTable m x ls pa = walkTable m y ls pa := by
  induction ls generalizing pa with
  | nil => rfl
  | cons z rest ih =>
    obtain ⟨level, lo, w⟩ := z
    have d := shift_page h (hl _ List.mem_cons_self)
    simp only [walkTable, bits, Nat.shiftRight_eq_div_pow, d, ih fun l k => hl l (List.mem_cons_of_mem _ k)]

/-- What is to be shown of a page of 256 KB that lies at its own address: its leaf and the format that it gives. -/
def pageAt (s : State) (c : CtxDesc) (acc : Acc) (b fmt : Nat) : Bool :=
  lowTables s.mem b ptLevels c.ptroot && s.tlbs.isEmpty && decide (b % 2 ^ 18 = 0) && decide (b + 2 ^ 18 ≤ 2 ^ 34)
    && (s.allStreets.all fun x => x.fstk == 0)
    && match walkTable s.mem b ptLevels c.ptroot with
      | .leaf pte _ base _ _ => decide (ptePFN pte * 2 ^ 18 = b) && decide (base = b) && pteAllows pte acc && decide (pteFMT pte = fmt)
        && !pteRH pte
      | _ => false

theorem page_sees {s : State} {agent : Nat} {c : CtxDesc} {acc : Acc} {b fmt va n : Nat} (p : pageAt s c acc b fmt = true)
    (lo : b ≤ va) (hi : va + n ≤ b + 2 ^ 18) (m : Memory) (hm : ∀ a < 0x40000, m.read a = s.mem.read a) :
    EngineSees { s with mem := m } agent c acc fmt va va n := by
  simp only [pageAt, Bool.and_eq_true, decide_eq_true_eq, List.isEmpty_iff, List.all_eq_true, beq_iff_eq] at p
  obtain ⟨⟨⟨⟨⟨tables, tlb⟩, al⟩, top⟩, st⟩, leaf⟩ := p
  refine ⟨by omega, fun x hx => ?_⟩
  have w : walkTable m (va + x) ptLevels c.ptroot = walkTable s.mem b ptLevels c.ptroot := by
    rw [walk_page (y := b) (by omega) _ (by decide), walk_congr hm _ _ _ tables]
  split at leaf
  · rename_i pte ea base size level e
    simp only [Bool.and_eq_true, decide_eq_true_eq, Bool.not_eq_true'] at leaf
    obtain ⟨⟨⟨⟨pfn, rfl⟩, may⟩, f⟩, far⟩ := leaf
    have c1 : Machine.canonical (va + x) = true := by
      have : bits (va + x) 56 8 = 0 := by rw [bits, Nat.shiftRight_eq_div_pow]; omega
      rw [Machine.canonical, this]; rfl
    have lt : (va + x) % 2 ^ 57 = va + x := by omega
    have pa : ptePFN pte * 2 ^ 18 + (va + x - base) = va + x := by rw [pfn]; omega
    have has : hbmHas (va + x) = true := by
      unfold hbmHas stackOf stackBytes
      rw [Bool.and_eq_true, decide_eq_true_eq, decide_eq_true_eq]; omega
    refine ⟨pte, ea, base, size, ?_, f, far, ?_⟩
    · simp only [Machine.translate, c1, walkNow, lt, w, e, State.tlb?, tlb, List.find?_nil, useLeaf, may, pa, leafHas, has, Bool.or_true,
        Bool.not_true, Bool.false_eq_true, if_true, if_false, Xl.withVa]
    · simp only [State.privateTo, State.strange, Bool.or_eq_false_iff, List.any_eq_false, Bool.and_eq_true, not_and]
      refine ⟨fun t ht h => absurd (st t ht) (by simp only [Street.inFrames, Bool.and_eq_true, bne_iff_ne] at h; exact h.1.1), fun t ht => ?_⟩
      split <;> simp [st t ht]
  · cases leaf

/-- The state with its own memory. -/
theorem page_sees_now {s : State} {agent : Nat} {c : CtxDesc} {acc : Acc} {b fmt va n : Nat} (p : pageAt s c acc b fmt = true)
    (lo : b ≤ va) (hi : va + n ≤ b + 2 ^ 18) : EngineSees s agent c acc fmt va va n := page_sees p lo hi s.mem fun _ _ => rfl

/-- A running operation of one step on rows at 0x50000 and 0x58000, metadata or variances from 0x60000 and 0x68000 on. -/
def streamOp (kind : MxKind) : MxOp :=
  { mxOp kind .running 0 with tile := ⟨0x50000, 1024, 0x58000, 1024, 0x60000, 0x68000, 32, 1, 0, 2, 3⟩ }
@[inherit_doc streamOp] def streaming (kind : MxKind) : State :=
  { engined (streamOp kind) true with st := { demo.st with fstk := 0 } }

theorem streaming_page (kind : MxKind) (acc : Acc) (h : acc = .read ∨ acc = .write) :
    pageAt (streaming kind) (streaming kind).blk.ctx acc 0x40000 0 = true := by
  rcases h with rfl | rfl <;> cases kind <;> decide

theorem streaming_plane (kind : MxKind) (acc : Acc) (h : acc = .read ∨ acc = .write) (base stride rows len : Nat) (m : Memory)
    (hm : ∀ a < 0x40000, m.read a = (streaming kind).mem.read a) (al : base % 4 = 0 ∧ stride % 4 = 0) (lo : 0x40000 ≤ base)
    (hi : base + rows * stride + len ≤ 0x80000) :
    PlaneAt { streaming kind with mem := m } acc base stride rows len fun i => base + i * stride :=
  ⟨al.1, al.2, fun i hi' => page_sees (streaming_page kind acc h) (by omega)
    (by have := Nat.mul_le_mul_right stride (Nat.le_of_lt hi'); omega) m hm⟩

theorem witness_accumulate (kind : MxKind) : MxHere (streaming kind) (streamOp kind) []
    ∧ (seqOf (streaming kind) (streaming kind)).run = some (streamOp kind).id
    ∧ patternTable[(streamOp kind).tile.pattern]? = some (2, 4, 4, 2, 32)
    ∧ (∀ base ∈ [0x50000, 0x58000, 0x60000, 0x68000], PlaneAt (streaming kind) .read base 1024 3 1024 fun i => base + i * 1024)
    ∧ (∀ i, i < 2 → EngineSees (streaming kind) (agentMx 0) (streaming kind).blk.ctx .read 0 (0x60000 + i * 32) (0x60000 + i * 32) 32)
    ∧ PlaneAt (streaming kind) .read 0x50000 1024 128 512 (fun i => 0x50000 + i * 1024)
    ∧ ∀ m : Memory, (∀ a, (∀ i, i < 128 → a < 0x50000 + i * 1024 ∨ 0x50000 + i * 1024 + 512 ≤ a) → m.read a = (streaming kind).mem.read a) →
      PlaneAt { streaming kind with mem := m } .write 0x50000 1024 128 512 fun i => 0x50000 + i * 1024 := by
  have pl (base rows len : Nat) (al : base % 4 = 0) (lo : 0x40000 ≤ base) (hi : base + rows * 1024 + len ≤ 0x80000) :
      PlaneAt (streaming kind) .read base 1024 rows len fun i => base + i * 1024 :=
    streaming_plane kind .read (.inl rfl) base 1024 rows len (streaming kind).mem (fun _ _ => rfl) ⟨al, rfl⟩ lo hi
  refine ⟨⟨rfl, rfl, by simp, ?_, ?_, rfl, ?_, ?_⟩, ?_, rfl, ?_, ?_, ?_, ?_⟩
  · show ∀ b ∈ demo.blocks, b.mxq = [] ∧ b.id ≠ demo.blk.id; decide
  · simp [streaming, engined]
  · show ∀ x ∈ ({ demo.st with fstk := 0 } : Street) :: demo.streets, ∀ y ∈ x.windows, y.pan = none; decide
  · show demo.blk.ctx.ctxid ∉ demo.stopped; decide
  · cases kind <;> decide
  · intro base h
    simp only [List.mem_cons, List.not_mem_nil, or_false] at h
    rcases h with rfl | rfl | rfl | rfl <;> exact pl _ _ _ (by omega) (by omega) (by omega)
  · exact fun i h => page_sees_now (streaming_page kind .read (.inl rfl)) (by omega) (by omega)
  · exact pl _ _ _ (by omega) (by omega) (by omega)
  · exact fun m hm => streaming_plane kind .write (.inr rfl) _ _ _ _ m (fun a h => hm a fun i _ => .inl (by omega)) ⟨rfl, rfl⟩ (by omega)
      (by omega)

theorem witness_streaming_quiet : quiet (streaming .mmt) = true ∧ (streaming .mmt).blk.pans.wf = true ∧ (streaming .mmt).tlbs = []
    ∧ (streaming .mmt).blk.ctx.ptpoollen = 0 ∧ (streaming .mmt).mem.wf = true := by decide

/-- The descriptor of a copy of one dimension: 3 elements from A to D, from coordinate 1 on for `c0`, with the types of its sides. -/
def lineDesc (a d red src dst : Nat) : List Byte :=
  let side (x : Nat) : List Byte := leBytes 8 x ++ List.replicate 32 0 ++ leBytes 2 4 ++ leBytes 8 (1 + 2 ^ 16 + 2 ^ 32 + 2 ^ 48)
  side a ++ leBytes 2 3 ++ leBytes 8 (1 + 2 ^ 16 + 2 ^ 32 + 2 ^ 48) ++ leBytes 4 src
    ++ side d ++ List.replicate 10 0 ++ leBytes 4 dst ++ List.replicate 24 0 ++ leBytes 8 red ++ List.replicate 32 0

/-- The descriptor of SALN on one row of 256 elements, and of SMETA (R299). -/
def salDesc (m : Bool) : List Byte :=
  leBytes 8 0x50000 ++ leBytes 8 1024 ++ (if m then List.replicate 16 0 else leBytes 8 0x51000 ++ leBytes 8 1024) ++ leBytes 8 0x52000
    ++ leBytes 8 1024 ++ leBytes 8 (if m then 0x53000 else 0) ++ leBytes 8 (1 + 2 ^ 16)

/-- One copy of `halfPage`'s context in flight; its page at 0x80000 holds f16 elements. -/
def lineCopy (kind : CopyKind) (desc : List Byte) (c0 : Int) : CopyOp :=
  { id := 6, kind := kind, sid := placedSid, block := 1, ctx := halfPage.blk.ctx, core := 0, desc := desc, addr := 0x52000
    coords := [c0, 0, 0, 0, 0], tl := none, task := none, fault := none, agent := agentCopy 0 0 }
@[inherit_doc lineCopy] def lineCopies : List CopyOp :=
  [ lineCopy .cpyred (lineDesc 0x50000 0x54000 1 1 1) 1, lineCopy .cpy (lineDesc 0x80000 0x80 0 33 289) 0,
    lineCopy .cpy (lineDesc 0x80 0x80000 0 289 33) 1, lineCopy .saln (salDesc false) 0, lineCopy .smeta (salDesc true) 0 ]
@[inherit_doc lineCopy] def lining (c : CopyOp) : State := { halfPage with st := { halfPage.st with fstk := 0 }, copies := [c] }

theorem witness_copy_here : ∀ c ∈ lineCopies, CopyHere (lining c) c [] := by
  have q : ∀ c ∈ lineCopies, quiet (lining c) = true ∧ c.ctx.ptpoollen = 0 ∧ (lining c).tlbs = []
      ∧ (∀ b ∈ (lining c).blocks, b.id ≠ (lining c).blk.id) ∧ ((lining c).mem.wf = true ∧ (lining c).blk.spad.wf = true)
      ∧ c.task = none ∧ c.tl = none ∧ c.fault = none ∧ c.block = (lining c).blk.id := by decide
  have k : ∀ c ∈ lineCopies, (lining c).st.pair = none ∧ (lining c).upsets = []
      ∧ (∀ w ∈ (lining c).blk.ctx.watch, bit w.1 63 = false) ∧ (lining c).bars = []
      ∧ (∀ x ∈ (lining c).cores, x.ranges = [] ∧ x.stale = [] ∧ ∀ r ∈ x.ret, r.1 = false)
      ∧ ((lining c).blk.life = .placed ∧ ∀ b ∈ (lining c).blocks, b.life ≠ .saved) := by decide
  have n : ∀ c ∈ lineCopies, NoMonitors (lining c) := by unfold NoMonitors; decide
  intro c h
  obtain ⟨a, b, d, e, f, g⟩ := q c h
  exact ⟨quiet_sound a, calm (k c h) (n c h), ⟨d, b⟩, e, f, ⟨rfl, by simp⟩, g⟩

/-- Whatever stands outside the destination, the pages of a copy are seen as they are. -/
theorem witness_copy_sees (c : CopyOp) (hc : c ∈ lineCopies) (acc : Acc) (h : acc = .read ∨ acc = .write) (va n : Nat) (m : Memory)
    (hm : ∀ a < 0x40000, m.read a = (lining c).mem.read a) :
    (0x40000 ≤ va → va + n ≤ 0x80000 → EngineSees { lining c with mem := m } c.agent c.ctx acc 0 va va n)
    ∧ (0x80000 ≤ va → va + n ≤ 0xC0000 → EngineSees { lining c with mem := m } c.agent c.ctx acc 8 va va n) := by
  have p : ∀ c ∈ lineCopies, ∀ acc ∈ [Acc.read, .write], pageAt (lining c) c.ctx acc 0x40000 0 = true
      ∧ pageAt (lining c) c.ctx acc 0x80000 8 = true := by decide
  have q := p c hc acc (by rcases h with rfl | rfl <;> simp)
  exact ⟨fun lo hi => page_sees q.1 lo hi m hm, fun lo hi => page_sees q.2 lo hi m hm⟩

theorem witness_line_copies : LineCopy (lineCopy .cpyred (lineDesc 0x50000 0x54000 1 1 1) 1) .cpyred 0x50000 0x54000 1 3 1 1
    ∧ recNat (lineDesc 0x50000 0x54000 1 1 1) 0x98 8 % 8 = 1
    ∧ LineCopy (lineCopy .cpy (lineDesc 0x80000 0x80 0 33 289) 0) .cpy 0x80000 0x80 0 3 33 289
    ∧ LineCopy (lineCopy .cpy (lineDesc 0x80 0x80000 0 289 33) 1) .cpy 0x80 0x80000 1 3 289 33 := by
  refine ⟨⟨rfl, rfl, ?_, ?_, ?_, ?_, ?_, ?_, ?_, ?_, ?_, ?_⟩, ?_, ⟨rfl, rfl, ?_, ?_, ?_, ?_, ?_, ?_, ?_, ?_, ?_, ?_⟩,
    ⟨rfl, rfl, ?_, ?_, ?_, ?_, ?_, ?_, ?_, ?_, ?_, ?_⟩⟩ <;>
    decide

theorem witness_prunes (m : Bool) : let f := recNat (salDesc m)
    f 0x38 8 / 2 ^ 12 % 4 = 0 ∧ f 0x38 8 % 2 ^ 12 = 1 ∧ f 0x38 8 / 2 ^ 16 % 2 ^ 16 = 1 ∧ f 0 8 = 0x50000 ∧ f 0x20 8 = 0x52000
      ∧ (m = false → f 0x10 8 = 0x51000) ∧ (m = true → f 0x30 8 = 0x53000) := by
  cases m <;> decide

/-- Two nonzero values at most in each group of four: every element of the row at 0x50000 but the first is zero. -/
theorem witness_groups : ∀ g, g < 64 → ((List.range 4).filter fun j => halfPage.mem.nat (0x50000 + 4 * (g * 4 + j)) 4 % 2 ^ 31 != 0).length ≤ 2 := by
  decide

/-- A walk into the scratchpad of its block: holding a record that matches its one rule, at a null pointer, with its steps spent. -/
def ending (p steps : Nat) (r : Option (List Byte)) : State :=
  { walked none false with walks := [{ aWalk none false with p := p, steps := steps, record := r, rules := [2 ^ 20 * 0] }] }

theorem witness_walk_ends : ∀ q ∈ [(0x50000, 3, some (leBytes 8 7 ++ List.replicate 56 0)), (0, 3, none), (0x50000, 101, none)],
    let s := ending q.1 q.2.1 q.2.2
    (∀ w ∈ s.walks, w.ended = none ∧ w.fault = none ∧ w.due = none ∧ s.walkSeated w = true ∧ w.rules ≠ [] ∧ w.dest = .spad s.blk.id 0x800
        ∧ w.header % 4096 = 100)
      ∧ s.blk.life = .placed ∧ s.blk.spad.wf = true ∧ s.blocks = [] ∧ s.upsets = [] ∧ s.bars = [] ∧ s.travs = [] := by decide

theorem test_walk_ends : nextHas (exec (.walkStep 9) (ending 0x50000 3 (some (leBytes 8 7 ++ List.replicate 56 0)))) (fun t =>
      t.walks.map (·.ended) == [some 0x10000004] && decide (t.blk.spad.nat 0x800 8 = 7)) = true
    ∧ nextHas (exec (.walkStep 9) (ending 0 3 none)) (fun t => t.walks.map (·.ended) == [some 0x20000003]) = true := by decide

/-! ### Witnesses: block floating point -/

/-- A page of format 4 (five-bit mantissas in bytes) at 0x80000, blocks of 8, its scale bytes from 0x57000 on (R76, R84). -/
def blockPage : State :=
  let s := pairAt memo 2 0x80000
  { s with
    st := { s.st with fstk := 0, paths := s.st.paths.set s.st.sel { s.st.path with mask := Mask.all } }
    blk := { s.blk with ctx := { s.blk.ctx with scalebase := 0x56000 } }
    mem := (((s.mem.putNat 0x8410 8 (0xF8 * 2 ^ 56 + 4 * 2 ^ 52 + 2 * 256)).putNat 0x56000 8 0x57000).putNat 0x56008 8
      (2 ^ 63 + 3 * 2 ^ 57 + 0x80000)).putNat 0x57000 1 129 }

theorem witness_block_run (acc : Acc) (h : acc = .read ∨ acc = .write) :
    BlockRun blockPage (ldW .b32) acc 4 8 1 0x80000 0x80000 (0xF8 * 2 ^ 56 + 4 * 2 ^ 52 + 512) (fun l => 0x57000 + l.val / 8)
    ∧ (∀ l : Lane, Mapped blockPage .read (0x57000 + l.val / 8) (0x57000 + l.val / 8) ∧ Mapped blockPage .atomic (0x57000 + l.val / 8) (0x57000 + l.val / 8)
      ∧ Mapped blockPage .write (0x57000 + l.val / 8) (0x57000 + l.val / 8)) ∧ blockPage.active = Mask.all := by
  have t : ∀ a ∈ [Acc.read, .write], ∀ l : Lane, translate blockPage 0 blockPage.blk.ctx (0x80000 + 1 * l.val * 8 / 8) a
      = .ok (0x80000 + 1 * l.val * 8 / 8) (0xF8 * 2 ^ 56 + 4 * 2 ^ 52 + 512) 0x8410 0x80000 0x40000 := by decide
  have ha : acc ∈ [Acc.read, .write] := by rcases h with rfl | rfl <;> simp
  have e : ∀ i ∈ [0, 8], walkNow blockPage 0 blockPage.blk.ctx (0x56000 + i) .read
      = .ok (0x56000 + i) (0xF8 * 2 ^ 56 + 256) 0x8408 0x40000 0x40000 := by decide
  refine ⟨⟨⟨rfl, by unfold PairOk; decide, by unfold RegsFor; decide, quiet_sound (by decide), by decide, l1_fresh (by decide) (by decide), by decide⟩,
    by decide, ⟨0, by decide, by decide⟩, ⟨0x8410, 0x80000, 0x40000, t acc ha 0⟩,
    fun l _ => ⟨0x8410, 0x80000, 0x40000, t acc ha l, by rfl⟩, by decide, ⟨0x57000, 2 ^ 63 + 3 * 2 ^ 57 + 0x80000, ⟨fun i hi => ?_, by decide, by decide⟩,
    fun l _ => (by decide : ∀ l : Lane, 0x57000 + l.val / 8 = scaleByte 0x57000 (2 ^ 63 + 3 * 2 ^ 57 + 0x80000) 3 (0x80000 + 1 * l.val * 8 / 8)) l⟩,
    fun l _ i _ => no_counter (by decide) _⟩, fun l => ?_, by decide⟩
  · have m : i = 0 ∨ i = 8 := by simpa using hi
    refine ⟨_, _, _, _, _, e i hi, by decide, ?_⟩
    rcases m with rfl | rfl <;> decide
  · have q : ∀ l : Lane, isMapped blockPage .read (0x57000 + l.val / 8) (0x57000 + l.val / 8) = true
        ∧ isMapped blockPage .atomic (0x57000 + l.val / 8) (0x57000 + l.val / 8) = true
        ∧ isMapped blockPage .write (0x57000 + l.val / 8) (0x57000 + l.val / 8) = true := by decide
    exact ⟨mapped_sound (q l).1, mapped_sound (q l).2.1, mapped_sound (q l).2.2⟩

/-- Mantissa 12 under the scale byte 129 is 12 × 2^(129 − 127 − 4) = 3 (R76); ST.KEEPEXP puts 3 back as 12 (R79). -/
theorem test_blocks : after (exec (.ld (ldW .b32)) (oneLane { blockPage with mem := blockPage.mem.putNat 0x80000 1 12 })) 8 0 = some 0x40400000
    ∧ nextHas (exec (.st ⟨false, ⟨false, 4⟩, 2, 0, .keepexp, .plain, false, false⟩) (oneLane (reg blockPage 4 0x40400000))) (fun t =>
      decide (t.mem.nat 0x57000 1 = 129) && decide (t.mem.nat 0x80000 1 = 12)) = true := by decide

/-- The page of a run that does not start at a multiple of its length (R85). -/
theorem witness_run_at : RunAt (pairAt halfPage 2 0x80040) 2 .read 8 0x80040 ∧ RunAt (pairAt halfPage 2 0x80040) 2 .write 8 0x80040
    ∧ 0x80040 % (64 * 1 * 16 / 8) ≠ 0 ∧ quiet (pairAt halfPage 2 0x80040) = true := by
  refine ⟨⟨0, by decide, by decide, 0x80040, 0xF8 * 2 ^ 56 + 8 * 2 ^ 52 + 512, 0x8410, 0x80000, 0x40000, by decide, by decide⟩,
    ⟨0, by decide, by decide, 0x80040, 0xF8 * 2 ^ 56 + 8 * 2 ^ 52 + 512, 0x8410, 0x80000, 0x40000, by decide, by decide⟩, by decide, by decide⟩

/-! ### Witnesses: the form of memories, and what else the statements ask -/

theorem witness_canonical : memo.mem.wf = true ∧ halfPage.mem.wf = true ∧ redS.mem.wf = true ∧ (∀ b ∈ (local_ 0x40).allBlocks, b.spad.wf = true)
    ∧ panBusy.blk.pans.wf = true ∧ jobbed.mem.wf = true ∧ joined.mem.wf = true ∧ worn.mem.wf = true ∧ held.mem.wf = true
    ∧ counted.mem.wf = true ∧ tinted.mem.wf = true ∧ contended.mem.wf = true ∧ (traced.core 0).tr.buf.wf = true ∧ ctl.mem.wf = true
    ∧ (∀ r ∈ redS.mreds, redS.privateTo r.sid r.ctx.ctxid r.va r.pa = false) ∧ (engined (mxOp .panz .running 0) true).blk.pans.wf = true := by
  decide

theorem witness_all_canonical : AllCanonical (barred 0 false) ∧ AllCanonical (barred 0 true) ∧ AllCanonical (args memo 0x53000 2 1) := by
  unfold AllCanonical; decide

theorem witness_pool_events : (pending.die 0).held = none ∧ pending.taskFault pendingRec = none
    ∧ State.taskFault { hosted with nextId := hosted.nextId + 1 }
        (taskOf postBytes hosted.nextId 0 0 0 (readCtx hosted.mem 0x5A000) 0 none) = none
    ∧ (jobbed.job 0).aborted = [] ∧ handler.st.pair = none := by decide

theorem witness_exact : ExactAt 0 (powerCode false 1) (powerCode false (-1)) ∧ ExactAt 1 (powerCode false 4) (powerCode false (-2))
    ∧ ExactAt 3 (intCode 3) (powerCode false 3) ∧ ExactAt 4 (powerCode false (-5)) (intCode (-5))
    ∧ ExactAt 4 0x3F800000 0 :=
  ⟨.rcp false 1 (by decide) (by decide), .rsq 2 (by decide) (by decide), .exp2 3 (by decide) (by decide) (by decide),
    .log2 (-5) (by decide) (by decide), .log2 0 (by decide) (by decide)⟩

end Sys2Proof.Tests
end

section
/-! SUPPORT. The selection of a path (R58): what each of its three rules picks, and the turn of a street that has no path to run. -/

namespace Sys2Proof.Machine

/-! ### Choosing the first entry of an order -/

/-- A chooser that runs through a list from its end and keeps the entry that comes first in an order. -/
structure PicksFirst {α : Type} (before : α → α → Prop) (pick : List α → Option α) : Prop where
  refl  : ∀ a, before a a
  trans : ∀ {a b c}, before a b → before b c → before a c
  nil   : pick [] = none
  last  : ∀ {a as}, pick as = none → pick (a :: as) = some a
  cons  : ∀ {a b as}, pick as = some b →
    (pick (a :: as) = some b ∧ before b a) ∨ (pick (a :: as) = some a ∧ before a b)

section
variable {α : Type} {before : α → α → Prop} {pick : List α → Option α}

theorem PicksFirst.eq_nil_of_none (h : PicksFirst before pick) {as : List α} (hn : pick as = none) : as = [] := by
  cases as with
  | nil => rfl
  | cons a as =>
    cases hp : pick as with
    | none => simp [h.last hp] at hn
    | some b =>
      rcases h.cons (a := a) hp with ⟨hb, -⟩ | ⟨ha, -⟩
      · simp [hb] at hn
      · simp [ha] at hn

theorem PicksFirst.mem_and_before (h : PicksFirst before pick) {as : List α} {x : α} (hx : pick as = some x) :
    x ∈ as ∧ ∀ b ∈ as, before x b := by
  induction as generalizing x with
  | nil => simp [h.nil] at hx
  | cons a as ih =>
    cases hp : pick as with
    | none =>
      obtain rfl : a = x := by simpa [h.last hp] using hx
      simp [h.eq_nil_of_none hp, h.refl]
    | some b =>
      obtain ⟨hmem, hfirst⟩ := ih hp
      rcases h.cons (a := a) hp with ⟨hb, hba⟩ | ⟨ha, hab⟩
      · obtain rfl : b = x := by simpa [hb] using hx
        exact ⟨List.mem_cons_of_mem _ hmem, List.forall_mem_cons.2 ⟨hba, hfirst⟩⟩
      · obtain rfl : a = x := by simpa [ha] using hx
        exact ⟨List.mem_cons_self, List.forall_mem_cons.2 ⟨h.refl a, fun c hc => h.trans hab (hfirst c hc)⟩⟩

end

/-! ### The orders of rules 2 and 3 -/

/-- The order of rule 3 of R58: the deeper entry, then the lower PC. -/
def PathEntry.deeperFirst (e f : PathEntry) : Prop :=
  f.depth < e.depth ∨ (f.depth = e.depth ∧ e.pc.toNat ≤ f.pc.toNat)

/-- The order of rule 2 of R58: the entry of greater AGE, then as rule 3. -/
def PathEntry.olderFirst (e f : PathEntry) : Prop := f.age < e.age ∨ (f.age = e.age ∧ e.deeperFirst f)

theorem bestEntry_picksFirst : PicksFirst (fun e f => e.2.deeperFirst f.2) bestEntry where
  refl _ := .inr ⟨rfl, le_rfl⟩
  trans hab hbc := by unfold PathEntry.deeperFirst at *; omega
  nil := rfl
  last h := by simp [bestEntry, h]
  cons h := by
    simp only [bestEntry, h]
    split
    · exact .inl ⟨rfl, by unfold PathEntry.deeperFirst; omega⟩
    · exact .inr ⟨rfl, by unfold PathEntry.deeperFirst; omega⟩

theorem oldestEntry_picksFirst : PicksFirst (fun e f => e.2.olderFirst f.2) oldestEntry where
  refl e := .inr ⟨rfl, bestEntry_picksFirst.refl e⟩
  trans hab hbc := by unfold PathEntry.olderFirst PathEntry.deeperFirst at *; omega
  nil := rfl
  last h := by simp [oldestEntry, h]
  cons h := by
    simp only [oldestEntry, h]
    split
    · exact .inl ⟨rfl, by unfold PathEntry.olderFirst PathEntry.deeperFirst; omega⟩
    · exact .inr ⟨rfl, by unfold PathEntry.olderFirst PathEntry.deeperFirst; omega⟩

/-! ### The selection -/

section
variable {t : Street} {all : List (Fin 8 × PathEntry)} {k : Fin 8} {r : Bool}

/-- The entries of AGE 256 or more, among which rule 2 of R58 chooses. -/
def agedEntries (all : List (Fin 8 × PathEntry)) : List (Fin 8 × PathEntry) := all.filter fun e => decide (256 ≤ e.2.age)

@[simp] theorem mem_agedEntries {e : Fin 8 × PathEntry} : e ∈ agedEntries all ↔ e ∈ all ∧ 256 ≤ e.2.age := by
  simp [agedEntries]

/-- R58's three rules in their order of priority, where R149 passes over no entry. -/
theorem selectFrom_of_passOver_none (hp : t.passOver = none) :
    t.selectFrom all = match all.find? fun e => decide (0 < e.2.grant) with
      | some e => some (e.1, false)
      | none => match oldestEntry (agedEntries all) with
        | some e => some (e.1, true)
        | none => (bestEntry all).map fun e => (e.1, false) := by
  unfold Street.selectFrom
  rw [hp]
  rfl

/-- The rule of R58 that has chosen the selected entry, with what the rules before it found. -/
theorem selectFrom_cases (hp : t.passOver = none) (h : t.selectFrom all = some (k, r)) :
    ∃ e, ((k, e) ∈ all ∧ 0 < e.grant ∧ r = false)
      ∨ ((∀ f ∈ all, f.2.grant = 0) ∧ oldestEntry (agedEntries all) = some (k, e) ∧ r = true)
      ∨ ((∀ f ∈ all, f.2.grant = 0) ∧ agedEntries all = [] ∧ bestEntry all = some (k, e) ∧ r = false) := by
  rw [selectFrom_of_passOver_none hp] at h
  split at h
  next e hg =>
    obtain ⟨rfl, rfl⟩ : e.1 = k ∧ false = r := by simpa using h
    exact ⟨e.2, .inl ⟨List.mem_of_find?_eq_some hg, by simpa using List.find?_some hg, rfl⟩⟩
  next hg =>
    have noGrant : ∀ f ∈ all, f.2.grant = 0 := fun f hf => by simpa using List.find?_eq_none.1 hg f hf
    split at h
    next e ho =>
      obtain ⟨rfl, rfl⟩ : e.1 = k ∧ true = r := by simpa using h
      exact ⟨e.2, .inr (.inl ⟨noGrant, ho, rfl⟩)⟩
    next ho =>
      obtain ⟨e, hb, hk⟩ := Option.map_eq_some_iff.1 h
      obtain ⟨rfl, rfl⟩ : e.1 = k ∧ false = r := by simpa using hk
      exact ⟨e.2, .inr (.inr ⟨noGrant, oldestEntry_picksFirst.eq_nil_of_none ho, hb, rfl⟩)⟩

theorem selectFrom_isSome_of_ne_nil (hp : t.passOver = none) (hne : all ≠ []) : (t.selectFrom all).isSome = true := by
  rw [selectFrom_of_passOver_none hp]
  split
  · rfl
  · split
    · rfl
    · rw [Option.isSome_map, Option.isSome_iff_ne_none]
      exact mt bestEntry_picksFirst.eq_nil_of_none hne

/-- No entry comes before the one that rule 2 chooses, not even one that has not reached AGE 256. -/
theorem oldestEntry_agedEntries {e : Fin 8 × PathEntry} (h : oldestEntry (agedEntries all) = some e) :
    e ∈ all ∧ 256 ≤ e.2.age ∧ ∀ f ∈ all, e.2.olderFirst f.2 := by
  obtain ⟨hmem, hfirst⟩ := oldestEntry_picksFirst.mem_and_before h
  obtain ⟨hall, hage⟩ := mem_agedEntries.1 hmem
  refine ⟨hall, hage, fun f hf => ?_⟩
  by_cases hfa : 256 ≤ f.2.age
  · exact hfirst f (mem_agedEntries.2 ⟨hf, hfa⟩)
  · exact .inl (by omega)

end

/-! ### The agenda is nothing that eligibility looks at -/

theorem safeScan_agenda (s : State) (ts : List Turn) (b : Block) (off n i : Nat) :
    safeScan { s with agenda := ts } b off n i = safeScan s b off n i := by
  induction n generalizing i with
  | zero => rfl
  | succ n ih =>
    have hword : State.virtNat? { s with agenda := ts } b.ctx (b.safetab + 8 * i) 4 = s.virtNat? b.ctx (b.safetab + 8 * i) 4 := rfl
    simp only [safeScan, hword, ih]

theorem safePoint_agenda (s : State) (ts : List Turn) (b : Block) (pc : Addr) :
    State.safePoint { s with agenda := ts } b pc = s.safePoint b pc := by
  simp only [State.safePoint, safeScan_agenda]

theorem mayRun_agenda (s : State) (ts : List Turn) (b : Block) (t : Street) :
    State.mayRun { s with agenda := ts } b t = s.mayRun b t := by
  have hfar (e : PathEntry) : State.readsFar { s with agenda := ts } t e = s.readsFar t e := rfl
  simp only [State.mayRun, safePoint_agenda, hfar]

theorem eligible_agenda (s : State) (ts : List Turn) (b : Block) (t : Street) :
    State.eligible { s with agenda := ts } b t = s.eligible b t := by
  have hsent : State.areaSent { s with agenda := ts } t = s.areaSent t := rfl
  have hdie : State.die { s with agenda := ts } t.die = s.die t.die := rfl
  simp only [State.eligible, mayRun_agenda, hsent, hdie]

/-! ### The turn of a street that may not issue -/

theorem eligible_of_mayRun_nil {s : State} {b : Block} {t : Street} (hrun : s.mayRun b t = []) (hhalt : t.haltDue = false) :
    s.eligible b t = false := by
  simp [State.eligible, hrun, hhalt]

@[simp] theorem focus_self {s : State} (hthere : s.st.there = true) : s.focus s.st.sid = s := by
  simp [State.focus, hthere]

theorem issuePlan_of_not_eligible {s : State} (hthere : s.st.there = true) (he : s.eligible s.blk s.st = false) :
    s.issuePlan s.st.sid = .over (.next s) := by
  simp [State.issuePlan, State.mayIssue, hthere, he]

/-- The turn of a street that is not eligible issues nothing, with the package powered or not. -/
theorem step_of_not_eligible {s : State} {rest : List Turn} (hturn : s.agenda = .issue s.st.sid :: rest)
    (hthere : s.st.there = true) (he : s.eligible s.blk s.st = false) : step s = .next { s with agenda := rest } := by
  rw [← eligible_agenda s rest] at he
  have hplan : s.plan = .over (.next { s with agenda := rest }) := by
    unfold State.plan
    rw [hturn]
    by_cases hpower : s.pkg.powered = true
    · simpa [hpower] using issuePlan_of_not_eligible (s := { s with agenda := rest }) hthere he
    · simp [hpower]
  simp [step, hplan]

/-! ### O6 -/

/-- Settles O6, by which of R58's three rules has chosen the selected entry. -/
theorem selectionFollowsGrantAgeDepth : Obligations.SelectionFollowsGrantAgeDepth := by
  unfold Obligations.SelectionFollowsGrantAgeDepth
  constructor
  · intro s rest hturn hthere hrun hhalt
    have he := eligible_of_mayRun_nil hrun hhalt
    exact ⟨he, step_of_not_eligible hturn hthere he⟩
  · intro t all hp
    refine ⟨selectFrom_isSome_of_ne_nil hp, fun k r h => ?_⟩
    obtain ⟨e, ⟨hmem, hgrant, hr⟩ | ⟨noGrant, ho, hr⟩ | ⟨noGrant, noAged, hb, hr⟩⟩ := selectFrom_cases hp h
    · exact ⟨e, hmem, .inl ⟨hgrant, hr⟩⟩
    · obtain ⟨hmem, hage, hfirst⟩ := oldestEntry_agedEntries ho
      exact ⟨e, hmem, .inr (.inl ⟨noGrant, hr, hage, hfirst⟩)⟩
    · obtain ⟨hmem, hfirst⟩ := bestEntry_picksFirst.mem_and_before hb
      have young : ∀ f ∈ all, f.2.age < 256 := by simpa [List.eq_nil_iff_forall_not_mem] using noAged
      exact ⟨e, hmem, .inr (.inr ⟨fun f hf => ⟨noGrant f hf, young f hf⟩, hr, hfirst⟩)⟩

end Sys2Proof.Machine
end

section
/-! SUPPORT. Special registers (R151 to R153): what SREAD reads and what SWRITE puts, outside every window, and the two instructions
run once on a state in which no check of theirs fails. -/

namespace Sys2Proof.Machine

open Sys2Proof.Say

/-! ### Register operands outside every window -/

theorem readReg_of_no_windows {t : Street} (h : t.windows = []) (tick k : Nat) (r : RegNo) :
    t.readReg tick k r = t.regs.get r.toFin := by
  simp [Street.readReg, h]

theorem setReg_of_no_windows {t : Street} (h : t.windows = []) (r : RegNo) (m : Mask) (v : SVec) :
    t.setReg r m v = { t with regs := (t.setReg r m v).regs } := by
  have hw : (t.setReg r m v).windows = t.windows := by simp [Street.setReg, h]
  rw [setReg_eq, hw]

@[simp] theorem regPlus_zero (r : RegNo) : regPlus r 0 = r := by simp [regPlus]

theorem permute_lane (md : Addr) (slot : Nat) (v : SVec) (l : Lane) :
    (SVec.permute md slot v).lane l
      = v.lane (if slot = 0 then l else permLane (mdPerm md slot).1 (mdPerm md slot).2 l) := by
  unfold SVec.permute
  split <;> simp

/-- R12's four kinds of permutation, as `permLane` gives them. -/
theorem permLane_eq_ofNat (kind k : Nat) (l : Lane) :
    permLane kind k l = Fin.ofNat 64 (if kind = 0 then (l.val + k) % 64 else if kind = 1 then k
      else if kind = 2 then l.val ^^^ k else (k + 64 - l.val) % 64) := by
  have ofNat_mod (n : Nat) : Fin.ofNat 64 (n % 64) = Fin.ofNat 64 n := Fin.ext (Nat.mod_mod n 64)
  match kind with
  | 0 => exact (ofNat_mod _).symm
  | 1 => rfl
  | 2 => rfl
  | _ + 3 => exact (ofNat_mod _).symm

theorem permute_rdReg_lane {s : State} (h : s.st.windows = []) (k slot : Nat) (r : RegNo) (l : Lane) :
    (SVec.permute s.st.md slot (s.rdReg k r)).lane l = readLane s r slot l := by
  rw [permute_lane, State.rdReg, readReg_of_no_windows h]
  by_cases hslot : slot = 0
  · simp [readLane, hslot]
  · simp only [readLane, if_neg hslot, permLane_eq_ofNat, mdPerm, bits, Nat.shiftRight_eq_div_pow]
    rfl

theorem regsOk_one_iff (n : Nat) (r : RegNo) : regsOk n r 1 = true ↔ r.toNat < n := by
  simp [regsOk, Nat.mod_one]

/-- A register source of one word gathers its value, needs no entry and pops none. -/
theorem gather_reg (s : State) (r : RegNo) (slot : Nat) :
    s.gather [(.reg r slot, 1)] = ⟨[[SVec.permute s.st.md slot (s.rdReg 0 r)]], [], []⟩ := by
  simp [State.gather, State.gather1]

theorem chanBad_reg (s : State) (r : RegNo) (slot : Nat) : s.chanBad (.reg r slot) = false := rfl

theorem present_of_no_need (s : State) (vals : List Val) (pops : List (Nat × Nat)) : s.present ⟨vals, [], pops⟩ = true := rfl

theorem popAll_of_no_pops (s : State) (vals : List Val) (need : List (Nat × Nat)) : s.popAll ⟨vals, need, []⟩ = s := rfl

theorem srcBroken_of_no_upsets {s : State} (h : s.upsets = []) (lanes : Mask) (x : Src × Nat) :
    s.srcBroken lanes x = none := by
  simp [State.srcBroken, h]

/-! ### The values of MD -/

theorem mdGuardReg_toNat (md : Addr) : (mdGuardReg md).toNat = md.toNat / 2 ^ 6 % 64 := by
  simp [mdGuardReg, Nat.shiftRight_eq_div_pow]

theorem mdMrho_toNat (md : Addr) : (mdMrho md).toNat = md.toNat / 2 ^ 45 % 64 := by
  simp [mdMrho, Nat.shiftRight_eq_div_pow]

theorem mdRemapReg_toNat (md : Addr) : (mdRemapReg md).toNat = md.toNat / 2 ^ 58 := by
  have := md.isLt
  simp only [mdRemapReg, BitVec.extractLsb'_toNat, Nat.shiftRight_eq_div_pow]
  omega

/-- POL and REG of GUARD are seven bits of MD in a row (R54). -/
theorem guard_zero_iff (md : Addr) :
    mdGuardPol md = false ∧ mdGuardReg md = 0 ↔ md.toNat / 2 ^ 6 % 128 = 0 := by
  have hpol : mdGuardPol md = decide (md.toNat / 2 ^ 12 % 2 = 1) := by
    rw [mdGuardPol, BitVec.getLsbD, Nat.testBit_eq_decide_div_mod_eq]
  have hzero : (0 : RegNo).toNat = 0 := rfl
  rw [hpol, decide_eq_false_iff_not, ← BitVec.toNat_inj, mdGuardReg_toNat, hzero]
  omega

/-- The model's check of MD accepts what R54 allows. -/
theorem mdOk_iff_mdAllowed (md : Addr) (regs : Nat) : mdOk md regs = true ↔ mdAllowed md regs := by
  have hguard : (mdGuardEn md || (!mdGuardPol md && mdGuardReg md == 0)) = true
      ↔ (md.getLsbD 13 = false → md.toNat / 2 ^ 6 % 128 = 0) := by
    rw [← guard_zero_iff, ← mdGuardEn]
    cases mdGuardEn md <;> simp
  have htype : mdType md ≤ 11 ↔ md.toNat % 16 < 12 := by
    simp only [mdType, bits, Nat.shiftRight_zero]
    omega
  have hscope : mdScope md ≤ 6 ↔ md.toNat / 2 ^ 40 % 8 < 7 := by
    simp only [mdScope, bits, Nat.shiftRight_eq_div_pow]
    omega
  simp only [mdOk, mdAllowed, Bool.and_eq_true, decide_eq_true_eq, hguard, htype, hscope, mdGuardReg_toNat, mdMrho_toNat,
    mdRemapReg_toNat, and_assoc]

/-! ### The special registers -/

theorem isHscr_iff (n : Nat) : isHscr n = true ↔ 22 ≤ n ∧ n ≤ 25 := by simp [isHscr]

theorem privSpecial_iff (n : Nat) : privSpecial n = true ↔ 16 ≤ n ∧ n ≤ 21 := by simp [privSpecial]

/-- SREAD reads the values of R153. -/
theorem special_eq_specialValue {s : State} (h : s.st.windows = []) (l : Lane) :
    ∀ n, s.special n l = specialValue s l n
  | 1 => by simp [State.special, specialValue, Street.readSr, h]
  | 7 => by cases ht : s.st.tlevel <;> simp [State.special, specialValue, b2n, ht]
  | 0 | 2 | 3 | 4 | 5 | 6 | 8 | 9 | 10 | 11 | 12 | 13 | 14 | 15 | 16 | 17 | 18 | 19 | 20 | 21 | 22 | 23 | 24 | 25 => rfl
  | _ + 26 => rfl

/-- SWRITE puts what R153 says. -/
theorem putSpecial_eq_specialPut {t : Street} (h : t.windows = []) (x : Word) (v : SVec) :
    ∀ n, t.putSpecial n x v = specialPut t x v n
  | 1 => by simp [Street.putSpecial, specialPut, srMask, h]
  | 0 | 2 | 3 | 4 | 5 | 6 | 7 | 8 | 9 | 10 | 11 | 12 | 13 | 14 | 15 | 16 | 17 | 18 | 19 | 20 | 21 | 22 | 23 | 24 | 25 => rfl
  | _ + 26 => rfl

@[simp] theorem specialPut_paths (t : Street) (x : Word) (v : SVec) (n : Nat) : (specialPut t x v n).paths = t.paths := by
  unfold specialPut; split <;> rfl

@[simp] theorem specialPut_sel (t : Street) (x : Word) (v : SVec) (n : Nat) : (specialPut t x v n).sel = t.sel := by
  unfold specialPut; split <;> rfl

/-- An instruction is not idle when a lane is active, or when it acts whatever lanes are. -/
theorem idle_eq_false {m : Mask} {b : Bool} (h : m ≠ 0 ∨ b = false) : (decide (m = 0) && b) = false := by
  rcases h with hm | hb
  · rw [decide_eq_false hm, Bool.false_and]
  · rw [hb, Bool.and_false]

/-! ### SREAD -/

/-- The state after the read itself: CLKLO, number 13, latches the high word of the clock for CLKHI (R153). -/
def State.latched (s : State) (n : Nat) : State :=
  if n = 13 then s.onSt fun t => { t with clkhi := BitVec.ofNat 32 (s.dieClock t.die / 2 ^ 32) } else s

theorem latched_eq (s : State) (n : Nat) :
    s.latched n = { s with st := { s.st with
      clkhi := if n = 13 then BitVec.ofNat 32 (s.dieClock s.st.die / 2 ^ 32) else s.st.clkhi } } := by
  unfold State.latched
  split <;> rfl

/-- The lanes that SREAD writes: all 64 under U = 1 or for an HSCR register (R63, R152). -/
def sreadMask (w : FSread) (s : State) : Mask := if w.u || isHscr w.n.toNat then Mask.all else s.active

theorem sreadMask_has (w : FSread) (s : State) (l : Lane) :
    (sreadMask w s).has l = true ↔ w.u = true ∨ (22 ≤ w.n.toNat ∧ w.n.toNat ≤ 25) ∨ s.active.has l = true := by
  rw [← isHscr_iff, sreadMask]
  cases w.u <;> cases isHscr w.n.toNat <;> simp [all_has]

/-- The values that SREAD writes: under U = 1 lane 0's in every lane, but each lane's own of an HSCR register (R63, R152). -/
def sreadWords (w : FSread) (s : State) : SVec :=
  SVec.gen fun l => s.special w.n.toNat (if w.u && !isHscr w.n.toNat then 0 else l)

theorem sreadWords_lane {s : State} (h : s.st.windows = []) (w : FSread) (l : Lane) :
    (sreadWords w s).lane l
      = specialValue s (if w.u = true ∧ ¬ (22 ≤ w.n.toNat ∧ w.n.toNat ≤ 25) then 0 else l) w.n.toNat := by
  simp only [sreadWords, gen_lane, special_eq_specialValue h, ← isHscr_iff]
  simp

/-- The whole of SREAD, where its destination is declared and it writes some lane. -/
theorem exec_sread {w : FSread} {s : State} (hd : w.d.toNat < s.blk.hdr.regs)
    (hlive : s.active ≠ 0 ∨ isHscr w.n.toNat = true) :
    exec (.sread w) s = .next (((s.latched w.n.toNat).rewrote w.d 1 (sreadMask w s)).onSt fun t =>
      t.setReg w.d (sreadMask w s) (sreadWords w s)).done := by
  have hregs : regsOk s.blk.hdr.regs w.d 1 = true := (regsOk_one_iff _ _).2 hd
  have hidle : (s.active = 0 && !isHscr w.n.toNat) = false := idle_eq_false (by simpa using hlive)
  show execSread w s = _
  simp only [execSread, hregs, hidle, Bool.not_true, Bool.false_eq_true, if_false]
  rfl

/-- SREAD's half of O39: the registers, the latched clock and the frame, from `exec_sread`. -/
theorem specialRegistersAreRead : SpecialRegistersAreRead := by
  intro w s _ hd hwin hlive
  have hclk : w.n.toNat = 13 ↔ w.n = 13 := by
    rw [← BitVec.toNat_inj]; rfl
  refine ⟨_, exec_sread hd (hlive.imp_right (isHscr_iff _).2), ?_, ?_, ?_, ?_, ?_⟩
  · rw [latched_eq]
    exact ⟨rfl, rfl⟩
  · have hwin' : ((s.latched w.n.toNat).rewrote w.d 1 (sreadMask w s)).st.windows = [] := by
      rw [latched_eq]; exact hwin
    simp only [State.onSt]
    rw [setReg_of_no_windows hwin', latched_eq]
    rfl
  · intro hup
    simp [latched_eq, hup]
  · simp [latched_eq, hclk]
  · intro r l
    rw [done_st_regs, onSt_st, setReg_lane, rewrote_st, latched_eq]
    simp only [sreadMask_has, sreadWords_lane hwin]

/-! ### SWRITE from a register -/

/-- The words that SWRITE takes from its register, through the permutation slot (R12). -/
def swriteWords (w : FSwrite) (s : State) : SVec := SVec.gen fun l => readLane s w.a.idx w.a.p.toNat l

/-- The street with the special register written: one lane's value, and all of them for an HSCR register (R151, R152). -/
def swriteStreet (w : FSwrite) (s : State) : Street :=
  specialPut s.st ((swriteWords w s).lane (argLane w.u s.active)) (swriteWords w s) w.n.toNat

theorem done_onSt_swriteStreet (w : FSwrite) (s : State) :
    (s.onSt fun _ => swriteStreet w s).done = { s with st := { swriteStreet w s with
      paths := s.st.paths.set s.st.sel { s.st.path with pc := s.st.path.pc + 4 }, stall := none } } := by
  have hpaths : (swriteStreet w s).paths = s.st.paths := specialPut_paths ..
  have hsel : (swriteStreet w s).sel = s.st.sel := specialPut_sel ..
  simp only [State.done, State.onSt, Street.onPath, Street.path, hpaths, hsel]

/-- The whole of SWRITE from a declared register, where it writes: the check of MD, then that of the privilege, then the write. -/
theorem exec_swrite_reg {w : FSwrite} {s : State} (hreg : w.a.chan = false) (hidx : w.a.idx.toNat < s.blk.hdr.regs)
    (hwin : s.st.windows = []) (hup : s.upsets = []) (hlive : s.active ≠ 0 ∨ isHscr w.n.toNat = true) :
    exec (.swrite w) s =
      if mdOk (swriteStreet w s).md s.blk.hdr.regs = false then .next (s.takeTrap 1 0 0)
      else if privSpecial w.n.toNat && s.blk.ctx.user then .next (s.takeTrap 2 0 0)
      else .next (s.onSt fun _ => swriteStreet w s).done := by
  have hsrc : srcOfA w.a = .reg w.a.idx w.a.p.toNat := by simp [srcOfA, hreg]
  have hok : (Src.reg w.a.idx w.a.p.toNat).ok s.blk.hdr.regs false 1 = true :=
    (regsOk_one_iff _ _).2 hidx
  have hidle : (s.active = 0 && (!isHscr w.n.toNat || Src.isChan (.reg w.a.idx w.a.p.toNat))) = false :=
    idle_eq_false (by simpa [Src.isChan] using hlive)
  have hwords : (SVec.gen fun l => Val.word [SVec.permute s.st.md w.a.p.toNat (s.rdReg 0 w.a.idx)] 0 l) = swriteWords w s := by
    refine svec_ext fun l => ?_
    simp only [swriteWords, gen_lane]
    exact permute_rdReg_lane hwin 0 _ _ l
  have hput : s.st.putSpecial w.n.toNat ((swriteWords w s).lane (argLane w.u s.active)) (swriteWords w s) = swriteStreet w s :=
    putSpecial_eq_specialPut hwin _ _ _
  have hdone : (s.onSt fun t => t.putSpecial w.n.toNat ((swriteWords w s).lane (argLane w.u s.active)) (swriteWords w s))
      = s.onSt fun _ => swriteStreet w s := congrArg (fun t => { s with st := t }) hput
  show execSwrite w s = _
  simp only [execSwrite, hsrc, hok, gather_reg, List.getD_cons_zero, hwords, hput, hidle, chanBad_reg, present_of_no_need,
    popAll_of_no_pops, srcBroken_of_no_upsets hup, hdone]
  simp

theorem isHscr_of_writable {n : Nat} (hn : n ∈ writable) (h : 22 ≤ n) : isHscr n = true := by
  rw [isHscr_iff]
  simp only [writable, List.mem_cons, List.not_mem_nil, or_false] at hn
  omega

/-- SWRITE's half of O39: the write, ILLEGAL and PRIV are the three branches of `exec_swrite_reg`. -/
theorem specialRegistersAreWritten : SpecialRegistersAreWritten := by
  intro w s hn hreg hidx hwin hup hlive v lane u
  have hrun := exec_swrite_reg hreg hidx hwin hup (hlive.imp_right (isHscr_of_writable hn))
  have hmd : mdOk (swriteStreet w s).md s.blk.hdr.regs = true ↔ mdAllowed u.md s.blk.hdr.regs := mdOk_iff_mdAllowed _ _
  have hpriv := privSpecial_iff w.n.toNat
  refine ⟨fun hallowed hopen => ?_, fun hforbidden => ?_, fun hallowed hlo hhi huser => ?_⟩
  · have huser : (privSpecial w.n.toNat && s.blk.ctx.user) = false := by
      by_cases hp : privSpecial w.n.toNat = true
      · simp [hopen (hpriv.1 hp).1 (hpriv.1 hp).2]
      · simp [hp]
    rw [hrun, if_neg (by simp [hmd.2 hallowed]), if_neg (by simp [huser]), done_onSt_swriteStreet]
    rfl
  · rw [hrun, if_pos (Bool.eq_false_iff.2 (mt hmd.1 hforbidden))]
  · rw [hrun, if_neg (by simp [hmd.2 hallowed]), if_pos (by simp [hpriv.2 ⟨hlo, hhi⟩, huser])]

/-! ### O39 -/

/-- Settles O39: SREAD and SWRITE each run once under the statement's hypotheses, and what they leave is read off. -/
theorem specialRegistersAreReadAndWritten : Obligations.SpecialRegistersAreReadAndWritten :=
  ⟨specialRegistersAreRead, specialRegistersAreWritten⟩

end Sys2Proof.Machine
end

section
/-! SUPPORT. CHMAP and CHSTAT (R205 to R208): each run once on a state in which none of its checks but that of CHANS fails. -/

namespace Sys2Proof.Machine

/-- Where no word is uncorrectable, a write of registers leaves nothing to forget. -/
theorem rewrote_of_no_upsets {s : State} (h : s.upsets = []) (r : RegNo) (n : Nat) (m : Mask) : s.rewrote r n m = s := by
  have hup : (s.rewrote r n m).upsets = s.upsets := by rw [rewrote_upsets, h, List.filter_nil]
  exact congrArg (fun us => { s with upsets := us }) hup

/-- What CHMAP makes of the channel: unbound under bit 31 of the word that it reads, else bound to the queue of its low four
bits (R207). -/
def chmapBinding (w : FChan) (s : State) : Option Nat :=
  let q := (s.st.regs.get w.i.toFin).lane (argLane w.u s.active)
  if q.getLsbD 31 then none else some (q.toNat % 16)

theorem done_onSt_setChans (s : State) (chans : Vector (Option Nat) 64) :
    (s.onSt fun t => { t with chans := chans }).done = { s with st := { s.st with
      chans := chans, paths := s.st.paths.set s.st.sel { s.st.path with pc := s.st.path.pc + 4 }, stall := none } } := rfl

/-! ### The channels past the declared ones -/

section
variable {w : FChan} {s : State} (hreg : w.i.toNat < s.blk.hdr.regs)
include hreg

theorem exec_chmap_past_chans (hc : s.blk.hdr.chans ≤ w.c.toNat) : exec (.chmap w) s = .next (s.takeTrap 9 0 0) := by
  show execChmap w s = _
  simp [execChmap, (regsOk_one_iff _ _).2 hreg, hc]

theorem exec_chstat_past_chans (hc : s.blk.hdr.chans ≤ w.c.toNat) : exec (.chstat w) s = .next (s.takeTrap 9 0 0) := by
  show execChstat w s = _
  simp [execChstat, (regsOk_one_iff _ _).2 hreg, hc]

/-! ### The declared channels -/

variable (hc : w.c.toNat < s.blk.hdr.chans) (hup : s.upsets = []) (hlive : s.active ≠ 0)
include hc hup hlive

/-- The whole of CHMAP on a declared channel, with a lane active (R207). -/
theorem exec_chmap (hwin : s.st.windows = []) :
    exec (.chmap w) s
      = .next (s.onSt fun t => { t with chans := s.st.chans.set w.c.toNat (chmapBinding w s) }).done := by
  have hread : s.rdReg 0 w.i = s.st.regs.get w.i.toFin := readReg_of_no_windows hwin _ _ _
  show execChmap w s = _
  simp only [execChmap, (regsOk_one_iff _ _).2 hreg, Nat.not_le.2 hc, hlive, srcBroken_of_no_upsets hup, hread,
    Bool.not_true, Bool.false_eq_true, if_false]
  rfl

/-- The whole of CHSTAT on a declared channel, with a lane active: its register is written and nothing else (R208). -/
theorem exec_chstat :
    exec (.chstat w) s = .next (s.onSt fun t => t.setReg w.i (if w.u then Mask.all else s.active)
      (SVec.splat (s.chanState w.c))).done := by
  show execChstat w s = _
  simp only [execChstat, (regsOk_one_iff _ _).2 hreg, Nat.not_le.2 hc, hlive, rewrote_of_no_upsets hup,
    Bool.not_true, Bool.false_eq_true, if_false]

end

/-- The lanes that an instruction writes under U: all 64, or those that are active (R63). -/
theorem allOrActive_has (u : Bool) (act : Mask) (l : Lane) :
    (if u then Mask.all else act).has l = true ↔ u = true ∨ act.has l = true := by
  cases u <;> simp [all_has]

theorem chanState_of_unbound {s : State} {c : RegNo} (h : s.st.chans.get c.toFin = none) : s.chanState c = 0 := by
  simp [State.chanState, h]

/-- The word of a bound channel: BOUND, QUEUE and COUNT (R208). -/
theorem chanState_of_bound {s : State} {c : RegNo} {q : Nat} (h : s.st.chans.get c.toFin = some q) :
    s.chanState c = BitVec.ofNat 32 (2 ^ 31 + q * 65536 + min (s.queue q).length 8 * 256) := by
  simp [State.chanState, h]

/-! ### O9 -/

/-- Settles O9: below CHANS by the one run of each instruction, past it by the trap. -/
theorem channelsBindAndReport : Obligations.ChannelsBindAndReport := by
  intro w s hreg hwin hup hlive lane x
  refine ⟨fun hc => ⟨?_, _, exec_chstat hreg hc hup hlive, ⟨rfl, rfl⟩, ?_, fun r l => ?_⟩, fun hc =>
    ⟨exec_chmap_past_chans hreg hc, exec_chstat_past_chans hreg hc⟩⟩
  · rw [exec_chmap hreg hc hup hlive hwin, done_onSt_setChans]
    rfl
  · simp only [State.onSt]
    rw [setReg_of_no_windows hwin]
    rfl
  · rw [done_st_regs, onSt_st, setReg_lane, splat_lane]
    simp only [allOrActive_has]
    cases hbound : s.st.chans.get w.c.toFin with
    | none => simp only [chanState_of_unbound hbound]
    | some q => simp only [chanState_of_bound hbound]

end Sys2Proof.Machine
end

section
/-! SUPPORT. CLRSYNC and CLRQ (R211, R223, R224): the check of the region table against the statement's validity of its entries, the
lookups of a colour instruction, and each instruction run once on a state in which none of its earlier checks fails. -/

namespace Sys2Proof.Machine

open Sys2Proof.Say

/-! ### Numbers in memory -/

theorem leNat_lt (bs : List Byte) : leNat bs < 256 ^ bs.length := by
  induction bs with
  | nil => simp [leNat]
  | cons b bs ih =>
    have hb : b.toNat < 256 := b.isLt
    simp only [leNat, List.length_cons, Nat.pow_succ]
    omega

theorem Memory.nat_lt (m : Memory) (a n : Nat) : m.nat a n < 256 ^ n := by
  have h := leNat_lt (m.readN a n)
  rwa [Memory.length_readN] at h

theorem bits_eq (x lo w : Nat) : bits x lo w = x / 2 ^ lo % 2 ^ w := by
  rw [bits, Nat.shiftRight_eq_div_pow]

/-! ### The check of a region table -/

/-- R211 on entry i by itself, as `TableValid` asks it of each entry. -/
def EntryValid (m : Memory) (pa : Nat → Nat) (i : Nat) : Prop :=
  m.nat (pa i) 8 % 128 = 0 ∧ m.nat (pa i) 8 / 2 ^ 57 = 0 ∧ m.nat (pa i + 8) 8 % 128 = 0
    ∧ m.nat (pa i + 8) 8 / 2 ^ 60 = 0 ∧ (tableEntry m pa i).colour ≠ 0 ∧ (tableEntry m pa i).len ≠ 0
    ∧ (tableEntry m pa i).base + (tableEntry m pa i).len ≤ 2 ^ 57

/-- R211 on the entries from i on below k, where the entries before i end at `last`. -/
def TailValid (m : Memory) (pa : Nat → Nat) (i k last : Nat) : Prop :=
  (∀ j, i ≤ j → j < k → EntryValid m pa j) ∧ (i < k → last ≤ (tableEntry m pa i).base)
    ∧ ∀ j, i ≤ j → j + 1 < k →
        (tableEntry m pa j).base + (tableEntry m pa j).len ≤ (tableEntry m pa (j + 1)).base

theorem tableValid_iff_tailValid (m : Memory) (pa : Nat → Nat) (n : Nat) : TableValid m pa n ↔ TailValid m pa 0 n 0 := by
  simp [TableValid, TailValid, EntryValid]

theorem tailValid_of_le {m : Memory} {pa : Nat → Nat} {i k last : Nat} (h : k ≤ i) : TailValid m pa i k last :=
  ⟨fun j _ _ => by omega, fun _ => by omega, fun j _ _ => by omega⟩

theorem tailValid_step {m : Memory} {pa : Nat → Nat} {i k last : Nat} (h : i < k) :
    TailValid m pa i k last ↔ (EntryValid m pa i ∧ last ≤ (tableEntry m pa i).base)
      ∧ TailValid m pa (i + 1) k ((tableEntry m pa i).base + (tableEntry m pa i).len) := by
  constructor
  · rintro ⟨hall, hlast, hnext⟩
    exact ⟨⟨hall i le_rfl h, hlast h⟩, fun j hj => hall j (by omega), hnext i le_rfl, fun j hj => hnext j (by omega)⟩
  · rintro ⟨⟨hi, hlast⟩, hall, hfirst, hnext⟩
    refine ⟨fun j hj hk => ?_, fun _ => hlast, fun j hj hk => ?_⟩
    · obtain rfl | hlt := Nat.eq_or_lt_of_le hj
      · exact hi
      · exact hall j hlt hk
    · obtain rfl | hlt := Nat.eq_or_lt_of_le hj
      · exact hfirst hk
      · exact hnext j hlt hk

/-- The two words of an entry, on a page of this device. -/
def entryWords (m : Memory) (pa : Nat → Nat) (i : Nat) : Nat × Nat := (m.nat (pa i) 8, m.nat (pa i + 8) 8)

theorem crtWords_of_local {s : State} {pte : Nat} (h : pteRH pte = false) (pa : Nat → Nat) (i : Nat) :
    crtWords s (pa i) pte = entryWords s.mem pa i := by
  simp [crtWords, State.tableNat, entryWords, h]

theorem crtEntry_entryWords (m : Memory) (pa : Nat → Nat) (i : Nat) :
    crtEntry (entryWords m pa i)
      = ((tableEntry m pa i).base, (tableEntry m pa i).len, (tableEntry m pa i).colour) := by
  simp [crtEntry, entryWords, tableEntry, bits_eq]

/-- BASE past the end of the entries before is above their bases, so that the model's check of ascending bases adds nothing. -/
theorem crtBad_eq_false_iff (m : Memory) (pa : Nat → Nat) (i : Nat) {prev : Option Nat} {last : Nat}
    (hprev : ∀ b ∈ prev, b < last) :
    crtBad (entryWords m pa i) prev last = false ↔ EntryValid m pa i ∧ last ≤ (tableEntry m pa i).base := by
  have hw0 : m.nat (pa i) 8 < 2 ^ 64 := m.nat_lt (pa i) 8
  have hw1 : m.nat (pa i + 8) 8 < 2 ^ 64 := m.nat_lt (pa i + 8) 8
  have hres0 : m.nat (pa i) 8 / 2 ^ 57 % 2 ^ 7 = m.nat (pa i) 8 / 2 ^ 57 := by omega
  have hres1 : m.nat (pa i + 8) 8 / 2 ^ 60 % 2 ^ 4 = m.nat (pa i + 8) 8 / 2 ^ 60 := by omega
  have hfields := crtEntry_entryWords m pa i
  simp only [crtBad, hfields]
  simp only [EntryValid, entryWords, bits_eq, hres0, hres1, Bool.or_eq_false_iff, bne_eq_false_iff_eq, beq_eq_false_iff_ne,
    decide_eq_false_iff_not, Nat.not_lt, Nat.pow_zero, Nat.div_one]
  constructor
  · rintro ⟨⟨⟨⟨⟨⟨⟨⟨h60, h7⟩, h57⟩, h0⟩, hc⟩, hl⟩, hend⟩, hle⟩, -⟩
    exact ⟨⟨h0, h57, h7, h60, hc, hl, hend⟩, hle⟩
  · rintro ⟨⟨h0, h57, h7, h60, hc, hl, hend⟩, hle⟩
    refine ⟨⟨⟨⟨⟨⟨⟨⟨h60, h7⟩, h57⟩, h0⟩, hc⟩, hl⟩, hend⟩, hle⟩, ?_⟩
    cases prev with
    | none => rfl
    | some b => exact decide_eq_false (by have := hprev b rfl; omega)

/-- The check of the last n of a table's entries always answers, and with `true` just where they are valid (R211). -/
theorem crtCheck_tail {s : State} {ctx : CtxDesc} {pa : Nat → Nat} (hat : TableAt s ctx pa) (n i : Nat) (prev : Option Nat)
    (last : Nat) (hn : i + n = ctx.crtcount) (hprev : ∀ b ∈ prev, b < last) :
    ∃ b, crtCheck s ctx n i prev last = .ok b ∧ (b = true ↔ TailValid s.mem pa i ctx.crtcount last) := by
  induction n generalizing i prev last with
  | zero => exact ⟨true, rfl, iff_of_true rfl (tailValid_of_le (by omega))⟩
  | succ n ih =>
    have hi : i < ctx.crtcount := by omega
    obtain ⟨pte, ea, base, size, htr, hrh⟩ := hat i hi
    have hbad := crtBad_eq_false_iff s.mem pa i hprev
    simp only [crtCheck, htr, crtWords_of_local hrh, crtEntry_entryWords]
    cases hb : crtBad (entryWords s.mem pa i) prev last with
    | true =>
      refine ⟨false, rfl, iff_of_false Bool.false_ne_true fun hv => ?_⟩
      have hok := hbad.2 ((tailValid_step hi).1 hv).1
      exact Bool.noConfusion (hb.symm.trans hok)
    | false =>
      have hok := hbad.1 hb
      obtain ⟨-, -, -, -, -, hlen, -⟩ := hok.1
      rw [tailValid_step hi, and_iff_right hok]
      refine ih (i + 1) _ _ (by omega) fun b hbase => ?_
      obtain rfl : _ = b := Option.some.inj hbase
      omega

/-- The check of a whole table (R211, R223). -/
theorem crtCheck_table {s : State} {ctx : CtxDesc} {pa : Nat → Nat} (hat : TableAt s ctx pa) :
    ∃ b, crtCheck s ctx ctx.crtcount 0 none 0 = .ok b ∧ (b = true ↔ TableValid s.mem pa ctx.crtcount) := by
  rw [tableValid_iff_tailValid]
  exact crtCheck_tail hat _ 0 none 0 (Nat.zero_add _) (by simp)

/-! ### CLRSYNC -/

theorem drainMreds_of_no_mreds {s : State} (h : s.mreds = []) (sid : StreetId) : s.drainMreds sid = s := by
  simp [State.drainMreds, h]

theorem paired_of_single {s : State} (h : s.st.pair = none) (cause : Nat) (k : State → Res) : s.paired cause k = k s := by
  simp [State.paired, h]

/-- A core without the region entries of a context (R223). -/
def Core.dropRegions (ctx : Nat) (c : Core) : Core := { c with lookaside := c.lookaside.filter fun e => e.ctx != ctx }

/-- A block with its context's base and count of the region table, where the block is of that context (R223, R353). -/
def Block.newTable (d : CtxDesc) (b : Block) : Block :=
  if b.ctx.ctxid = d.ctxid then { b with ctx := { b.ctx with crtbase := d.crtbase, crtcount := d.crtcount } } else b

theorem core_dropRegions_lookaside (s : State) (ctx i : Nat) :
    ((s.mapCores (Core.dropRegions ctx)).core i).lookaside = (s.core i).lookaside.filter fun e => e.ctx != ctx := by
  have hidx : ((fun c : Core => c.idx == i) ∘ Core.dropRegions ctx) = fun c => c.idx == i := rfl
  simp only [State.core, State.mapCores, List.find?_map, hidx]
  cases s.cores.find? fun c => c.idx == i <;> rfl

theorem newTable_tableNow (s : State) : s.blk.newTable (tableNow s) = { s.blk with ctx := tableNow s } := if_pos rfl

/-- The whole of CLRSYNC, where the table's entries translate: it is put into use or it traps as the check answers. -/
theorem exec_clrsync {s : State} (hpair : s.st.pair = none) (hreds : s.mreds = []) (hdesc : hbmHas (s.blk.ctx.desc + 0x38) = true)
    {b : Bool} (hcheck : crtCheck s (tableNow s) (tableNow s).crtcount 0 none 0 = .ok b) (u : Bool) :
    exec (.clrsync u) s = .next (if b then
      ((s.mapBlocks (Block.newTable (tableNow s))).mapCores (Core.dropRegions s.blk.ctx.ctxid)).done else s.takeTrap 8 0 0) := by
  have hrel : s.released = s := drainMreds_of_no_mreds hreds _
  unfold tableNow at hcheck
  show execClrsync u s = _
  simp only [execClrsync, paired_of_single hpair, hrel, hdesc, if_true, hcheck]
  cases b <;> rfl

/-- CLRSYNC's half of O42: a table is valid just where the check answers so, and the rest is read off the one run. -/
theorem colourSyncChecksTheTable : ColourSyncChecksTheTable := by
  intro u s pa hpair hreds hdesc hat
  obtain ⟨b, hcheck, hvalid⟩ := crtCheck_table hat
  have hrun := exec_clrsync hpair hreds hdesc hcheck u
  refine ⟨fun hv => ?_, fun hv => ?_⟩
  · rw [if_pos (hvalid.2 hv)] at hrun
    refine ⟨_, hrun, ⟨rfl, rfl⟩, newTable_tableNow s, rfl, rfl, fun c e he => ?_⟩
    obtain ⟨hin, hctx⟩ := List.mem_filter.1 (core_dropRegions_lookaside (s.mapBlocks _) s.blk.ctx.ctxid c ▸ he)
    exact ⟨bne_iff_ne.1 hctx, hin⟩
  · rwa [if_neg (mt hvalid.1 hv)] at hrun

/-! ### The lookups of a colour instruction -/

/-- The state after a lookup that found an entry, or none: the core's lookaside keeps the entry (R212). -/
def State.keeping (s : State) : Option RegionEntry → State
  | some r => s.keepRegion s.st.core r
  | none => s

theorem keeping_eq (s : State) (e : Option RegionEntry) : s.keeping e = { s with cores := (s.keeping e).cores } := by
  cases e <;> rfl

theorem lookLanes_cons_ok {lane va : Nat} {rest : List (Nat × Nat)} {s v : State} {cs : List (Nat × Nat × Nat)}
    (h : State.lookLanes ((lane, va) :: rest) s = .ok (cs, v)) :
    ∃ e cs', cs = (lane, va, colourNo e) :: cs' ∧ State.lookLanes rest (s.keeping e) = .ok (cs', v) := by
  rw [State.lookLanes] at h
  split at h
  · cases h
  · cases h
  · next e _ =>
    change (match State.lookLanes rest (s.keeping e) with | .error r => _ | .ok (cs, s) => _) = _ at h
    cases hrest : State.lookLanes rest (s.keeping e) with
    | error r => rw [hrest] at h; cases h
    | ok x => rw [hrest] at h; cases h; exact ⟨e, x.1, rfl, hrest⟩

/-- Lookups change the cores' lookasides at most, and answer for each lane in order. -/
theorem lookLanes_ok {ads : List (Nat × Nat)} {s v : State} {cs : List (Nat × Nat × Nat)}
    (h : State.lookLanes ads s = .ok (cs, v)) :
    (∃ cores, v = { s with cores := cores }) ∧ cs.map (·.1) = ads.map (·.1) := by
  induction ads generalizing s cs with
  | nil => cases h; exact ⟨⟨_, rfl⟩, rfl⟩
  | cons x rest ih =>
    obtain ⟨e, cs', rfl, hrest⟩ := lookLanes_cons_ok h
    obtain ⟨⟨cores, rfl⟩, hlanes⟩ := ih hrest
    exact ⟨⟨cores, by rw [keeping_eq]⟩, by simp [hlanes]⟩

theorem addrLanes_lanes (s : State) (u : Bool) (act : Mask) (a : RegNo) :
    (s.addrLanes u act a).map (·.1) = (lanesUsed u act).lanes.map (·.val) := by
  simp [State.addrLanes, Function.comp_def]

/-- Where the lookups succeed, a colour instruction goes on with their colours. -/
theorem onColours_of_looked {s v : State} {u : Bool} {a : RegNo} {cs : List (Nat × Nat × Nat)} (hact : s.active ≠ 0)
    (hup : s.upsets = []) (h : Looked? s u a cs v) (k : Mask → List (Nat × Nat × Nat) → State → Res) :
    s.onColours u a k = k s.active cs v := by
  unfold Looked? at h
  simp only [State.onColours, State.onAddrs, hact, if_false, h, srcBroken_of_no_upsets hup]

/-! ### The delivery of a load's words to registers -/

theorem bit_of_lane (l i : Nat) : ((1 <<< l : Nat) : Mask).getLsbD i = decide (i < 64 ∧ i = l) := by
  rw [BitVec.natCast_eq_ofNat, BitVec.getLsbD_ofNat, Nat.one_shiftLeft, Nat.testBit_two_pow, Bool.decide_and]
  simp [eq_comm]

theorem foldl_maskOf_bit (ls : List Nat) (acc : Mask) (i : Nat) :
    (ls.foldl (fun (m : Mask) l => m ||| ((1 <<< l : Nat) : Mask)) acc).getLsbD i
      = (acc.getLsbD i || decide (i < 64 ∧ i ∈ ls)) := by
  induction ls generalizing acc with
  | nil => simp
  | cons l ls ih =>
    rw [List.foldl_cons, ih, BitVec.getLsbD_or, bit_of_lane, Bool.or_assoc]
    simp only [List.mem_cons, and_or_left, Bool.decide_or]

/-- A mask is that of its own lanes. -/
theorem maskOf_lanes (m : Mask) : maskOf (m.lanes.map (·.val)) = m := by
  refine BitVec.eq_of_getLsbD_eq fun i hi => ?_
  have hmem : i ∈ m.lanes.map (·.val) ↔ m.getLsbD i = true := by
    simp only [List.mem_map, mem_lanes]
    exact ⟨fun ⟨l, hl, hval⟩ => hval ▸ hl, fun hm => ⟨⟨i, hi⟩, hm, rfl⟩⟩
  rw [maskOf, foldl_maskOf_bit]
  simp [hmem, hi]

@[simp] theorem resultVecs_length (u : Bool) (rs : List (Nat × List Word)) (words : Nat) :
    (resultVecs u rs words).length = words := by
  cases u <;> simp [resultVecs, laneVecs]

/-- A load without a window, on a state without uncorrectable words: the registers are written and the path's reservation of a
queue's entry is given up, before the path moves on. -/
theorem deliverLoad_regDst {s : State} (hup : s.upsets = []) (before : Street) (u : Bool) (d : RegNo)
    (rs : List (Nat × List Word)) (words : Nat) :
    s.deliverLoad before u 0 (regDst d) rs words
      = s.onSt fun t => (t.setRegs d (if u then Mask.all else maskOf (rs.map (·.1))) (resultVecs u rs words)).unreserve := by
  simp only [State.deliverLoad, State.deliver, regDst, Street.openWin, rewrote_of_no_upsets hup, Bool.false_eq_true, if_true,
    if_false]
  rfl

theorem done_onSt_unreserve_setRegs (s : State) (d : RegNo) (m : Mask) (vs : List SVec) :
    (s.onSt fun t => (t.setRegs d m vs).unreserve).done = { s with st := { s.st with
      regs := (s.st.setRegs d m vs).regs, windows := (s.st.setRegs d m vs).windows
      paths := s.st.paths.set s.st.sel { s.st.path with pc := s.st.path.pc + 4 }
      reserves := reservesLeft s, stall := none } } := by
  simp only [State.onSt]
  rw [setRegs_eq]
  rfl

/-! ### CLRQ -/

/-- The words of CLRQ are those of R224. -/
theorem clrqWords_getD (s : State) (lane c : Nat) :
    ∀ {kind i : Nat}, kind < 3 → i < (if kind = 1 then 2 else 1) →
      (s.clrqWords kind lane c).getD i 0 = queryWord s kind lane c i
  | 0, 0, _, _ => by simp [State.clrqWords, queryWord, holdOf, predWord, ones]
  | 1, 0, _, _ => by
    by_cases hc : c = 0
    · simp [State.clrqWords, queryWord, hc]
    · cases ho : (s.colour s.blk.ctx.ctxid c).owner <;> simp [State.clrqWords, queryWord, hc, ho]
  | 1, 1, _, _ => by
    by_cases hc : c = 0
    · simp [State.clrqWords, queryWord, hc]
    · cases ho : (s.colour s.blk.ctx.ctxid c).owner <;> cases hp : (s.colour s.blk.ctx.ctxid c).poison <;>
        simp [State.clrqWords, queryWord, hc, ho, hp, b2n]
  | 2, 0, _, _ => by
    unfold State.clrqWords queryWord holdOf
    cases s.st.holds.find? fun h => h.colour == c && h.lane == lane <;> by_cases hc : c = 0 <;> simp [hc, ones]

/-- The answers of CLRQ for the lanes with their colours. -/
def clrqAnswers (s : State) (kind : Nat) (cs : List (Nat × Nat × Nat)) : List (Nat × List Word) :=
  cs.map fun c => (c.1, s.clrqWords kind c.1 c.2.2)

theorem clrqAnswers_lanes (s : State) (kind : Nat) (cs : List (Nat × Nat × Nat)) :
    (clrqAnswers s kind cs).map (·.1) = cs.map (·.1) := by
  simp [clrqAnswers, Function.comp_def]

theorem find?_clrqAnswers (s : State) (kind : Nat) {cs : List (Nat × Nat × Nat)} {lane : Nat} (h : lane ∈ cs.map (·.1)) :
    (clrqAnswers s kind cs).find? (fun r => r.1 == lane) = some (lane, s.clrqWords kind lane (colourOf cs lane)) := by
  induction cs with
  | nil => cases h
  | cons x cs ih =>
    rcases eq_or_ne x.1 lane with hx | hx
    · simp [clrqAnswers, colourOf, hx]
    · have hrest := ih (by simpa [hx.symm] using h)
      simpa [clrqAnswers, colourOf, hx] using hrest

/-- What the registers get of CLRQ's answers: each lane's own words, and lane 0's in every lane under U = 1 (R63). -/
theorem resultVecs_clrqAnswers_lane (s : State) (kind : Nat) {u : Bool} {act : Mask} {cs : List (Nat × Nat × Nat)}
    (hlanes : cs.map (·.1) = (lanesUsed u act).lanes.map (·.val)) {words i : Nat} (hi : i < words) {l : Lane}
    (hl : u = true ∨ act.has l = true) :
    ((resultVecs u (clrqAnswers s kind cs) words).getD i SVec.zero).lane l
      = (s.clrqWords kind (if u then 0 else l.val) (colourOf cs (if u then 0 else l.val))).getD i 0 := by
  cases u with
  | true =>
    have hone : (Mask.lanes 1).map (·.val) = [0] := by decide
    obtain ⟨x, rfl, hx⟩ := List.map_eq_singleton_iff.1 (hlanes.trans hone)
    simp [resultVecs, clrqAnswers, colourOf, hx, hi]
  | false =>
    have hmem : l.val ∈ cs.map (·.1) := by
      rw [hlanes]
      exact List.mem_map_of_mem ((mem_lanes _ _).2 (by simpa [lanesUsed] using hl))
    simp [resultVecs, laneVecs, hi, find?_clrqAnswers s kind hmem]

/-- The lanes that CLRQ writes: all 64 under U = 1, else the active ones (R63). -/
theorem maskOf_clrqAnswers (s : State) (kind : Nat) {u : Bool} {act : Mask} {cs : List (Nat × Nat × Nat)}
    (hlanes : cs.map (·.1) = (lanesUsed u act).lanes.map (·.val)) :
    (if u then Mask.all else maskOf ((clrqAnswers s kind cs).map (·.1))) = if u then Mask.all else act := by
  cases u with
  | true => rfl
  | false => rw [clrqAnswers_lanes, hlanes, maskOf_lanes]; rfl

/-- The whole of CLRQ, where the street is not paired, its operands are declared and the lookups succeed (R224). -/
theorem clrq_of_looked {w : FClrq} {s : State} {cores : List Core} {cs : List (Nat × Nat × Nat)} {kind : Nat}
    (hready : ColourReady s w.a) (hd : regsOk s.blk.hdr.regs w.d (if kind = 1 then 2 else 1) = true)
    (hlook : Looked? s w.u w.a cs { s with cores := cores })
    (hlanes : cs.map (·.1) = (lanesUsed w.u s.active).lanes.map (·.val)) :
    s.clrq kind w = .next ({ s with cores := cores }.onSt fun t =>
      (t.setRegs w.d (if w.u then Mask.all else s.active)
        (resultVecs w.u (clrqAnswers s kind cs) (if kind = 1 then 2 else 1))).unreserve).done := by
  have ha : regsOk s.blk.hdr.regs w.a 2 = true := by
    simp [regsOk, hready.pair.1, hready.pair.2]
  rw [← maskOf_clrqAnswers s kind hlanes, ← deliverLoad_regDst (s := { s with cores := cores }) hready.sound s.st]
  simp only [State.clrq, ha, hd, Bool.and_self, Bool.not_true, Bool.false_eq_true, if_false, paired_of_single hready.single,
    onColours_of_looked hready.active hready.sound hlook]
  rfl

theorem exec_query (w : FClrq) (s : State) : ∀ p ∈ queries, exec (p.1 w) s = s.clrq p.2 w ∧ p.2 < 3 := by
  simp only [queries, List.forall_mem_cons]
  exact ⟨⟨rfl, by decide⟩, ⟨rfl, by decide⟩, ⟨rfl, by decide⟩, by simp⟩

/-- CLRQ's half of O42: the frame and the registers, from `clrq_of_looked`. -/
theorem colourQueriesReport : ColourQueriesReport := by
  intro w s v cs p hp hready hfits heven hlook
  obtain ⟨hexec, hkind⟩ := exec_query w s p hp
  obtain ⟨⟨cores, rfl⟩, hads⟩ := lookLanes_ok hlook
  have hlanes := hads.trans (addrLanes_lanes s w.u s.active w.a)
  have hd : regsOk s.blk.hdr.regs w.d (if p.2 = 1 then 2 else 1) = true := by
    rw [regsOk, Bool.and_eq_true, decide_eq_true_eq, beq_iff_eq]
    refine ⟨hfits, ?_⟩
    split
    · exact heven ‹_›
    · exact Nat.mod_one _
  have hend := regsOk_fits hd (by split <;> simp)
  refine ⟨_, hexec.trans (clrq_of_looked hready hd hlook hlanes), ?_, ?_, fun r l => ?_⟩
  · rw [done_onSt_unreserve_setRegs]
    exact ⟨rfl, rfl⟩
  · rw [done_onSt_unreserve_setRegs]
    rfl
  · rw [done_onSt_unreserve_setRegs]
    simp only
    rw [setRegs_lane _ _ _ _ _ _ (by simpa using hend), resultVecs_length]
    simp only [allOrActive_has]
    refine if_ctx_congr Iff.rfl (fun ⟨hlo, hhi, hl⟩ => ?_) fun _ => rfl
    rw [resultVecs_clrqAnswers_lane s p.2 hlanes (by omega) hl, clrqWords_getD s _ _ hkind (by omega)]

/-! ### O42 -/

/-- Settles O42: CLRQ by its one run after the lookups, CLRSYNC by the two answers of the table's check. -/
theorem colourQueriesAndSync : Obligations.ColourQueriesAndSync :=
  ⟨colourQueriesReport, colourSyncChecksTheTable⟩

end Sys2Proof.Machine
end

section
/-! SUPPORT. TQSTAT, CPYSTAT and TLREAD (R291, R295, R296): what a format E instruction leaves that only writes its two result
words, and the three instructions each run once on a state in which none of its checks fails. -/

namespace Sys2Proof.Machine

open Sys2Proof.Say

/-! ### What every format E instruction checks first -/

theorem notPaired_of_single {s : State} (h : s.st.pair = none) (k : State → Res) : s.notPaired k = k s := by
  simp [State.notPaired, h]

/-- A format E instruction that is ready passes the checks of its argument group (R275, R362), whatever record it names. -/
theorem engineOn_of_ready {s : State} {x : RegNo} (h : EngineReady s x) (u : Bool) (args : List Nat)
    (first : Lane → Option Res) (k : State → Mask → Lane → Res) :
    s.engineOn u x args first k = k s s.active (argLane u s.active) := by
  have hgroup : groupOk s.blk.hdr.regs x = true := by
    simp [groupOk, h.group.1, h.group.2.2]
  have hsound : (args.findSome? fun i =>
      s.srcBroken (1 <<< (argLane u s.active).val) (.reg (regPlus x i) 0, 1)) = none := by
    simp [srcBroken_of_no_upsets h.quiet.sound]
  simp only [State.engineOn, hgroup, h.active, hsound, Bool.not_true, Bool.false_eq_true, if_false]

/-! ### Two result words -/

/-- The state after a format E instruction that has written two words, each the same in every lane, and has opened its window
on what the registers held `before` (R275, R276). -/
def State.answered (s : State) (before : Street) (u : Bool) (la : Nat) (x : RegNo) (val : Nat → Nat) : State :=
  (s.putResult u s.active x [SVec.splat (BitVec.ofNat 32 (val 0)), SVec.splat (BitVec.ofNat 32 (val 1))]).accepted before la u
    s.active [x.toNat, x.toNat + 1]

section
variable {s : State} {x : RegNo} (h : EngineReady s x) (before : Street) (u : Bool) (la : Nat) (val : Nat → Nat)
include h

/-- Field by field: the two registers are written, the window opens, and the path moves on. -/
theorem answered_eq :
    s.answered before u la x val = { s with st := { s.st with
      regs := (s.st.setRegs x (if u then Mask.all else s.active)
        [SVec.splat (BitVec.ofNat 32 (val 0)), SVec.splat (BitVec.ofNat 32 (val 1))]).regs
      windows := (s.answered before u la x val).st.windows
      paths := s.st.paths.set s.st.sel { s.st.path with pc := s.st.path.pc + 4 }
      stall := none } } := by
  simp only [State.answered, State.accepted, State.putResult, rewrote_of_no_upsets h.quiet.sound, State.onSt]
  rw [openWin_eq, setRegs_eq]
  rfl

theorem answered_onlyRegs : s.answered before u la x val = OnlyRegs s (s.answered before u la x val) := by
  rw [answered_eq h]
  rfl

theorem answered_advanced : Advanced s (s.answered before u la x val) := by
  rw [answered_eq h]
  exact ⟨rfl, rfl⟩

theorem answered_results : Results s (s.answered before u la x val) u x 2 fun i _ => val i := by
  intro r l
  have hend : x.toNat + 2 ≤ 64 := by have := h.group.2.1; omega
  rw [answered_eq h]
  simp only
  rw [setRegs_lane _ _ _ _ _ _ hend]
  simp only [allOrActive_has, List.length_cons, List.length_nil]
  refine if_ctx_congr Iff.rfl (fun ⟨hlo, hhi, _⟩ => ?_) fun _ => rfl
  obtain hi | hi : r.toNat - x.toNat = 0 ∨ r.toNat - x.toNat = 1 := by omega
  · simp [hi]
  · simp [hi]

end

/-! ### The three instructions -/

theorem exec_tqstat {w : FEL} {s : State} (h : EngineReady s w.x) :
    exec (.tqstat w) s = .next (s.answered s.st w.u w.la.toNat w.x fun i =>
      if i = 0 then s.blk.plq.length else (s.die (coreDie s.st.core)).pool.length) := by
  show execTqstat w s = _
  simp only [execTqstat, State.engineEntry, engineOn_of_ready h, notPaired_of_single h.quiet.single]
  rfl

/-- The copies that R294 and R295 count: those of CPY and CPYRED, and those of SALN and SMETA. -/
theorem isCopyKind_eq (k : OpKind) : isCopyKind k = (k == .copy || k == .sal) := by
  cases k <;> rfl

/-- No check of a format E instruction looks at the sticky errors of copies. -/
theorem engineReady_copyErr {s : State} {x : RegNo} (h : EngineReady s x) (e : Nat) :
    EngineReady (s.onSt fun t => { t with copyErr := e }) x where
  quiet :=
    { single := h.quiet.single, sound := h.quiet.sound, clean := h.quiet.clean, noWatch := h.quiet.noWatch
      plain := h.quiet.plain, noMons := h.quiet.noMons, noBars := h.quiet.noBars, sentNone := h.quiet.sentNone }
  group := h.group
  active := h.active

/-- CPYSTAT answers what it found, on the state in which the sticky errors are cleared (R295). -/
theorem exec_cpystat {w : FEL} {s : State} (h : EngineReady s w.x) :
    exec (.cpystat w) s = .next ((s.onSt fun t => { t with copyErr := 0 }).answered s.st w.u w.la.toNat w.x fun i =>
      if i = 0 then (s.st.ops.filter fun o => o.kind == .copy || o.kind == .sal).length else s.st.copyErr) := by
  show execCpystat w s = _
  simp only [execCpystat, State.engineEntry, engineOn_of_ready h, notPaired_of_single h.quiet.single, State.opsOf,
    isCopyKind_eq]
  rfl

theorem exec_tlread {w : FE} {s : State} (h : EngineReady s w.x) :
    exec (.tlread w) s = .next (s.answered s.st w.u w.la.toNat w.x fun i =>
      (s.blk.tl w.q.toNat).value / 2 ^ (32 * i)) := by
  show execTlread w s = _
  simp only [execTlread, State.engineEntry, engineOn_of_ready h, State.answered, splat64, Nat.mul_zero, Nat.pow_zero,
    Nat.div_one, Nat.mul_one]

/-! ### O20 -/

/-- Settles O20: each instruction by its one run; that of CPYSTAT answers on the state with its sticky errors cleared. -/
theorem queuesAndTimelinesAreRead : Obligations.QueuesAndTimelinesAreRead := by
  refine ⟨fun w s h => ⟨?_, ?_⟩, fun w s h => ?_⟩
  · exact ⟨_, exec_tqstat h, answered_advanced h .., answered_onlyRegs h .., answered_results h _ _ _ _⟩
  · have hclear := engineReady_copyErr h 0
    exact ⟨_, exec_cpystat h, answered_advanced hclear .., answered_onlyRegs hclear .., answered_results hclear _ _ _ _⟩
  · exact ⟨_, exec_tlread h, answered_advanced h .., answered_onlyRegs h .., answered_results h _ _ _ _⟩

end Sys2Proof.Machine
end
